-- ==== Sys2Proof/Word.lean ====
section
/-! DEFINITION. The word types of the Velutor V9 and the sparse tables the state is made of. -/

namespace Sys2Proof

/-- A byte of memory or of a packet (R2). -/
abbrev Byte := BitVec 8
/-- A 32-bit vector register or Gorbex word (R92, R314). -/
abbrev W32 := BitVec 32
/-- A 64-bit pair, address or Akpor word (R92, R331). -/
abbrev W64 := BitVec 64
/-- A 6-bit register field: v0 to v63 (R316). -/
abbrev Reg := BitVec 6
/-- A 5-bit Akpor register field: f0 to f31 (R331). -/
abbrev FReg := BitVec 5

/-- A sparse table: entries by rising key. A key with no entry reads as the table's default. -/
abbrev Tab (α : Type) := List (Nat × α)

namespace Tab

/-- The entry at a key, if any. -/
def find? {α : Type} : Tab α → Nat → Option α
  | [], _ => none
  | (k', v) :: t, k => if k' = k then some v else find? t k

/-- The entry at a key, or a default. -/
def get {α : Type} (t : Tab α) (k : Nat) (d : α) : α := (find? t k).getD d

/-- Puts an entry at its place by rising key. -/
def set {α : Type} : Tab α → Nat → α → Tab α
  | [], k, v => [(k, v)]
  | (k', v') :: t, k, v =>
    if k' < k then (k', v') :: set t k v
    else if k' = k then (k, v) :: t
    else (k, v) :: (k', v') :: t

/-- Removes every entry at a key. -/
def erase {α : Type} : Tab α → Nat → Tab α
  | [], _ => []
  | (k', v') :: t, k => if k' = k then erase t k else (k', v') :: erase t k

/-- Applies a function to every entry. -/
def mapVals {α : Type} (f : Nat → α → α) : Tab α → Tab α
  | [] => []
  | (k, v) :: t => (k, f k v) :: mapVals f t

end Tab

end Sys2Proof
end

