-- ==== Sys2Proof/Kinds.lean ====
section
/-! DEFINITION. The names that operand fields and events select: modifiers of instructions, formats, and the data that
an event from outside brings with it. -/

namespace Sys2Proof

/-- Rounding directions of R171. -/
inductive Rnd where
  | rne | rz | rm | rp
deriving DecidableEq, Repr

/-- The OP field of `atom` and `red` (R336). -/
inductive AtomOp where
  | add | smin | smax | umin | umax | band | bor | bxor | exch | cas | fadd
deriving DecidableEq, Repr

/-- The SCOPE field of `atom` and `red` (R336, R114). -/
inductive Scope where
  | core | die | mod
deriving DecidableEq, Repr

/-- The operations of `redux` (R337, R442). -/
inductive ReduxOp where
  | add | smin | smax | umin | umax | band | bor | bxor
deriving DecidableEq, Repr

/-- The element formats of R178 by format code 0 to 10. -/
inductive ElemFmt where
  | fp32 | fp16 | bf16 | e4m3 | e5m2 | e2m1 | dn9 | dn6 | dn4 | int32 | uint32
deriving DecidableEq, Repr

/-- The forms of `fx.add` (R384). -/
inductive FxAddForm where
  | half | int | pair
deriving DecidableEq, Repr

/-- The widths of `fx.ld` and `fx.st` (R392). -/
inductive FxWidth where
  | d | w | h | b
deriving DecidableEq, Repr

/-- The conditions of `fx.bcc` (R385). -/
inductive FxCond where
  | eq | ne | lt | ge | gt | le
deriving DecidableEq, Repr

/-- The payload codes of R230. -/
inductive PayCode where
  | fp32 | bf16 | s1 | t3 | q8
deriving DecidableEq, Repr

/-- A collective packet as it arrives: the header of R230 and its payload. -/
structure Packet where
  coll : BitVec 16
  bucket : BitVec 16
  chunk : BitVec 16
  src : BitVec 16
  nwp : Byte
  code : Byte
  len : BitVec 16
  wps : List W32
  tail : W32
  payload : List Byte
  /-- The packet asks for a delivery mode the module does not support (R243). -/
  unsupported : Bool
  /-- The low bit of the EPOCH whose key it names (R247). -/
  keyBit : Bool
  /-- The transport's number of the packet within its session, which a packet sent again keeps (R243). -/
  psn : Nat
deriving DecidableEq, Repr

/-- A remote enqueue on its virtual channel (R87, R443): the record, and for `wenq` the payload and its target. -/
structure Enqueue where
  record : List Byte
  payload : List Byte
  target : W64
  wenq : Bool
  ack : Bool
  /-- The low bit of the EPOCH whose key it names (R247). -/
  keyBit : Bool
  /-- The transport's number of the enqueue in the order of its session, which its answer names (R87, R243). -/
  psn : Nat
deriving DecidableEq, Repr

/-- An answer to a collective packet: the transport number of the packet, and the low bit of the EPOCH whose key the answer names (R241,
R247). -/
structure PacketAnswer where
  psn : Nat
  keyBit : Bool
deriving DecidableEq, Repr

/-- The answer to a remote enqueue: the transport number of the enqueue, its code, and the low bit of the EPOCH whose key the answer names
(R87, R89, R247). -/
structure EnqueueAnswer where
  psn : Nat
  code : W64
  keyBit : Bool
deriving DecidableEq, Repr

/-- The answer that frees the slot of a remote enqueue without acknowledgement: the session's slot, the transport number of the enqueue, and
the low bit of the EPOCH whose key the answer names (R87, R247). -/
structure SentEnqueue where
  slot : Nat
  psn : Nat
  keyBit : Bool
deriving DecidableEq, Repr

/-- A host access to a range of device memory by CXL.mem: data to write, or a length to read (R140). -/
inductive HostMem where
  | read (len : Nat)
  | write (data : List Byte)
deriving DecidableEq, Repr

end Sys2Proof
end

