-- ==== Sys2Proof/Syntax.lean ====
section
/-! DEFINITION. The instructions and events of the opcode table, one constructor a row: Gorbex words (R334 to R341),
Akpor words (R342) and the events of "What each step holds", each with the data it needs.
Their order here carries no meaning.
A Gorbex word's CHAIN, SWITCH and guard bits (R314) belong to the word and stand in its header, not here. -/

namespace Sys2Proof

/-- One row of the opcode table: a Gorbex instruction, an Akpor instruction, or an event of the machine. -/
inductive Instr where
  /-- `nop` (R429). -/
  | nop
  /-- `add` (R344). -/
  | add (d a b : Reg) (m : Bool)
  /-- `add` (R344). -/
  | addImm (d a : Reg) (imm : BitVec 7)
  /-- `sub` (R456). -/
  | sub (d a b : Reg) (m : Bool)
  /-- `mul` (R428). -/
  | mul (d a b : Reg)
  /-- `mul` (R428). -/
  | mulImm (d a : Reg) (imm : BitVec 7)
  /-- `mulh` (R428). -/
  | mulh (d a b : Reg) (m : Bool)
  /-- `mad` (R419). -/
  | mad (d a b : Reg)
  /-- `and` (R345). -/
  | and (d a b : Reg) (m : Bool)
  /-- `and` (R345). -/
  | andImm (d a : Reg) (imm : BitVec 7)
  /-- `or` (R433). -/
  | or (d a b : Reg) (m : Bool)
  /-- `or` (R433). -/
  | orImm (d a : Reg) (imm : BitVec 7)
  /-- `xor` (R463). -/
  | xor (d a b : Reg) (m : Bool)
  /-- `xor` (R463). -/
  | xorImm (d a : Reg) (imm : BitVec 7)
  /-- `shl` (R450). -/
  | shl (d a b : Reg) (m : Bool)
  /-- `shl` (R450). -/
  | shlImm (d a : Reg) (imm : BitVec 7)
  /-- `shr` (R450). -/
  | shr (d a b : Reg) (m : Bool)
  /-- `shr` (R450). -/
  | shrImm (d a : Reg) (imm : BitVec 7)
  /-- `sar` (R450). -/
  | sar (d a b : Reg) (m : Bool)
  /-- `sar` (R450). -/
  | sarImm (d a : Reg) (imm : BitVec 7)
  /-- `min` (R420). -/
  | min (d a b : Reg) (m : Bool)
  /-- `max` (R420). -/
  | max (d a b : Reg) (m : Bool)
  /-- `sel` (R448). -/
  | sel (d a b : Reg)
  /-- `bfx` (R355). -/
  | bfx (d a b : Reg) (m : Bool)
  /-- `bfi` (R354). -/
  | bfi (d a b : Reg)
  /-- `cmp.eq` (R364). -/
  | cmpEq (d a b : Reg) (m : Bool)
  /-- `cmp.ne` (R364). -/
  | cmpNe (d a b : Reg) (m : Bool)
  /-- `cmp.lt` (R364). -/
  | cmpLt (d a b : Reg) (m : Bool)
  /-- `cmp.le` (R364). -/
  | cmpLe (d a b : Reg) (m : Bool)
  /-- `cmp.ltu` (R364). -/
  | cmpLtu (d a b : Reg) (m : Bool)
  /-- `cmp.leu` (R364). -/
  | cmpLeu (d a b : Reg) (m : Bool)
  /-- `pand` (R434). -/
  | pand (d a b : Reg) (m : Bool)
  /-- `por` (R434). -/
  | por (d a b : Reg) (m : Bool)
  /-- `pxor` (R434). -/
  | pxor (d a b : Reg) (m : Bool)
  /-- `pnot` (R434). -/
  | pnot (d a : Reg) (m : Bool)
  /-- `pmov` (R434). -/
  | pmov (d a : Reg) (m : Bool)
  /-- `lds.b` (R414). -/
  | ldsB (d a : Reg) (imm : BitVec 7)
  /-- `lds.h` (R414). -/
  | ldsH (d a : Reg) (imm : BitVec 7)
  /-- `lds` (R414). -/
  | lds (d a : Reg) (imm : BitVec 7)
  /-- `lds.d` (R414). -/
  | ldsD (d a : Reg) (imm : BitVec 7)
  /-- `sts.b` (R454). -/
  | stsB (d a : Reg) (imm : BitVec 7)
  /-- `sts.h` (R454). -/
  | stsH (d a : Reg) (imm : BitVec 7)
  /-- `sts` (R454). -/
  | sts (d a : Reg) (imm : BitVec 7)
  /-- `sts.d` (R454). -/
  | stsD (d a : Reg) (imm : BitVec 7)
  /-- `ld.b` (R414). -/
  | ldB (d a : Reg) (imm : BitVec 7)
  /-- `ld.h` (R414). -/
  | ldH (d a : Reg) (imm : BitVec 7)
  /-- `ld` (R414). -/
  | ld (d a : Reg) (imm : BitVec 7)
  /-- `ld.d` (R414). -/
  | ldD (d a : Reg) (imm : BitVec 7)
  /-- `st.b` (R454). -/
  | stB (d a : Reg) (imm : BitVec 7)
  /-- `st.h` (R454). -/
  | stH (d a : Reg) (imm : BitVec 7)
  /-- `st` (R454). -/
  | st (d a : Reg) (imm : BitVec 7)
  /-- `st.d` (R454). -/
  | stD (d a : Reg) (imm : BitVec 7)
  /-- `ldp` (R414). -/
  | ldp (d a : Reg) (imm : BitVec 7)
  /-- `ldp.d` (R414). -/
  | ldpD (d a : Reg) (imm : BitVec 7)
  /-- `stp` (R454). -/
  | stp (d a : Reg) (imm : BitVec 7)
  /-- `stp.d` (R454). -/
  | stpD (d a : Reg) (imm : BitVec 7)
  /-- `movi` (R427). -/
  | movi (d : Reg) (imm : BitVec 13)
  /-- `movh` (R427). -/
  | movh (d : Reg) (imm : BitVec 13)
  /-- `srd` (R452). -/
  | srd (d : Reg) (imm : BitVec 13)
  /-- `swr` (R452). -/
  | swr (d : Reg) (imm : BitVec 13)
  /-- `lit` (R418). -/
  | lit (d : Reg) (imm : BitVec 13)
  /-- `pref` (R436). -/
  | pref (a : Reg) (imm : BitVec 7)
  /-- `vote.any` (R461). -/
  | voteAny (d a : Reg)
  /-- `vote.all` (R461). -/
  | voteAll (d a : Reg)
  /-- `vote.ballot` (R461). -/
  | voteBallot (d a : Reg)
  /-- `shfl` (R449). -/
  | shfl (d a b : Reg) (m : Bool)
  /-- `copy` (R365). -/
  | copy (d a b : Reg) (m : Bool)
  /-- `gath` (R408). -/
  | gath (d a b : Reg) (m : Bool)
  /-- `unfold` (R460). -/
  | unfold (d a b : Reg) (m : Bool)
  /-- `quant` (R437). -/
  | quant (d a b : Reg) (m : Bool)
  /-- `mma` (R421). -/
  | mma (d a b : Reg) (m : Bool)
  /-- `mmo` (R425). -/
  | mmo (d a b : Reg) (m : Bool)
  /-- `tile` (R458). -/
  | tile (d a b : Reg)
  /-- `obres` (R431). -/
  | obres (d a b : Reg) (m : Bool)
  /-- `fread` (R378). -/
  | fread (d a b : Reg)
  /-- `fwrite` (R380). -/
  | fwrite (d a b : Reg) (m : Bool)
  /-- `arm` (R346). -/
  | arm (d a b : Reg) (m : Bool)
  /-- `cinc` (R361). -/
  | cinc (a b : Reg)
  /-- `cstart` (R367). -/
  | cstart (d a b : Reg)
  /-- `renq` (R443). -/
  | renq (d a : Reg) (m : Bool)
  /-- `wenq` (R443). -/
  | wenq (d a : Reg) (m : Bool)
  /-- `mov` (R426). -/
  | mov (d a : Reg)
  /-- `clz` (R363). -/
  | clz (d a : Reg)
  /-- `popc` (R435). -/
  | popc (d a : Reg)
  /-- `lea.s` (R417). -/
  | leaS (d a : Reg)
  /-- `lea.p` (R417). -/
  | leaP (d a : Reg)
  /-- `frcp` (R375). -/
  | frcp (d a : Reg)
  /-- `frsq` (R375). -/
  | frsq (d a : Reg)
  /-- `fsqrt` (R375). -/
  | fsqrt (d a : Reg)
  /-- `fexp2` (R375). -/
  | fexp2 (d a : Reg)
  /-- `flog2` (R375). -/
  | flog2 (d a : Reg)
  /-- `atom` (R348). -/
  | atom (op : AtomOp) (w64 : Bool) (scope : Scope) (d a : Reg)
  /-- `red` (R440). -/
  | red (op : AtomOp) (w64 : Bool) (scope : Scope) (d a : Reg)
  /-- `fence` (R374). -/
  | fence
  /-- `fence.e` (R374). -/
  | fenceE
  /-- `fence.w` (R374). -/
  | fenceW
  /-- `clean` (R362). -/
  | clean (a : Reg)
  /-- `obrel` (R430). -/
  | obrel (a : Reg)
  /-- `spawn` (R451). -/
  | spawn (a : Reg)
  /-- `disarm` (R370). -/
  | disarm (d a : Reg)
  /-- `exit` (R371). -/
  | exit
  /-- `yield` (R464). -/
  | yield
  /-- `ret` (R446). -/
  | ret
  /-- `rfe` (R447). -/
  | rfe
  /-- `brx` (R358). -/
  | brx (a : Reg)
  /-- `call` (R359). -/
  | callReg (a : Reg)
  /-- `gbar` (R411). -/
  | gbar
  /-- `tbar` (R457). -/
  | tbar
  /-- `wend` (R462). -/
  | wend (a : Reg)
  /-- `wvr` (R462). -/
  | wvr (d a : Reg)
  /-- `choose` (R360). -/
  | choose (a : Reg)
  /-- `bar.init` (R350). -/
  | barInit (d a : Reg)
  /-- `bar.expect` (R350). -/
  | barExpect (d a : Reg)
  /-- `bar.arrive` (R351). -/
  | barArrive (d a : Reg)
  /-- `bar.wait` (R352). -/
  | barWait (d a b : Reg) (m : Bool)
  /-- `bar.try` (R352). -/
  | barTry (d a b : Reg) (m : Bool)
  /-- `br` (R356). -/
  | br (off : BitVec 19)
  /-- `call` (R359). -/
  | call (off : BitVec 19)
  /-- `fork` (R377). -/
  | fork (d : Reg) (imm : BitVec 13)
  /-- `rgive` (R439). -/
  | rgive (imm : BitVec 13)
  /-- `rclaim` (R439). -/
  | rclaim (imm : BitVec 13)
  /-- `brk` (R357). -/
  | brk (imm : BitVec 13)
  /-- `trap` (R459). -/
  | trap (imm : BitVec 13)
  /-- `redux` (R442). -/
  | redux (op : ReduxOp) (d a : Reg)
  /-- `fadd` (R372). -/
  | fadd (rnd : Rnd) (d a b : Reg)
  /-- `fmul` (R372). -/
  | fmul (rnd : Rnd) (d a b : Reg)
  /-- `fma` (R372). -/
  | fma (rnd : Rnd) (d a b : Reg)
  /-- `fmin` (R376). -/
  | fmin (d a b : Reg)
  /-- `fmax` (R376). -/
  | fmax (d a b : Reg)
  /-- `fcmp.eq` (R373). -/
  | fcmpEq (d a b : Reg) (m : Bool)
  /-- `fcmp.lt` (R373). -/
  | fcmpLt (d a b : Reg) (m : Bool)
  /-- `fcmp.le` (R373). -/
  | fcmpLe (d a b : Reg) (m : Bool)
  /-- `fcmp.un` (R373). -/
  | fcmpUn (d a b : Reg) (m : Bool)
  /-- `hadd2` (R413). -/
  | hadd2 (d a b : Reg) (m : Bool)
  /-- `hmul2` (R413). -/
  | hmul2 (d a b : Reg) (m : Bool)
  /-- `hfma2` (R413). -/
  | hfma2 (d a b : Reg) (m : Bool)
  /-- `hmin2` (R413). -/
  | hmin2 (d a b : Reg) (m : Bool)
  /-- `hmax2` (R413). -/
  | hmax2 (d a b : Reg) (m : Bool)
  /-- `cvt` (R368). -/
  | cvtFromF32 (dst : ElemFmt) (sat : Bool) (rnd : Rnd) (d a : Reg)
  /-- `cvt` (R368). -/
  | cvtFromF16 (dst : ElemFmt) (sat : Bool) (rnd : Rnd) (d a : Reg)
  /-- `cvt` (R368). -/
  | cvtFromBf16 (dst : ElemFmt) (sat : Bool) (rnd : Rnd) (d a : Reg)
  /-- `cvt` (R368). -/
  | cvtFromE4m3 (dst : ElemFmt) (sat : Bool) (rnd : Rnd) (d a : Reg)
  /-- `cvt` (R368). -/
  | cvtFromE5m2 (dst : ElemFmt) (sat : Bool) (rnd : Rnd) (d a : Reg)
  /-- `cvt` (R368). -/
  | cvtFromE2m1 (dst : ElemFmt) (sat : Bool) (rnd : Rnd) (d a : Reg)
  /-- `cvt` (R368). -/
  | cvtFromInt32 (dst : ElemFmt) (sat : Bool) (rnd : Rnd) (d a : Reg)
  /-- `cvt` (R368). -/
  | cvtFromUint32 (dst : ElemFmt) (sat : Bool) (rnd : Rnd) (d a : Reg)
  /-- `cvt` (R368). -/
  | cvtFromE8m0 (dst : ElemFmt) (sat : Bool) (rnd : Rnd) (d a : Reg)
  /-- `fx.li` (R393). -/
  | fxLi (h : Bool) (d a : FReg) (imm : W32)
  /-- `fx.ld` (R392). -/
  | fxLd (width : FxWidth) (d a : FReg) (imm : W32)
  /-- `fx.st` (R392). -/
  | fxSt (width : FxWidth) (d a : FReg) (imm : W32)
  /-- `fx.add` (R384). -/
  | fxAdd (form : FxAddForm) (d a b : FReg)
  /-- `fx.cmp` (R386). -/
  | fxCmp (sgn : Bool) (a b : FReg)
  /-- `fx.br` (R385). -/
  | fxBr (target : W32)
  /-- `fx.bcc` (R385). -/
  | fxBcc (cc : FxCond) (target : W32)
  /-- `fx.loop` (R394). -/
  | fxLoop (a : FReg) (target : W32)
  /-- `fx.end` (R388). -/
  | fxEnd
  /-- `fx.deadline` (R387). -/
  | fxDeadline (a : FReg) (imm : W32)
  /-- `fx.quorum` (R397). -/
  | fxQuorum (off : Bool)
  /-- `fx.hist` (R390). -/
  | fxHist (off : Bool)
  /-- `fx.scale` (R402). -/
  | fxScale (a : FReg) (imm : W32)
  /-- `fx.itin` (R391). -/
  | fxItin (j : BitVec 3) (clr : Bool) (a : FReg) (imm : W32)
  /-- `fx.step` (R405). -/
  | fxStep (a : FReg) (imm : W32)
  /-- `fx.send` (R403). -/
  | fxSend (a b : FReg)
  /-- `fx.recv` (R398). -/
  | fxRecv (dlv sig : Bool) (d a b : FReg)
  /-- `fx.wait` (R407). -/
  | fxWait (d : FReg) (k : BitVec 4)
  /-- `fx.match` (R395). -/
  | fxMatch (d b : FReg)
  /-- `fx.red` (R400). -/
  | fxRed (nh : Bool) (d a b : FReg)
  /-- `fx.resid` (R401). -/
  | fxResid (clr : Bool) (d a : FReg) (imm : W32)
  /-- `fx.pack1` (R396). -/
  | fxPack1 (d a b : FReg)
  /-- `fx.pack3` (R396). -/
  | fxPack3 (d a b : FReg)
  /-- `fx.packq` (R396). -/
  | fxPackq (d a b : FReg)
  /-- `fx.unpack` (R406). -/
  | fxUnpack (code : PayCode) (d a b : FReg)
  /-- `fx.gather` (R389). -/
  | fxGather (a b : FReg)
  /-- `fx.sig` (R404). -/
  | fxSig (a b : FReg)
  /-- `VARIABLE_RESULT_WRITE` (R60). -/
  | variableResultWrite (thread idx : Nat)
  /-- `GROUP_EXCHANGE` (R40). -/
  | groupExchange (core slot : Nat)
  /-- `FORCED_EXCHANGE` (R41). -/
  | forcedExchange (core : Nat)
  /-- `EXCHANGE_DONE` (R40). -/
  | exchangeDone (core slot : Nat)
  /-- `SLOT_FILL` (R483). -/
  | slotFill (core slot : Nat)
  /-- `YIELD_RESUME` (R464). -/
  | yieldResume (thread : Nat)
  /-- `RCLAIM_GRANT` (R55). -/
  | rclaimGrant (core : Nat)
  /-- `TEAM_PLACEMENT` (R79). -/
  | teamPlacement (die : Nat)
  /-- `BALANCE_EXCHANGE` (R80). -/
  | balanceExchange (die : Nat)
  /-- `BUDGET_PERIOD` (R91). -/
  | budgetPeriod
  /-- `SCRATCHPAD_COMPACTION` (R107). -/
  | scratchpadCompaction (team place : Nat)
  /-- `WQ_RECORD_FETCH` (R71). -/
  | wqRecordFetch (q : Nat)
  /-- `FUTURE_WALK` (R84). -/
  | futureWalk (ctx : Nat)
  /-- `REMOTE_ENQUEUE_ARRIVAL` (R88). -/
  | remoteEnqueueArrival (fd slot : Nat) (msg : Enqueue)
  /-- `ENQUEUE_ACK` (R89). -/
  | enqueueAck (fd slot : Nat) (code : EnqueueAnswer)
  /-- `JOB_SECTOR` (R134). -/
  | jobSector (core job sector : Nat)
  /-- `SECTOR_LAND` (R206). -/
  | sectorLand (core job : Nat)
  /-- `INTERVAL_RETIRE` (R132). -/
  | intervalRetire (core idx : Nat)
  /-- `MMA_MULTIPLY_START` (R214). -/
  | mmaMultiplyStart (core : Nat)
  /-- `MMA_COMPLETE` (R214). -/
  | mmaComplete (core : Nat)
  /-- `CLONE_START` (R148). -/
  | cloneStart (team : Nat)
  /-- `OUTBOX_ENTRY` (R158). -/
  | outboxEntry (ctx : Nat)
  /-- `VIEW_SWEEP` (R165). -/
  | viewSweep (ctx : Nat)
  /-- `FAULT_RETRY` (R284). -/
  | faultRetry (agent : Nat) (value : W64)
  /-- `FAULT_FATAL` (R284). -/
  | faultFatal (agent : Nat) (value : W64)
  /-- `XINV` (R284). -/
  | xinv (agent : Nat) (value : W64)
  /-- `XINV_COMPLETE` (R284). -/
  | xinvComplete
  /-- `CONTEXT_TEARDOWN` (R295). -/
  | contextTeardown (ctx : Nat)
  /-- `WATCHDOG` (R293). -/
  | watchdog (thread : Nat)
  /-- `FABRIC_WATCHDOG` (R293). -/
  | fabricWatchdog (proc slot : Nat)
  /-- `SWITCH_OUT` (R286). -/
  | switchOut (agent ctx : Nat)
  /-- `DRAIN_LIMIT` (R286). -/
  | drainLimit (team : Nat)
  /-- `TEAM_SAVE_COMPLETE` (R288). -/
  | teamSaveComplete (team : Nat)
  /-- `SWITCH_OUT_COMPLETE` (R304). -/
  | switchOutComplete (ctx : Nat)
  /-- `SWITCH_IN` (R304). -/
  | switchIn (agent ctx : Nat)
  /-- `TEAM_RESTORE` (R289). -/
  | teamRestore (die : Nat)
  /-- `CONTEXT_BIND` (R304). -/
  | contextBind (agent ctx : Nat) (value : W64)
  /-- `CONTEXT_KILL` (R303). -/
  | contextKill (agent ctx : Nat)
  /-- `SCRUB_CORE_STATE` (R308). -/
  | scrubCoreState
  /-- `SCRUB_GRANULE` (R308). -/
  | scrubGranule (die : Nat)
  /-- `SCRUB_JOURNAL_WRITE` (R309). -/
  | scrubJournalWrite
  /-- `SCRUB_END` (R308). -/
  | scrubEnd
  /-- `HANDSHAKE_RETRY` (R246). -/
  | handshakeRetry (fd slot : Nat)
  /-- `KEY_ROTATION_START` (R247). -/
  | keyRotationStart (fd slot : Nat)
  /-- `KEY_SWITCH` (R247). -/
  | keySwitch (fd slot : Nat)
  /-- `OLD_KEY_DISCARD` (R247). -/
  | oldKeyDiscard (fd slot : Nat)
  /-- `TRANSPORT_GIVE_UP` (R248). -/
  | transportGiveUp (fd slot pkt : Nat)
  /-- `START_REQUEST` (R223). -/
  | startRequest (proc : Nat)
  /-- `IMAGE_LOAD_COMPLETE` (R218). -/
  | imageLoadComplete (proc slot : Nat)
  /-- `DEFERRED_FIRE_RELEASE` (R229). -/
  | deferredFireRelease (ctx : Nat)
  /-- `RECEIVE_DEADLINE` (R240). -/
  | receiveDeadline (proc slot idx : Nat)
  /-- `STORE_PERFORMED` (R137). -/
  | storePerformed (thread : Nat)
  /-- `PACKET_RETRANSMIT` (R237). -/
  | packetRetransmit (fd slot pkt : Nat)
  /-- `WQ_DOORBELL` (R71). -/
  | wqDoorbell (agent q : Nat) (tail : W32)
  /-- `WQ_ENABLE` (R72). -/
  | wqEnable (agent q : Nat) (value : W64)
  /-- `WQ_DISABLE` (R72). -/
  | wqDisable (agent q : Nat)
  /-- `WQ_ERR_CLEAR` (R72). -/
  | wqErrClear (agent q : Nat)
  /-- `CLAIM` (R75). -/
  | claim (agent window : Nat) (byte : Byte)
  /-- `RELEASE` (R77). -/
  | release (agent : Nat)
  /-- `OWNER_LINK_DOWN` (R77). -/
  | ownerLinkDown
  /-- `DENIED_READ` (R74). -/
  | deniedRead (agent : Nat)
  /-- `ERRDROP_READ` (R303). -/
  | errdropRead (agent ctx : Nat)
  /-- `PARTCFG_WRITE` (R301). -/
  | partcfgWrite (agent : Nat) (value : W64)
  /-- `REGISTER_WRITE` (R6). -/
  | registerWrite (agent off size : Nat) (value : W64)
  /-- `HOST_MEMORY_ACCESS` (R140). -/
  | hostMemoryAccess (lead pa : Nat) (acc : HostMem)
  /-- `ATTESTATION_REQUEST` (R311). -/
  | attestationRequest (agent : Nat) (value : W64)
  /-- `ATTESTATION_DONE` (R311). -/
  | attestationDone
  /-- `WARM_RESET` (R312). -/
  | warmReset (agent : Nat)
  /-- `COLD_RESET` (R312). -/
  | coldReset
  /-- `RESET_REQ` (R312). -/
  | resetReq (value : Byte)
  /-- `PWR_REQ` (R312). -/
  | pwrReq (value : Byte)
  /-- `AGENTKEY_WRITE` (R76). -/
  | agentkeyWrite (idx : Nat) (byte : Byte)
  /-- `AGENTLOCK` (R76). -/
  | agentlock (value : Byte)
  /-- `THROTTLE` (R313). -/
  | throttle (die : Nat) (temp power : Int)
  /-- `THERMAL_TRIP` (R313). -/
  | thermalTrip (die : Nat) (temp : Int)
  /-- `SESSION_ENABLE` (R306). -/
  | sessionEnable (agent fd slot : Nat) (value : W32)
  /-- `SESSION_DISABLE` (R306). -/
  | sessionDisable (agent fd slot : Nat)
  /-- `SESSION_FAILED_CLEAR` (R306). -/
  | sessionFailedClear (agent fd slot : Nat)
  /-- `HANDSHAKE_OFFER` (R246). -/
  | handshakeOffer (fd slot : Nat) (dgram : List Byte)
  /-- `HANDSHAKE_ANSWER` (R245). -/
  | handshakeAnswer (fd slot : Nat) (dgram : List Byte)
  /-- `PACKET_ARRIVAL` (R232). -/
  | packetArrival (fd slot : Nat) (pkt : Packet)
  /-- `ACCEPT_RESPONSE` (R241). -/
  | acceptResponse (fd slot : Nat) (pkt : PacketAnswer)
  /-- `LATE_RESPONSE` (R267). -/
  | lateResponse (fd slot : Nat) (pkt : PacketAnswer)
  /-- `PORT_LINK_DOWN` (R244). -/
  | portLinkDown (port : Nat)
  /-- `PORT_LINK_UP` (R244). -/
  | portLinkUp (port : Nat)
  /-- `THROTTLE_END` (R313). -/
  | throttleEnd (die : Nat) (temp power : Int)
  /-- `POWER_REMOVAL` (R312). -/
  | powerRemoval
  /-- `REMOTE_SLOT_RELEASE` (R87). -/
  | remoteSlotRelease (fd : Nat) (slot : SentEnqueue)
  /-- `PARTITION_SWAP` (R286). -/
  | partitionSwap (agent lead : Nat) (out : Bool)
  /-- `DEBUGGER_HALT` (R286). -/
  | debuggerHalt (team : Nat)
deriving DecidableEq, Repr

end Sys2Proof
end

