-- ==== Sys2Proof/WellFormed.lean ====
section
/-! DEFINITION. Which instructions an encoding can name (R316, R317, R336 to R340, R332) and which events carry data of the
right shape. Each check has a name of its own. -/

namespace Sys2Proof

/-- Why a term of `Instr` is no instruction of the machine. -/
inductive IllFormed where
  /-- A field that names a pair vN.d holds an odd N (R92, R340). -/
  | oddPair
  /-- A register block or a `cas` register rule is broken (R336, R365, R378, R408, R431, R443). -/
  | registerBlock
  /-- A field that the instruction does not use is not zero (R317, R332). -/
  | unusedField
  /-- An FW immediate is outside the range its entry allows (R340, R377, R439). -/
  | immediateRange
  /-- An `atom` or `red` combination that R336 refuses. -/
  | atomForm
  /-- A `cvt` pair that R179 does not list (R338, R368). -/
  | cvtPair
  /-- A special-register number that no mode may read, or write (R93, R276, R452). -/
  | specialRegister
  /-- `fx.recv` with SIG and without DLV (R398). -/
  | receiveForm
  /-- An event whose data has not the size its rule gives it. -/
  | eventData
deriving DecidableEq, Repr

/-- An even register number, the first of a pair (R92). -/
def isPair (r : Reg) : Bool := r.toNat % 2 == 0

/-- Names a check: it fails with this name unless the condition holds. -/
def unlessOk (c : Bool) (e : IllFormed) (rest : Option IllFormed) : Option IllFormed :=
  if c then rest else some e

/-- The conversions that R179 lists, from a source to a destination (R368). -/
def cvtAllowed : ElemFmt → ElemFmt → Bool
  | .fp32, .fp16 | .fp32, .bf16 | .fp32, .e4m3 | .fp32, .e5m2 | .fp32, .e2m1 | .fp32, .int32 | .fp32, .uint32 => true
  | .fp16, .fp32 | .fp16, .bf16 | .fp16, .e4m3 | .fp16, .e5m2 | .fp16, .e2m1 | .fp16, .int32 | .fp16, .uint32 => true
  | .bf16, .fp32 | .bf16, .fp16 | .bf16, .e4m3 | .bf16, .e5m2 | .bf16, .e2m1 | .bf16, .int32 | .bf16, .uint32 => true
  | .e4m3, .fp32 | .e4m3, .fp16 | .e4m3, .bf16 | .e4m3, .e5m2 | .e4m3, .e2m1 => true
  | .e5m2, .fp32 | .e5m2, .fp16 | .e5m2, .bf16 | .e5m2, .e4m3 | .e5m2, .e2m1 => true
  | .e2m1, .fp32 | .e2m1, .fp16 | .e2m1, .bf16 | .e2m1, .e4m3 | .e2m1, .e5m2 => true
  | .int32, .fp32 | .int32, .fp16 | .int32, .bf16 => true
  | .uint32, .fp32 | .uint32, .fp16 | .uint32, .bf16 => true
  | _, _ => false

/-- Special registers that some mode may read with `srd` (R93, R124, R145, R276). -/
def srReadable (n : Nat) : Bool :=
  n ≤ 0x00D || (0x010 ≤ n && n ≤ 0x020) || n == 0x030 || n == 0x031 || (0x100 ≤ n && n ≤ 0x112) ||
    (0x140 ≤ n && n ≤ 0x142) || n == 0x150

/-- Special registers that some mode may write with `swr` (R93, R98, R124, R276). -/
def srWritable (n : Nat) : Bool :=
  n == 0x020 || (0x102 ≤ n && n ≤ 0x110) || n == 0x112 || (0x140 ≤ n && n ≤ 0x142)

/-- Register counts that `rgive` and `rclaim` may name (R56, R439). -/
def isRegCount (n : Nat) : Bool := n % 8 == 0 && 8 ≤ n && n ≤ 64

namespace Instr

/-- Three fields that are pairs when m is set. -/
def pairs3 (d a b : Reg) (m : Bool) : Option IllFormed :=
  unlessOk (!m || (isPair d && isPair a && isPair b)) .oddPair none

/-- The shift forms: d and a are pairs when m is set (R450). -/
def pairs2 (d a : Reg) (m : Bool) : Option IllFormed :=
  unlessOk (!m || (isPair d && isPair a)) .oddPair none

/-- A register block that begins at an even number no greater than a limit. -/
def evenBlock (a : Reg) (last : Nat) : Option IllFormed :=
  unlessOk (isPair a && a.toNat ≤ last) .registerBlock none

/-- The fields of a copy-unit instruction: `.nx` has no barrier (R365). -/
def engineFields (a b : Reg) (m : Bool) (last : Nat) : Option IllFormed :=
  unlessOk (a.toNat ≤ last) .registerBlock (unlessOk (!m || b == 0) .unusedField none)

/-- The register rules of `atom` and `red` (R336). -/
def atomFields (op : AtomOp) (w64 : Bool) (d a : Reg) : Option IllFormed :=
  unlessOk (isPair a) .oddPair <|
  unlessOk (!(op == .fadd && w64)) .atomForm <|
  match op, w64 with
  | .cas, true => unlessOk (d.toNat % 4 == 0) .registerBlock none
  | .cas, false => unlessOk (d.toNat ≤ 62) .registerBlock none
  | _, true => unlessOk (isPair d) .oddPair none
  | _, false => none

/-- The remote-enqueue fields: d is the ack word's pair, or zero (R443). -/
def enqueueFields (d a : Reg) (m : Bool) (last : Nat) : Option IllFormed :=
  unlessOk (if m then isPair d else d == 0) (if m then .oddPair else .unusedField) (evenBlock a last)

/-- The size of a task record and the longest payload of a remote enqueue (R63, R443). -/
def enqueueData (msg : Enqueue) : Option IllFormed :=
  unlessOk (msg.record.length == 64 && (if msg.wenq then 1 ≤ msg.payload.length && msg.payload.length ≤ 4096
    else msg.payload.isEmpty)) .eventData none

/-- Why an instruction is ill-formed, or none. -/
def illFormed : Instr → Option IllFormed
  | .add d a b m | .sub d a b m | .and d a b m | .or d a b m | .xor d a b m => pairs3 d a b m
  | .shl d a _ m | .shr d a _ m | .sar d a _ m => pairs2 d a m
  | .ldB _ a _ | .ldH _ a _ | .ld _ a _ | .stB _ a _ | .stH _ a _ | .st _ a _ | .pref a _ => unlessOk (isPair a) .oddPair none
  | .ldD d a _ | .stD d a _ => unlessOk (isPair d && isPair a) .oddPair none
  | .ldsD d _ _ | .stsD d _ _ | .ldpD d _ _ | .stpD d _ _ => unlessOk (isPair d) .oddPair none
  | .leaS d _ | .leaP d _ => unlessOk (isPair d) .oddPair none
  | .clean a | .spawn a | .brx a | .callReg a => unlessOk (isPair a) .oddPair none
  | .atom op w64 _ d a => atomFields op w64 d a
  | .red op w64 _ d a => unlessOk (op != .exch && op != .cas) .atomForm (atomFields op w64 d a)
  | .copy _ a b m | .unfold _ a b m | .quant _ a b m => engineFields a b m 61
  | .gath _ a b m => unlessOk (isPair a) .registerBlock (engineFields a b m 58)
  | .mma _ _ b _ | .mmo _ _ b _ => unlessOk (isPair b) .oddPair none
  | .tile d _ _ => unlessOk (isPair d) .oddPair none
  | .obres _ a _ _ => unlessOk (a.toNat ≤ 60) .registerBlock none
  | .fread d a _ => unlessOk (isPair d) .oddPair (evenBlock a 60)
  | .fwrite _ a b _ => unlessOk (isPair a && isPair b) .oddPair none
  | .arm _ a _ _ => evenBlock a 58
  | .cinc a _ => unlessOk (isPair a) .oddPair none
  | .cstart d a b => unlessOk (isPair d && isPair a && isPair b) .oddPair none
  | .renq d a m => enqueueFields d a m 60
  | .wenq d a m => enqueueFields d a m 56
  | .fork _ imm => unlessOk (1 ≤ imm.toNat && imm.toNat ≤ 4) .immediateRange none
  | .rgive imm | .rclaim imm => unlessOk (isRegCount imm.toNat) .immediateRange none
  | .srd _ imm => unlessOk (srReadable imm.toNat) .specialRegister none
  | .swr _ imm => unlessOk (srWritable imm.toNat) .specialRegister none
  | .cvtFromF32 dst _ _ _ _ => unlessOk (cvtAllowed .fp32 dst) .cvtPair none
  | .cvtFromF16 dst _ _ _ _ => unlessOk (cvtAllowed .fp16 dst) .cvtPair none
  | .cvtFromBf16 dst _ _ _ _ => unlessOk (cvtAllowed .bf16 dst) .cvtPair none
  | .cvtFromE4m3 dst _ _ _ _ => unlessOk (cvtAllowed .e4m3 dst) .cvtPair none
  | .cvtFromE5m2 dst _ _ _ _ => unlessOk (cvtAllowed .e5m2 dst) .cvtPair none
  | .cvtFromE2m1 dst _ _ _ _ => unlessOk (cvtAllowed .e2m1 dst) .cvtPair none
  | .cvtFromInt32 dst _ _ _ _ => unlessOk (cvtAllowed .int32 dst) .cvtPair none
  | .cvtFromUint32 dst _ _ _ _ => unlessOk (cvtAllowed .uint32 dst) .cvtPair none
  | .cvtFromE8m0 dst _ _ _ _ => unlessOk (dst == .fp32) .cvtPair none
  | .fxRecv dlv sig d _ _ => unlessOk (!sig || dlv) .receiveForm (unlessOk (sig || d == 0) .unusedField none)
  | .fxResid clr _ a imm => unlessOk (!clr || (a == 0 && imm == 0)) .unusedField none
  | .remoteEnqueueArrival _ _ msg => enqueueData msg
  | .packetArrival _ _ pkt => unlessOk (pkt.wps.length == 8 && pkt.payload.length == pkt.len.toNat) .eventData none
  | .handshakeOffer _ _ dgram | .handshakeAnswer _ _ dgram => unlessOk (dgram.length == 204) .eventData none
  | _ => none

/-- Well-formed: no check fails. -/
abbrev wf (i : Instr) : Prop := i.illFormed = none

end Instr

end Sys2Proof
end

