-- ==== Sys2Proof/Decode.lean ====
section
/-! DEFINITION. Reading and writing the words of chapter 13 by the maps of chapter 14. A word that names no instruction is
rejected under a name (R340, R332); the encoder writes the same fields. -/

namespace Sys2Proof

/-- Why a word is no instruction. A Gorbex word then raises the illegal-instruction trap (R340), an Akpor word ends the
collective with status 0x0004 (R332). -/
inductive DecodeError where
  /-- A primary opcode that R334 or R342 leaves unallocated. -/
  | unallocatedOpcode
  /-- A sub-op that R335 to R338 leave unallocated. -/
  | unallocatedSubOp
  /-- A field that the instruction does not use is not zero (R317, R332). -/
  | unusedField
  /-- A MOD value that the Akpor instruction does not define (R332). -/
  | undefinedMod
  /-- The guard "never" (R315). -/
  | guardNever
  /-- A convergence point under a guard other than "always" (R46). -/
  | guardedConvergence
  /-- A check of well-formedness fails. -/
  | illFormed (why : IllFormed)
  /-- Fewer bytes than the word holds. -/
  | tooShort
deriving DecidableEq, Repr

/-- The bits that every Gorbex word carries besides its instruction (R314). -/
structure Header where
  chain : Bool
  switch : Bool
  gneg : Bool
  gsel : BitVec 3
deriving DecidableEq, Repr

/-- The header of a word under the guard "always" with no marker. -/
def Header.plain : Header := ⟨false, false, false, 7⟩

/-- The guard "always" (R315). -/
def Header.always (h : Header) : Bool := h.gsel == 7 && !h.gneg

/-- Field d, bits [18:13] (R316). -/
def fD (x : BitVec 19) : Reg := x.extractLsb' 13 6
/-- Field a or base, bits [12:7] (R316). -/
def fA (x : BitVec 19) : Reg := x.extractLsb' 7 6
/-- Field b, bits [6:1] (R316). -/
def fB (x : BitVec 19) : Reg := x.extractLsb' 1 6
/-- Bit m (R316). -/
def fM (x : BitVec 19) : Bool := x.getLsbD 0
/-- imm7 or sub-op, bits [6:0] (R316). -/
def fI (x : BitVec 19) : BitVec 7 := x.extractLsb' 0 7
/-- imm13, bits [12:0] (R316). -/
def fW (x : BitVec 19) : BitVec 13 := x.extractLsb' 0 13

/-- Refuses a nonzero field d. -/
def noD (x : BitVec 19) (r : Except DecodeError Instr) : Except DecodeError Instr :=
  if fD x == 0 then r else .error .unusedField
/-- Refuses a nonzero field a. -/
def noA (x : BitVec 19) (r : Except DecodeError Instr) : Except DecodeError Instr :=
  if fA x == 0 then r else .error .unusedField
/-- Refuses a nonzero field b. -/
def noB (x : BitVec 19) (i : Instr) : Except DecodeError Instr :=
  if fB x == 0 then .ok i else .error .unusedField
/-- Refuses a set bit m. -/
def noM (x : BitVec 19) (i : Instr) : Except DecodeError Instr :=
  if fM x then .error .unusedField else .ok i

/-- The operation codes of R336. -/
def atomCode : AtomOp → BitVec 4
  | .add => 0 | .smin => 1 | .smax => 2 | .umin => 3 | .umax => 4 | .band => 5 | .bor => 6 | .bxor => 7
  | .exch => 8 | .cas => 9 | .fadd => 10

/-- The operation of a code of R336. -/
def atomOf (c : BitVec 4) : Option AtomOp :=
  match c.toNat with
  | 0 => some .add | 1 => some .smin | 2 => some .smax | 3 => some .umin | 4 => some .umax | 5 => some .band
  | 6 => some .bor | 7 => some .bxor | 8 => some .exch | 9 => some .cas | 10 => some .fadd | _ => none

/-- The scope codes of R336. -/
def scopeCode : Scope → BitVec 2
  | .core => 0 | .die => 1 | .mod => 2

/-- The scope of a code of R336. -/
def scopeOf (c : BitVec 2) : Option Scope :=
  match c.toNat with
  | 0 => some .core | 1 => some .die | 2 => some .mod | _ => none

/-- The rounding codes of R338 and R339. -/
def rndCode {n : Nat} : Rnd → BitVec n
  | .rne => 0 | .rz => 1 | .rm => 2 | .rp => 3

/-- The rounding of a code of R338. -/
def rndOf (c : BitVec 2) : Rnd :=
  match c.toNat with
  | 0 => .rne | 1 => .rz | 2 => .rm | _ => .rp

/-- The format codes of R178. -/
def fmtCode : ElemFmt → BitVec 4
  | .fp32 => 0 | .fp16 => 1 | .bf16 => 2 | .e4m3 => 3 | .e5m2 => 4 | .e2m1 => 5 | .dn9 => 6 | .dn6 => 7 | .dn4 => 8
  | .int32 => 9 | .uint32 => 10

/-- The format of a code of R178; codes 11 to 15 are reserved. -/
def fmtOf (c : BitVec 4) : Option ElemFmt :=
  match c.toNat with
  | 0 => some .fp32 | 1 => some .fp16 | 2 => some .bf16 | 3 => some .e4m3 | 4 => some .e5m2 | 5 => some .e2m1
  | 6 => some .dn9 | 7 => some .dn6 | 8 => some .dn4 | 9 => some .int32 | 10 => some .uint32 | _ => none

/-- The codes of `redux` (R337). -/
def reduxSub : ReduxOp → BitVec 7
  | .add => 0 | .smin => 1 | .smax => 2 | .umin => 3 | .umax => 4 | .band => 5 | .bor => 6 | .bxor => 7

/-- The payload codes of R230. -/
def payCode : PayCode → BitVec 3
  | .fp32 => 0 | .bf16 => 1 | .s1 => 2 | .t3 => 3 | .q8 => 4

/-- The payload code of a number (R230); 5 and above name none. -/
def payOfNat : Nat → Option PayCode
  | 0 => some .fp32 | 1 => some .bf16 | 2 => some .s1 | 3 => some .t3 | 4 => some .q8 | _ => none

/-- The sub-op of `atom` and `red`: OP in [3:0], SCOPE in [5:4], W64 in [6] (R336). -/
def atomSub (op : AtomOp) (w64 : Bool) (scope : Scope) : BitVec 7 :=
  BitVec.ofBool w64 ++ (scopeCode scope ++ atomCode op)

/-- The sub-op of `cvt`: destination in [3:0], `.sat` in [4], rounding in [6:5] (R338). -/
def cvtSub (dst : ElemFmt) (sat : Bool) (rnd : Rnd) : BitVec 7 :=
  (rndCode rnd : BitVec 2) ++ (BitVec.ofBool sat ++ fmtCode dst)

/-- Reads the sub-op of `atom` and `red` (R336). -/
def decodeAtom (x : BitVec 19) (k : AtomOp → Bool → Scope → Instr) : Except DecodeError Instr :=
  match atomOf (x.extractLsb' 0 4), scopeOf (x.extractLsb' 4 2) with
  | some op, some scope => .ok (k op (x.getLsbD 6) scope)
  | _, _ => .error .unallocatedSubOp

/-- Reads the sub-op of `cvt` (R338). -/
def decodeCvt (x : BitVec 19) (k : ElemFmt → Bool → Rnd → Instr) : Except DecodeError Instr :=
  match fmtOf (x.extractLsb' 0 4) with
  | some dst => .ok (k dst (x.getLsbD 4) (rndOf (x.extractLsb' 5 2)))
  | none => .error .unallocatedSubOp

/-- Reads the sub-op of `redux` (R337). -/
def decodeRedux (x : BitVec 19) : Except DecodeError Instr :=
  match (fI x).toNat with
  | 0 => .ok (.redux .add (fD x) (fA x))
  | 1 => .ok (.redux .smin (fD x) (fA x))
  | 2 => .ok (.redux .smax (fD x) (fA x))
  | 3 => .ok (.redux .umin (fD x) (fA x))
  | 4 => .ok (.redux .umax (fD x) (fA x))
  | 5 => .ok (.redux .band (fD x) (fA x))
  | 6 => .ok (.redux .bor (fD x) (fA x))
  | 7 => .ok (.redux .bxor (fD x) (fA x))
  | _ => .error .unallocatedSubOp

/-- Akpor field D, bits [57:53] (R331). -/
def xD (w : W64) : FReg := w.extractLsb' 53 5
/-- Akpor field A, bits [52:48] (R331). -/
def xA (w : W64) : FReg := w.extractLsb' 48 5
/-- Akpor field B, bits [47:43] (R331). -/
def xB (w : W64) : FReg := w.extractLsb' 43 5
/-- Akpor field MOD, bits [42:32] (R331). -/
def xM (w : W64) : BitVec 11 := w.extractLsb' 32 11
/-- Akpor field IMM, bits [31:0] (R331). -/
def xI (w : W64) : W32 := w.extractLsb' 0 32

/-- Refuses a nonzero field D. -/
def fxD0 (w : W64) (r : Except DecodeError Instr) : Except DecodeError Instr := if xD w == 0 then r else .error .unusedField
/-- Refuses a nonzero field A. -/
def fxA0 (w : W64) (r : Except DecodeError Instr) : Except DecodeError Instr := if xA w == 0 then r else .error .unusedField
/-- Refuses a nonzero field B. -/
def fxB0 (w : W64) (r : Except DecodeError Instr) : Except DecodeError Instr := if xB w == 0 then r else .error .unusedField
/-- Refuses a nonzero IMM. -/
def fxI0 (w : W64) (r : Except DecodeError Instr) : Except DecodeError Instr := if xI w == 0 then r else .error .unusedField
/-- MOD is zero. -/
def noMod (w : W64) (i : Instr) : Except DecodeError Instr := if xM w == 0 then .ok i else .error .undefinedMod
/-- MOD[0] is a flag and the rest zero. -/
def flag1 (w : W64) (k : Bool → Instr) : Except DecodeError Instr :=
  if (xM w).toNat < 2 then .ok (k ((xM w).getLsbD 0)) else .error .undefinedMod
/-- MOD[0] and MOD[1] are flags and the rest zero. -/
def flag2 (w : W64) (k : Bool → Bool → Instr) : Except DecodeError Instr :=
  if (xM w).toNat < 4 then .ok (k ((xM w).getLsbD 0) ((xM w).getLsbD 1)) else .error .undefinedMod
/-- MOD of `fx.ld` and `fx.st` (R392). -/
def widthOf (w : W64) (k : FxWidth → Instr) : Except DecodeError Instr :=
  match (xM w).toNat with
  | 0 => .ok (k .d) | 1 => .ok (k .w) | 2 => .ok (k .h) | 3 => .ok (k .b) | _ => .error .undefinedMod
/-- MOD of `fx.add` (R384). -/
def addForm (w : W64) (k : FxAddForm → Instr) : Except DecodeError Instr :=
  match (xM w).toNat with
  | 0 => .ok (k .half) | 1 => .ok (k .int) | 2 => .ok (k .pair) | _ => .error .undefinedMod
/-- MOD of `fx.bcc` (R385). -/
def condOf (w : W64) (k : FxCond → Instr) : Except DecodeError Instr :=
  match (xM w).toNat with
  | 0 => .ok (k .eq) | 1 => .ok (k .ne) | 2 => .ok (k .lt) | 3 => .ok (k .ge) | 4 => .ok (k .gt) | 5 => .ok (k .le)
  | _ => .error .undefinedMod
/-- MOD of `fx.itin` (R391). -/
def itinOf (w : W64) (k : BitVec 3 → Bool → Instr) : Except DecodeError Instr :=
  if (xM w).toNat < 16 then .ok (k ((xM w).extractLsb' 0 3) ((xM w).getLsbD 3)) else .error .undefinedMod
/-- MOD of `fx.wait` (R407). -/
def waitOf (w : W64) (k : BitVec 4 → Instr) : Except DecodeError Instr :=
  if (xM w).toNat < 16 then .ok (k ((xM w).extractLsb' 0 4)) else .error .undefinedMod
/-- MOD of `fx.unpack` (R406). -/
def payOf (w : W64) (k : PayCode → Instr) : Except DecodeError Instr :=
  match payOfNat (xM w).toNat with
  | some c => .ok (k c)
  | none => .error .undefinedMod

/-- A flag as MOD[0]. -/
def modFlag (b : Bool) : BitVec 11 := (0 : BitVec 10) ++ BitVec.ofBool b
/-- Two flags as MOD[0] and MOD[1]. -/
def modFlags (b0 b1 : Bool) : BitVec 11 := (0 : BitVec 9) ++ (BitVec.ofBool b1 ++ BitVec.ofBool b0)
/-- The width codes of R392. -/
def widthCode : FxWidth → BitVec 11
  | .d => 0 | .w => 1 | .h => 2 | .b => 3
/-- The forms of R384. -/
def addFormCode : FxAddForm → BitVec 11
  | .half => 0 | .int => 1 | .pair => 2
/-- The condition codes of R385. -/
def condCode : FxCond → BitVec 11
  | .eq => 0 | .ne => 1 | .lt => 2 | .ge => 3 | .gt => 4 | .le => 5
/-- MOD of `fx.itin`. -/
def itinMod (j : BitVec 3) (clr : Bool) : BitVec 11 := (0 : BitVec 7) ++ (BitVec.ofBool clr ++ j)
/-- MOD of `fx.wait`. -/
def waitMod (k : BitVec 4) : BitVec 11 := (0 : BitVec 7) ++ k
/-- MOD of `fx.unpack`. -/
def payMod (c : PayCode) : BitVec 11 := (0 : BitVec 8) ++ payCode c

/-- The sub-ops of opcode 0x3E (R335, R337). -/
def decodeFe3E (x : BitVec 19) : Except DecodeError Instr :=
  match (fI x).toNat with
  | 0x00 => .ok (.voteAny (fD x) (fA x))
  | 0x01 => .ok (.voteAll (fD x) (fA x))
  | 0x02 => .ok (.voteBallot (fD x) (fA x))
  | _ => .error .unallocatedSubOp

/-- The sub-ops of opcode 0x50 (R335, R337). -/
def decodeFe50 (x : BitVec 19) : Except DecodeError Instr :=
  match (fI x).toNat with
  | 0x00 => .ok (.mov (fD x) (fA x))
  | 0x01 => .ok (.clz (fD x) (fA x))
  | 0x02 => .ok (.popc (fD x) (fA x))
  | 0x03 => .ok (.leaS (fD x) (fA x))
  | 0x04 => .ok (.leaP (fD x) (fA x))
  | _ => .error .unallocatedSubOp

/-- The sub-ops of opcode 0x51 (R335, R337). -/
def decodeFe51 (x : BitVec 19) : Except DecodeError Instr :=
  match (fI x).toNat with
  | 0x00 => .ok (.frcp (fD x) (fA x))
  | 0x01 => .ok (.frsq (fD x) (fA x))
  | 0x02 => .ok (.fsqrt (fD x) (fA x))
  | 0x03 => .ok (.fexp2 (fD x) (fA x))
  | 0x04 => .ok (.flog2 (fD x) (fA x))
  | _ => .error .unallocatedSubOp

/-- The sub-ops of opcode 0x54 (R335, R337). -/
def decodeFe54 (x : BitVec 19) : Except DecodeError Instr :=
  match (fI x).toNat with
  | 0x00 => noD x (noA x (.ok .fence))
  | 0x01 => noD x (noA x (.ok .fenceE))
  | 0x02 => noD x (noA x (.ok .fenceW))
  | 0x03 => noD x (.ok (.clean (fA x)))
  | 0x04 => noD x (.ok (.obrel (fA x)))
  | 0x05 => noD x (.ok (.spawn (fA x)))
  | 0x06 => .ok (.disarm (fD x) (fA x))
  | _ => .error .unallocatedSubOp

/-- The sub-ops of opcode 0x55 (R335, R337). -/
def decodeFe55 (x : BitVec 19) : Except DecodeError Instr :=
  match (fI x).toNat with
  | 0x00 => noD x (noA x (.ok .exit))
  | 0x01 => noD x (noA x (.ok .yield))
  | 0x02 => noD x (noA x (.ok .ret))
  | 0x03 => noD x (noA x (.ok .rfe))
  | 0x04 => noD x (.ok (.brx (fA x)))
  | 0x05 => noD x (.ok (.callReg (fA x)))
  | 0x06 => noD x (noA x (.ok .gbar))
  | 0x07 => noD x (noA x (.ok .tbar))
  | 0x08 => noD x (.ok (.wend (fA x)))
  | 0x09 => .ok (.wvr (fD x) (fA x))
  | 0x0A => noD x (.ok (.choose (fA x)))
  | 0x0B => .ok (.barInit (fD x) (fA x))
  | 0x0C => .ok (.barExpect (fD x) (fA x))
  | 0x0D => .ok (.barArrive (fD x) (fA x))
  | _ => .error .unallocatedSubOp

/-- The instruction of a primary opcode and its operand bits (R334). -/
def decodeOp (op : BitVec 7) (x : BitVec 19) : Except DecodeError Instr :=
  match op.toNat with
  | 0x00 => if x == 0 then .ok .nop else .error .unusedField
  | 0x01 => .ok (.add (fD x) (fA x) (fB x) (fM x))
  | 0x02 => .ok (.sub (fD x) (fA x) (fB x) (fM x))
  | 0x03 => noM x (.mul (fD x) (fA x) (fB x))
  | 0x04 => .ok (.mulh (fD x) (fA x) (fB x) (fM x))
  | 0x05 => noM x (.mad (fD x) (fA x) (fB x))
  | 0x06 => .ok (.and (fD x) (fA x) (fB x) (fM x))
  | 0x07 => .ok (.or (fD x) (fA x) (fB x) (fM x))
  | 0x08 => .ok (.xor (fD x) (fA x) (fB x) (fM x))
  | 0x09 => .ok (.shl (fD x) (fA x) (fB x) (fM x))
  | 0x0A => .ok (.shr (fD x) (fA x) (fB x) (fM x))
  | 0x0B => .ok (.sar (fD x) (fA x) (fB x) (fM x))
  | 0x0C => .ok (.min (fD x) (fA x) (fB x) (fM x))
  | 0x0D => .ok (.max (fD x) (fA x) (fB x) (fM x))
  | 0x0E => noM x (.sel (fD x) (fA x) (fB x))
  | 0x0F => .ok (.bfx (fD x) (fA x) (fB x) (fM x))
  | 0x10 => noM x (.bfi (fD x) (fA x) (fB x))
  | 0x11 => .ok (.addImm (fD x) (fA x) (fI x))
  | 0x12 => .ok (.mulImm (fD x) (fA x) (fI x))
  | 0x13 => .ok (.andImm (fD x) (fA x) (fI x))
  | 0x14 => .ok (.orImm (fD x) (fA x) (fI x))
  | 0x15 => .ok (.xorImm (fD x) (fA x) (fI x))
  | 0x16 => .ok (.shlImm (fD x) (fA x) (fI x))
  | 0x17 => .ok (.shrImm (fD x) (fA x) (fI x))
  | 0x18 => .ok (.sarImm (fD x) (fA x) (fI x))
  | 0x19 => .ok (.cmpEq (fD x) (fA x) (fB x) (fM x))
  | 0x1A => .ok (.cmpNe (fD x) (fA x) (fB x) (fM x))
  | 0x1B => .ok (.cmpLt (fD x) (fA x) (fB x) (fM x))
  | 0x1C => .ok (.cmpLe (fD x) (fA x) (fB x) (fM x))
  | 0x1D => .ok (.cmpLtu (fD x) (fA x) (fB x) (fM x))
  | 0x1E => .ok (.cmpLeu (fD x) (fA x) (fB x) (fM x))
  | 0x1F => .ok (.pand (fD x) (fA x) (fB x) (fM x))
  | 0x20 => .ok (.por (fD x) (fA x) (fB x) (fM x))
  | 0x21 => .ok (.pxor (fD x) (fA x) (fB x) (fM x))
  | 0x22 => .ok (.ldsB (fD x) (fA x) (fI x))
  | 0x23 => .ok (.ldsH (fD x) (fA x) (fI x))
  | 0x24 => .ok (.lds (fD x) (fA x) (fI x))
  | 0x25 => .ok (.ldsD (fD x) (fA x) (fI x))
  | 0x26 => .ok (.stsB (fD x) (fA x) (fI x))
  | 0x27 => .ok (.stsH (fD x) (fA x) (fI x))
  | 0x28 => .ok (.sts (fD x) (fA x) (fI x))
  | 0x29 => .ok (.stsD (fD x) (fA x) (fI x))
  | 0x2A => .ok (.ldB (fD x) (fA x) (fI x))
  | 0x2B => .ok (.ldH (fD x) (fA x) (fI x))
  | 0x2C => .ok (.ld (fD x) (fA x) (fI x))
  | 0x2D => .ok (.ldD (fD x) (fA x) (fI x))
  | 0x2E => .ok (.stB (fD x) (fA x) (fI x))
  | 0x2F => .ok (.stH (fD x) (fA x) (fI x))
  | 0x30 => .ok (.st (fD x) (fA x) (fI x))
  | 0x31 => .ok (.stD (fD x) (fA x) (fI x))
  | 0x32 => .ok (.ldp (fD x) (fA x) (fI x))
  | 0x33 => .ok (.ldpD (fD x) (fA x) (fI x))
  | 0x34 => .ok (.stp (fD x) (fA x) (fI x))
  | 0x35 => .ok (.stpD (fD x) (fA x) (fI x))
  | 0x36 => noB x (.pnot (fD x) (fA x) (fM x))
  | 0x37 => noB x (.pmov (fD x) (fA x) (fM x))
  | 0x38 => .ok (.movi (fD x) (fW x))
  | 0x39 => .ok (.movh (fD x) (fW x))
  | 0x3A => .ok (.srd (fD x) (fW x))
  | 0x3B => .ok (.swr (fD x) (fW x))
  | 0x3C => .ok (.lit (fD x) (fW x))
  | 0x3D => noD x (.ok (.pref (fA x) (fI x)))
  | 0x3E => decodeFe3E x
  | 0x3F => .ok (.shfl (fD x) (fA x) (fB x) (fM x))
  | 0x40 => .ok (.copy (fD x) (fA x) (fB x) (fM x))
  | 0x41 => .ok (.gath (fD x) (fA x) (fB x) (fM x))
  | 0x42 => .ok (.unfold (fD x) (fA x) (fB x) (fM x))
  | 0x43 => .ok (.quant (fD x) (fA x) (fB x) (fM x))
  | 0x44 => .ok (.mma (fD x) (fA x) (fB x) (fM x))
  | 0x45 => .ok (.mmo (fD x) (fA x) (fB x) (fM x))
  | 0x46 => noM x (.tile (fD x) (fA x) (fB x))
  | 0x47 => .ok (.obres (fD x) (fA x) (fB x) (fM x))
  | 0x48 => noM x (.fread (fD x) (fA x) (fB x))
  | 0x49 => .ok (.fwrite (fD x) (fA x) (fB x) (fM x))
  | 0x4A => .ok (.arm (fD x) (fA x) (fB x) (fM x))
  | 0x4B => noD x (noM x (.cinc (fA x) (fB x)))
  | 0x4C => noM x (.cstart (fD x) (fA x) (fB x))
  | 0x4D => noB x (.renq (fD x) (fA x) (fM x))
  | 0x4E => noB x (.wenq (fD x) (fA x) (fM x))
  | 0x50 => decodeFe50 x
  | 0x51 => decodeFe51 x
  | 0x52 => decodeAtom x fun op w64 scope => .atom op w64 scope (fD x) (fA x)
  | 0x53 => decodeAtom x fun op w64 scope => .red op w64 scope (fD x) (fA x)
  | 0x54 => decodeFe54 x
  | 0x55 => decodeFe55 x
  | 0x56 => .ok (.barWait (fD x) (fA x) (fB x) (fM x))
  | 0x57 => .ok (.barTry (fD x) (fA x) (fB x) (fM x))
  | 0x58 => .ok (.br x)
  | 0x59 => .ok (.call x)
  | 0x5A => .ok (.fork (fD x) (fW x))
  | 0x5B => noD x (.ok (.rgive (fW x)))
  | 0x5C => noD x (.ok (.rclaim (fW x)))
  | 0x5D => noD x (.ok (.brk (fW x)))
  | 0x5E => noD x (.ok (.trap (fW x)))
  | 0x5F => decodeRedux x
  | 0x60 => noM x (.fadd .rne (fD x) (fA x) (fB x))
  | 0x61 => noM x (.fadd .rz (fD x) (fA x) (fB x))
  | 0x62 => noM x (.fadd .rm (fD x) (fA x) (fB x))
  | 0x63 => noM x (.fadd .rp (fD x) (fA x) (fB x))
  | 0x64 => noM x (.fmul .rne (fD x) (fA x) (fB x))
  | 0x65 => noM x (.fmul .rz (fD x) (fA x) (fB x))
  | 0x66 => noM x (.fmul .rm (fD x) (fA x) (fB x))
  | 0x67 => noM x (.fmul .rp (fD x) (fA x) (fB x))
  | 0x68 => noM x (.fma .rne (fD x) (fA x) (fB x))
  | 0x69 => noM x (.fma .rz (fD x) (fA x) (fB x))
  | 0x6A => noM x (.fma .rm (fD x) (fA x) (fB x))
  | 0x6B => noM x (.fma .rp (fD x) (fA x) (fB x))
  | 0x6C => noM x (.fmin (fD x) (fA x) (fB x))
  | 0x6D => noM x (.fmax (fD x) (fA x) (fB x))
  | 0x6E => .ok (.fcmpEq (fD x) (fA x) (fB x) (fM x))
  | 0x6F => .ok (.fcmpLt (fD x) (fA x) (fB x) (fM x))
  | 0x70 => .ok (.fcmpLe (fD x) (fA x) (fB x) (fM x))
  | 0x71 => .ok (.fcmpUn (fD x) (fA x) (fB x) (fM x))
  | 0x72 => .ok (.hadd2 (fD x) (fA x) (fB x) (fM x))
  | 0x73 => .ok (.hmul2 (fD x) (fA x) (fB x) (fM x))
  | 0x74 => .ok (.hfma2 (fD x) (fA x) (fB x) (fM x))
  | 0x75 => .ok (.hmin2 (fD x) (fA x) (fB x) (fM x))
  | 0x76 => .ok (.hmax2 (fD x) (fA x) (fB x) (fM x))
  | 0x77 => decodeCvt x fun dst sat rnd => .cvtFromF32 dst sat rnd (fD x) (fA x)
  | 0x78 => decodeCvt x fun dst sat rnd => .cvtFromF16 dst sat rnd (fD x) (fA x)
  | 0x79 => decodeCvt x fun dst sat rnd => .cvtFromBf16 dst sat rnd (fD x) (fA x)
  | 0x7A => decodeCvt x fun dst sat rnd => .cvtFromE4m3 dst sat rnd (fD x) (fA x)
  | 0x7B => decodeCvt x fun dst sat rnd => .cvtFromE5m2 dst sat rnd (fD x) (fA x)
  | 0x7C => decodeCvt x fun dst sat rnd => .cvtFromE2m1 dst sat rnd (fD x) (fA x)
  | 0x7D => decodeCvt x fun dst sat rnd => .cvtFromInt32 dst sat rnd (fD x) (fA x)
  | 0x7E => decodeCvt x fun dst sat rnd => .cvtFromUint32 dst sat rnd (fD x) (fA x)
  | 0x7F => decodeCvt x fun dst sat rnd => .cvtFromE8m0 dst sat rnd (fD x) (fA x)
  | _ => .error .unallocatedOpcode

/-- The Akpor instruction of an opcode (R342). -/
def decodeFxOp (op : BitVec 6) (w : W64) : Except DecodeError Instr :=
  match op.toNat with
  | 0x01 => fxB0 w (flag1 w fun h => .fxLi h (xD w) (xA w) (xI w))
  | 0x02 => fxB0 w (widthOf w fun width => .fxLd width (xD w) (xA w) (xI w))
  | 0x03 => fxB0 w (widthOf w fun width => .fxSt width (xD w) (xA w) (xI w))
  | 0x04 => fxI0 w (addForm w fun form => .fxAdd form (xD w) (xA w) (xB w))
  | 0x05 => fxD0 w (fxI0 w (flag1 w fun s => .fxCmp s (xA w) (xB w)))
  | 0x06 => fxD0 w (fxA0 w (fxB0 w (noMod w (.fxBr (xI w)))))
  | 0x07 => fxD0 w (fxA0 w (fxB0 w (condOf w fun cc => .fxBcc cc (xI w))))
  | 0x08 => fxD0 w (fxB0 w (noMod w (.fxLoop (xA w) (xI w))))
  | 0x09 => fxD0 w (fxA0 w (fxB0 w (fxI0 w (noMod w .fxEnd))))
  | 0x0A => fxD0 w (fxB0 w (noMod w (.fxDeadline (xA w) (xI w))))
  | 0x0B => fxD0 w (fxA0 w (fxB0 w (fxI0 w (flag1 w fun off => .fxQuorum off))))
  | 0x0C => fxD0 w (fxA0 w (fxB0 w (fxI0 w (flag1 w fun off => .fxHist off))))
  | 0x0D => fxD0 w (fxB0 w (noMod w (.fxScale (xA w) (xI w))))
  | 0x0E => fxD0 w (fxB0 w (itinOf w fun j clr => .fxItin j clr (xA w) (xI w)))
  | 0x0F => fxD0 w (fxB0 w (noMod w (.fxStep (xA w) (xI w))))
  | 0x10 => fxD0 w (fxI0 w (noMod w (.fxSend (xA w) (xB w))))
  | 0x11 => fxI0 w (flag2 w fun dlv sig => .fxRecv dlv sig (xD w) (xA w) (xB w))
  | 0x12 => fxA0 w (fxB0 w (fxI0 w (waitOf w fun k => .fxWait (xD w) k)))
  | 0x13 => fxA0 w (fxI0 w (noMod w (.fxMatch (xD w) (xB w))))
  | 0x14 => fxI0 w (flag1 w fun nh => .fxRed nh (xD w) (xA w) (xB w))
  | 0x15 => fxB0 w (flag1 w fun clr => .fxResid clr (xD w) (xA w) (xI w))
  | 0x16 => fxI0 w (noMod w (.fxPack1 (xD w) (xA w) (xB w)))
  | 0x17 => fxI0 w (noMod w (.fxPack3 (xD w) (xA w) (xB w)))
  | 0x18 => fxI0 w (noMod w (.fxPackq (xD w) (xA w) (xB w)))
  | 0x19 => fxI0 w (payOf w fun code => .fxUnpack code (xD w) (xA w) (xB w))
  | 0x1A => fxD0 w (fxI0 w (noMod w (.fxGather (xA w) (xB w))))
  | 0x1B => fxD0 w (fxI0 w (noMod w (.fxSig (xA w) (xB w))))
  | _ => .error .unallocatedOpcode

/-- The convergence points of R341. -/
def isConvergence : Instr → Bool
  | .voteAny .. | .voteAll .. | .voteBallot .. | .shfl .. | .redux .. | .mma .. | .mmo .. | .gbar | .tbar | .fork ..
  | .wend .. | .choose .. => true
  | _ => false

/-- The header bits of a word (R314). -/
def headerOf (w : W32) : Header := ⟨w.getLsbD 31, w.getLsbD 30, w.getLsbD 29, w.extractLsb' 26 3⟩

/-- The header and instruction of a Gorbex word, or why it is none (R340, R46). -/
def decodeWord (w : W32) : Except DecodeError (Header × Instr) :=
  let h := headerOf w
  if h.gsel == 7 && h.gneg then .error .guardNever else
  match decodeOp (w.extractLsb' 19 7) (w.extractLsb' 0 19) with
  | .error e => .error e
  | .ok i =>
    match i.illFormed with
    | some why => .error (.illFormed why)
    | none => if isConvergence i && !h.always then .error .guardedConvergence else .ok (h, i)

/-- The instruction of an Akpor word, or why it is none (R332). -/
def decodeFx (w : W64) : Except DecodeError Instr :=
  match decodeFxOp (w.extractLsb' 58 6) w with
  | .error e => .error e
  | .ok i =>
    match i.illFormed with
    | some why => .error (.illFormed why)
    | none => .ok i

/-- Little-endian value of bytes (R2). -/
def leValue : List Byte → Nat
  | [] => 0
  | b :: bs => b.toNat + 256 * leValue bs

/-- Decodes the first four bytes of a byte list as a Gorbex word and returns the rest. -/
def decodeBytes : List Byte → Except DecodeError ((Header × Instr) × List Byte)
  | b0 :: b1 :: b2 :: b3 :: rest =>
    match decodeWord (BitVec.ofNat 32 (leValue [b0, b1, b2, b3])) with
    | .ok r => .ok (r, rest)
    | .error e => .error e
  | _ => .error .tooShort

/-- Decodes the first eight bytes of a byte list as an Akpor word and returns the rest. -/
def decodeFxBytes : List Byte → Except DecodeError (Instr × List Byte)
  | b0 :: b1 :: b2 :: b3 :: b4 :: b5 :: b6 :: b7 :: rest =>
    match decodeFx (BitVec.ofNat 64 (leValue [b0, b1, b2, b3, b4, b5, b6, b7])) with
    | .ok r => .ok (r, rest)
    | .error e => .error e
  | _ => .error .tooShort

/-- The n bytes of a value, lowest first (R2). -/
def leBytes : Nat → Nat → List Byte
  | 0, _ => []
  | n + 1, v => BitVec.ofNat 8 v :: leBytes n (v / 256)

/-- F3 operand bits (R316). -/
def f3 (d a b : Reg) (m : Bool) : BitVec 19 := d ++ (a ++ (b ++ BitVec.ofBool m))
/-- FI, FM or FE operand bits (R316). -/
def fi (d a : Reg) (imm : BitVec 7) : BitVec 19 := d ++ (a ++ imm)
/-- FW operand bits (R316). -/
def fw (d : Reg) (imm : BitVec 13) : BitVec 19 := d ++ imm
/-- Opcode over operand bits (R314). -/
def packOp (op : BitVec 7) (x : BitVec 19) : BitVec 26 := op ++ x
/-- An Akpor word of its fields (R331). -/
def packFx (op : BitVec 6) (d a b : FReg) (mod : BitVec 11) (imm : W32) : W64 :=
  op ++ (d ++ (a ++ (b ++ (mod ++ imm))))

/-- Opcode and operand bits of a Gorbex instruction (R334 to R339); none for the rest. -/
def encodeBody : Instr → Option (BitVec 26)
  | .nop => some (packOp 0x00 0)
  | .add d a b m => some (packOp 0x01 (f3 d a b m))
  | .addImm d a imm => some (packOp 0x11 (fi d a imm))
  | .sub d a b m => some (packOp 0x02 (f3 d a b m))
  | .mul d a b => some (packOp 0x03 (f3 d a b false))
  | .mulImm d a imm => some (packOp 0x12 (fi d a imm))
  | .mulh d a b m => some (packOp 0x04 (f3 d a b m))
  | .mad d a b => some (packOp 0x05 (f3 d a b false))
  | .and d a b m => some (packOp 0x06 (f3 d a b m))
  | .andImm d a imm => some (packOp 0x13 (fi d a imm))
  | .or d a b m => some (packOp 0x07 (f3 d a b m))
  | .orImm d a imm => some (packOp 0x14 (fi d a imm))
  | .xor d a b m => some (packOp 0x08 (f3 d a b m))
  | .xorImm d a imm => some (packOp 0x15 (fi d a imm))
  | .shl d a b m => some (packOp 0x09 (f3 d a b m))
  | .shlImm d a imm => some (packOp 0x16 (fi d a imm))
  | .shr d a b m => some (packOp 0x0A (f3 d a b m))
  | .shrImm d a imm => some (packOp 0x17 (fi d a imm))
  | .sar d a b m => some (packOp 0x0B (f3 d a b m))
  | .sarImm d a imm => some (packOp 0x18 (fi d a imm))
  | .min d a b m => some (packOp 0x0C (f3 d a b m))
  | .max d a b m => some (packOp 0x0D (f3 d a b m))
  | .sel d a b => some (packOp 0x0E (f3 d a b false))
  | .bfx d a b m => some (packOp 0x0F (f3 d a b m))
  | .bfi d a b => some (packOp 0x10 (f3 d a b false))
  | .cmpEq d a b m => some (packOp 0x19 (f3 d a b m))
  | .cmpNe d a b m => some (packOp 0x1A (f3 d a b m))
  | .cmpLt d a b m => some (packOp 0x1B (f3 d a b m))
  | .cmpLe d a b m => some (packOp 0x1C (f3 d a b m))
  | .cmpLtu d a b m => some (packOp 0x1D (f3 d a b m))
  | .cmpLeu d a b m => some (packOp 0x1E (f3 d a b m))
  | .pand d a b m => some (packOp 0x1F (f3 d a b m))
  | .por d a b m => some (packOp 0x20 (f3 d a b m))
  | .pxor d a b m => some (packOp 0x21 (f3 d a b m))
  | .pnot d a m => some (packOp 0x36 (f3 d a 0 m))
  | .pmov d a m => some (packOp 0x37 (f3 d a 0 m))
  | .ldsB d a imm => some (packOp 0x22 (fi d a imm))
  | .ldsH d a imm => some (packOp 0x23 (fi d a imm))
  | .lds d a imm => some (packOp 0x24 (fi d a imm))
  | .ldsD d a imm => some (packOp 0x25 (fi d a imm))
  | .stsB d a imm => some (packOp 0x26 (fi d a imm))
  | .stsH d a imm => some (packOp 0x27 (fi d a imm))
  | .sts d a imm => some (packOp 0x28 (fi d a imm))
  | .stsD d a imm => some (packOp 0x29 (fi d a imm))
  | .ldB d a imm => some (packOp 0x2A (fi d a imm))
  | .ldH d a imm => some (packOp 0x2B (fi d a imm))
  | .ld d a imm => some (packOp 0x2C (fi d a imm))
  | .ldD d a imm => some (packOp 0x2D (fi d a imm))
  | .stB d a imm => some (packOp 0x2E (fi d a imm))
  | .stH d a imm => some (packOp 0x2F (fi d a imm))
  | .st d a imm => some (packOp 0x30 (fi d a imm))
  | .stD d a imm => some (packOp 0x31 (fi d a imm))
  | .ldp d a imm => some (packOp 0x32 (fi d a imm))
  | .ldpD d a imm => some (packOp 0x33 (fi d a imm))
  | .stp d a imm => some (packOp 0x34 (fi d a imm))
  | .stpD d a imm => some (packOp 0x35 (fi d a imm))
  | .movi d imm => some (packOp 0x38 (fw d imm))
  | .movh d imm => some (packOp 0x39 (fw d imm))
  | .srd d imm => some (packOp 0x3A (fw d imm))
  | .swr d imm => some (packOp 0x3B (fw d imm))
  | .lit d imm => some (packOp 0x3C (fw d imm))
  | .pref a imm => some (packOp 0x3D (fi 0 a imm))
  | .voteAny d a => some (packOp 0x3E (fi d a 0x00))
  | .voteAll d a => some (packOp 0x3E (fi d a 0x01))
  | .voteBallot d a => some (packOp 0x3E (fi d a 0x02))
  | .shfl d a b m => some (packOp 0x3F (f3 d a b m))
  | .copy d a b m => some (packOp 0x40 (f3 d a b m))
  | .gath d a b m => some (packOp 0x41 (f3 d a b m))
  | .unfold d a b m => some (packOp 0x42 (f3 d a b m))
  | .quant d a b m => some (packOp 0x43 (f3 d a b m))
  | .mma d a b m => some (packOp 0x44 (f3 d a b m))
  | .mmo d a b m => some (packOp 0x45 (f3 d a b m))
  | .tile d a b => some (packOp 0x46 (f3 d a b false))
  | .obres d a b m => some (packOp 0x47 (f3 d a b m))
  | .fread d a b => some (packOp 0x48 (f3 d a b false))
  | .fwrite d a b m => some (packOp 0x49 (f3 d a b m))
  | .arm d a b m => some (packOp 0x4A (f3 d a b m))
  | .cinc a b => some (packOp 0x4B (f3 0 a b false))
  | .cstart d a b => some (packOp 0x4C (f3 d a b false))
  | .renq d a m => some (packOp 0x4D (f3 d a 0 m))
  | .wenq d a m => some (packOp 0x4E (f3 d a 0 m))
  | .mov d a => some (packOp 0x50 (fi d a 0x00))
  | .clz d a => some (packOp 0x50 (fi d a 0x01))
  | .popc d a => some (packOp 0x50 (fi d a 0x02))
  | .leaS d a => some (packOp 0x50 (fi d a 0x03))
  | .leaP d a => some (packOp 0x50 (fi d a 0x04))
  | .frcp d a => some (packOp 0x51 (fi d a 0x00))
  | .frsq d a => some (packOp 0x51 (fi d a 0x01))
  | .fsqrt d a => some (packOp 0x51 (fi d a 0x02))
  | .fexp2 d a => some (packOp 0x51 (fi d a 0x03))
  | .flog2 d a => some (packOp 0x51 (fi d a 0x04))
  | .atom op w64 scope d a => some (packOp 0x52 (fi d a (atomSub op w64 scope)))
  | .red op w64 scope d a => some (packOp 0x53 (fi d a (atomSub op w64 scope)))
  | .fence => some (packOp 0x54 (fi 0 0 0x00))
  | .fenceE => some (packOp 0x54 (fi 0 0 0x01))
  | .fenceW => some (packOp 0x54 (fi 0 0 0x02))
  | .clean a => some (packOp 0x54 (fi 0 a 0x03))
  | .obrel a => some (packOp 0x54 (fi 0 a 0x04))
  | .spawn a => some (packOp 0x54 (fi 0 a 0x05))
  | .disarm d a => some (packOp 0x54 (fi d a 0x06))
  | .exit => some (packOp 0x55 (fi 0 0 0x00))
  | .yield => some (packOp 0x55 (fi 0 0 0x01))
  | .ret => some (packOp 0x55 (fi 0 0 0x02))
  | .rfe => some (packOp 0x55 (fi 0 0 0x03))
  | .brx a => some (packOp 0x55 (fi 0 a 0x04))
  | .callReg a => some (packOp 0x55 (fi 0 a 0x05))
  | .gbar => some (packOp 0x55 (fi 0 0 0x06))
  | .tbar => some (packOp 0x55 (fi 0 0 0x07))
  | .wend a => some (packOp 0x55 (fi 0 a 0x08))
  | .wvr d a => some (packOp 0x55 (fi d a 0x09))
  | .choose a => some (packOp 0x55 (fi 0 a 0x0A))
  | .barInit d a => some (packOp 0x55 (fi d a 0x0B))
  | .barExpect d a => some (packOp 0x55 (fi d a 0x0C))
  | .barArrive d a => some (packOp 0x55 (fi d a 0x0D))
  | .barWait d a b m => some (packOp 0x56 (f3 d a b m))
  | .barTry d a b m => some (packOp 0x57 (f3 d a b m))
  | .br off => some (packOp 0x58 off)
  | .call off => some (packOp 0x59 off)
  | .fork d imm => some (packOp 0x5A (fw d imm))
  | .rgive imm => some (packOp 0x5B (fw 0 imm))
  | .rclaim imm => some (packOp 0x5C (fw 0 imm))
  | .brk imm => some (packOp 0x5D (fw 0 imm))
  | .trap imm => some (packOp 0x5E (fw 0 imm))
  | .redux op d a => some (packOp 0x5F (fi d a (reduxSub op)))
  | .fadd rnd d a b => some (packOp (0x60 + rndCode rnd) (f3 d a b false))
  | .fmul rnd d a b => some (packOp (0x64 + rndCode rnd) (f3 d a b false))
  | .fma rnd d a b => some (packOp (0x68 + rndCode rnd) (f3 d a b false))
  | .fmin d a b => some (packOp 0x6C (f3 d a b false))
  | .fmax d a b => some (packOp 0x6D (f3 d a b false))
  | .fcmpEq d a b m => some (packOp 0x6E (f3 d a b m))
  | .fcmpLt d a b m => some (packOp 0x6F (f3 d a b m))
  | .fcmpLe d a b m => some (packOp 0x70 (f3 d a b m))
  | .fcmpUn d a b m => some (packOp 0x71 (f3 d a b m))
  | .hadd2 d a b m => some (packOp 0x72 (f3 d a b m))
  | .hmul2 d a b m => some (packOp 0x73 (f3 d a b m))
  | .hfma2 d a b m => some (packOp 0x74 (f3 d a b m))
  | .hmin2 d a b m => some (packOp 0x75 (f3 d a b m))
  | .hmax2 d a b m => some (packOp 0x76 (f3 d a b m))
  | .cvtFromF32 dst sat rnd d a => some (packOp 0x77 (fi d a (cvtSub dst sat rnd)))
  | .cvtFromF16 dst sat rnd d a => some (packOp 0x78 (fi d a (cvtSub dst sat rnd)))
  | .cvtFromBf16 dst sat rnd d a => some (packOp 0x79 (fi d a (cvtSub dst sat rnd)))
  | .cvtFromE4m3 dst sat rnd d a => some (packOp 0x7A (fi d a (cvtSub dst sat rnd)))
  | .cvtFromE5m2 dst sat rnd d a => some (packOp 0x7B (fi d a (cvtSub dst sat rnd)))
  | .cvtFromE2m1 dst sat rnd d a => some (packOp 0x7C (fi d a (cvtSub dst sat rnd)))
  | .cvtFromInt32 dst sat rnd d a => some (packOp 0x7D (fi d a (cvtSub dst sat rnd)))
  | .cvtFromUint32 dst sat rnd d a => some (packOp 0x7E (fi d a (cvtSub dst sat rnd)))
  | .cvtFromE8m0 dst sat rnd d a => some (packOp 0x7F (fi d a (cvtSub dst sat rnd)))
  | _ => none

/-- The Akpor word of an instruction (R331, R342); none for the rest. -/
def encodeFx : Instr → Option W64
  | .fxLi h d a imm => some (packFx 0x01 d a 0 (modFlag h) imm)
  | .fxLd width d a imm => some (packFx 0x02 d a 0 (widthCode width) imm)
  | .fxSt width d a imm => some (packFx 0x03 d a 0 (widthCode width) imm)
  | .fxAdd form d a b => some (packFx 0x04 d a b (addFormCode form) 0)
  | .fxCmp sgn a b => some (packFx 0x05 0 a b (modFlag sgn) 0)
  | .fxBr target => some (packFx 0x06 0 0 0 0 target)
  | .fxBcc cc target => some (packFx 0x07 0 0 0 (condCode cc) target)
  | .fxLoop a target => some (packFx 0x08 0 a 0 0 target)
  | .fxEnd => some (packFx 0x09 0 0 0 0 0)
  | .fxDeadline a imm => some (packFx 0x0A 0 a 0 0 imm)
  | .fxQuorum off => some (packFx 0x0B 0 0 0 (modFlag off) 0)
  | .fxHist off => some (packFx 0x0C 0 0 0 (modFlag off) 0)
  | .fxScale a imm => some (packFx 0x0D 0 a 0 0 imm)
  | .fxItin j clr a imm => some (packFx 0x0E 0 a 0 (itinMod j clr) imm)
  | .fxStep a imm => some (packFx 0x0F 0 a 0 0 imm)
  | .fxSend a b => some (packFx 0x10 0 a b 0 0)
  | .fxRecv dlv sig d a b => some (packFx 0x11 d a b (modFlags dlv sig) 0)
  | .fxWait d k => some (packFx 0x12 d 0 0 (waitMod k) 0)
  | .fxMatch d b => some (packFx 0x13 d 0 b 0 0)
  | .fxRed nh d a b => some (packFx 0x14 d a b (modFlag nh) 0)
  | .fxResid clr d a imm => some (packFx 0x15 d a 0 (modFlag clr) imm)
  | .fxPack1 d a b => some (packFx 0x16 d a b 0 0)
  | .fxPack3 d a b => some (packFx 0x17 d a b 0 0)
  | .fxPackq d a b => some (packFx 0x18 d a b 0 0)
  | .fxUnpack code d a b => some (packFx 0x19 d a b (payMod code) 0)
  | .fxGather a b => some (packFx 0x1A 0 a b 0 0)
  | .fxSig a b => some (packFx 0x1B 0 a b 0 0)
  | _ => none

/-- The header bits over a body (R314). -/
def packHeader (h : Header) (body : BitVec 26) : W32 :=
  BitVec.ofBool h.chain ++ (BitVec.ofBool h.switch ++ (BitVec.ofBool h.gneg ++ (h.gsel ++ body)))

/-- The Gorbex word of a header and an instruction. -/
def encodeWord (h : Header) (i : Instr) : Option W32 := (encodeBody i).map (packHeader h)

/-- A header that an instruction may carry: not the guard "never", and "always" on a convergence point (R315, R46). -/
def headerOk (h : Header) (i : Instr) : Bool :=
  !(h.gsel == 7 && h.gneg) && (!isConvergence i || h.always)

/-- The words of an instruction as stored bytes: a Gorbex word under its plain header, or an Akpor word. -/
def encode (i : Instr) : List Byte :=
  match encodeWord Header.plain i, encodeFx i with
  | some w, _ => leBytes 4 w.toNat
  | none, some w => leBytes 8 w.toNat
  | none, none => []

/-- The instruction that the decoder reads from a table row's bits: a Gorbex word of 32 bits, or an Akpor word of 64. -/
def decodeTableWord (nbits w : Nat) : Option Instr :=
  if nbits ≤ 32 then
    match decodeBytes (leBytes 4 w) with
    | .ok ((_, i), _) => some i
    | .error _ => none
  else
    match decodeFxBytes (leBytes 8 w) with
    | .ok (i, _) => some i
    | .error _ => none

end Sys2Proof
end

