-- ==== Sys2Proof/Machine/Bits.lean ====
section
/-! DEFINITION. Bytes and bit fields: little-endian values (R2), fields of words, aligned spans. -/

namespace Sys2Proof.Machine

/-- The value of a little-endian byte list (R2). -/
def leNat : List Byte → Nat
  | [] => 0
  | b :: bs => b.toNat + 256 * leNat bs

/-- The n low bytes of a number, lowest first (R2). -/
def natLe : Nat → Nat → List Byte
  | 0, _ => []
  | n + 1, x => BitVec.ofNat 8 x :: natLe n (x / 256)

/-- A field of w bits at position p of a number. -/
def bitsAt (x p w : Nat) : Nat := (x >>> p) % 2 ^ w

/-- A bit of a number. -/
def bitAt (x p : Nat) : Bool := x.testBit p

/-- A number with its field of w bits at p replaced. -/
def putBits (x p w v : Nat) : Nat := x - (bitsAt x p w <<< p) + ((v % 2 ^ w) <<< p)

/-- A 0 or 1. -/
def b2n (b : Bool) : Nat := if b then 1 else 0

/-- A 32-bit 0 or 1. -/
def b2w (b : Bool) : W32 := if b then 1 else 0

/-- A number rounded up to a multiple. -/
def roundUp (x a : Nat) : Nat := (x + a - 1) / a * a

/-- A quotient rounded up. -/
def ceilDiv (x a : Nat) : Nat := (x + a - 1) / a

/-- The numbers lo, lo + 1, … of a given count. -/
def span (lo : Nat) : Nat → List Nat
  | 0 => []
  | n + 1 => lo :: span (lo + 1) n

/-- The bytes of a table from an offset; an absent byte is zero. -/
def tabBytes (t : Tab Byte) (off n : Nat) : List Byte := (span off n).map fun k => t.get k 0

/-- Writes bytes into a table from an offset. -/
def tabPut (t : Tab Byte) : Nat → List Byte → Tab Byte
  | _, [] => t
  | off, b :: bs => tabPut (t.set off b) (off + 1) bs

/-- Signed value of 32 bits as an integer. -/
def sint (x : W32) : Int := x.toInt

/-- A pair from its low and high register (R92). -/
def pairOf (lo hi : W32) : W64 := hi ++ lo

/-- The low half of a pair. -/
def loHalf (x : W64) : W32 := x.extractLsb' 0 32

/-- The high half of a pair. -/
def hiHalf (x : W64) : W32 := x.extractLsb' 32 32

/-- An immediate sign-extended to 32 bits. -/
def sext32 {n : Nat} (x : BitVec n) : W32 := x.signExtend 32

/-- An immediate sign-extended to 64 bits. -/
def sext64 {n : Nat} (x : BitVec n) : W64 := x.signExtend 64

/-- Keeps the first of equal entries. -/
def dedupNat : List Nat → List Nat
  | [] => []
  | x :: xs => x :: (dedupNat xs).filter (fun y => y != x)

/-- Puts a number into a rising list, once. -/
def insertNat (x : Nat) : List Nat → List Nat
  | [] => [x]
  | y :: ys => if x < y then x :: y :: ys else if x = y then y :: ys else y :: insertNat x ys

end Sys2Proof.Machine
end

