-- ==== Sys2Proof/Machine/Float.lean ====
section
/-! DEFINITION. Floating-point formats and arithmetic of chapter 07: every result is the exact value rounded once. -/

namespace Sys2Proof.Machine

/-- A floating-point format (R170, R175): fraction bits, bias, the code of the largest finite magnitude, the codes of
infinity and of the canonical NaN where it has them, and the position of the sign. -/
structure Fmt where
  mbits : Nat
  bias : Nat
  maxCode : Nat
  inf : Option Nat
  nan : Option Nat
  sign : Nat
deriving DecidableEq, Repr

/-- FP32 (R170). -/
def fp32 : Fmt := ⟨23, 127, 0x7F7FFFFF, some 0x7F800000, some 0x7FC00000, 31⟩
/-- FP16 (R170). -/
def fp16 : Fmt := ⟨10, 15, 0x7BFF, some 0x7C00, some 0x7E00, 15⟩
/-- BF16 (R170). -/
def bf16 : Fmt := ⟨7, 127, 0x7F7F, some 0x7F80, some 0x7FC0, 15⟩
/-- E4M3 (R175). -/
def e4m3 : Fmt := ⟨3, 7, 0x7E, none, some 0x7F, 7⟩
/-- E5M2 (R175). -/
def e5m2 : Fmt := ⟨2, 15, 0x7B, some 0x7C, some 0x7F, 7⟩
/-- E2M1 (R175). -/
def e2m1 : Fmt := ⟨1, 1, 7, none, none, 3⟩

/-- A floating-point number: NaN, an infinity, or the exact value m * 2^e with a sign. -/
inductive Num where
  | nan
  | inf (neg : Bool)
  | fin (neg : Bool) (m : Nat) (e : Int)
deriving DecidableEq, Repr

namespace Fmt

/-- The exponent of the smallest subnormal. -/
def qmin (f : Fmt) : Int := 1 - (f.bias : Int) - (f.mbits : Int)

/-- The number that a code stands for. -/
def decode (f : Fmt) (x : Nat) : Num :=
  let mag := x % 2 ^ f.sign
  let neg := x.testBit f.sign
  if mag ≤ f.maxCode then
    let e := mag / 2 ^ f.mbits
    let frac := mag % 2 ^ f.mbits
    if e = 0 then .fin neg frac f.qmin else .fin neg (frac + 2 ^ f.mbits) (f.qmin + (e - 1))
  else if f.inf = some mag then .inf neg else .nan

/-- The code of a sign and a magnitude code. -/
def signed (f : Fmt) (neg : Bool) (mag : Nat) : Nat := if neg then mag + 2 ^ f.sign else mag

/-- The canonical NaN; zero in a format without one (R177). -/
def nanCode (f : Fmt) : Nat := f.nan.getD 0

end Fmt

/-- The exponent of the leading bit of num / den, both positive. -/
def ratLog2 (num den : Nat) : Int :=
  let l : Int := (num.log2 : Int) - (den.log2 : Int)
  let lower := if 0 ≤ l then num < den <<< l.toNat else num <<< (-l).toNat < den
  if lower then l - 1 else l

/-- Rounds num / den to an integer in a direction (R171). -/
def roundInt (rnd : Rnd) (neg : Bool) (num den : Nat) : Nat :=
  let q := num / den
  let r := num % den
  let up := match rnd with
    | .rne => den < 2 * r || (2 * r == den && q % 2 == 1)
    | .rz => false
    | .rm => neg && r != 0
    | .rp => !neg && r != 0
  if up then q + 1 else q

/-- num / den * 2^e as a quotient of naturals over the unit 2^q. -/
def scaled (num den : Nat) (e q : Int) : Nat × Nat :=
  if q ≤ e then (num <<< (e - q).toNat, den) else (num, den <<< (q - e).toNat)

/-- The magnitude code of num / den * 2^e rounded to a format with an unbounded exponent range (R171). -/
def roundMag (f : Fmt) (rnd : Rnd) (neg : Bool) (num den : Nat) (e : Int) : Nat :=
  if num = 0 then 0 else
  let q := max (ratLog2 num den + e - f.mbits) f.qmin
  let s := scaled num den e q
  (q - f.qmin).toNat * 2 ^ f.mbits + roundInt rnd neg s.1 s.2

/-- Whether a direction rounds a value of that sign toward zero (R177). -/
def towardZero (rnd : Rnd) (neg : Bool) : Bool :=
  match rnd with
  | .rne => false | .rz => true | .rm => !neg | .rp => neg

/-- The magnitude code of an overflow (R171, R177). -/
def overflowMag (f : Fmt) (sat : Bool) (rnd : Rnd) (neg : Bool) : Nat :=
  if sat || towardZero rnd neg then f.maxCode else (f.inf.orElse fun _ => f.nan).getD f.maxCode

/-- The code that a format's overflow of a sign takes; a NaN carries no sign (R172, R177). -/
def overflowCode (f : Fmt) (sat : Bool) (rnd : Rnd) (neg : Bool) : Nat :=
  let m := overflowMag f sat rnd neg
  if f.nan = some m then m else f.signed neg m

/-- The rounded code of num / den * 2^e (R171, R177). -/
def roundRat (f : Fmt) (sat : Bool) (rnd : Rnd) (neg : Bool) (num den : Nat) (e : Int) : Nat :=
  let m := roundMag f rnd neg num den e
  if m ≤ f.maxCode then f.signed neg m else overflowCode f sat rnd neg

/-- The code of an infinite value (R177): the rounding direction does not matter. -/
def infCode (f : Fmt) (sat : Bool) (neg : Bool) : Nat := overflowCode f sat .rne neg

/-- The code of a number rounded to a format (R171, R177). -/
def roundNum (f : Fmt) (sat : Bool) (rnd : Rnd) : Num → Nat
  | .nan => f.nanCode
  | .inf neg => infCode f sat neg
  | .fin neg m e => roundRat f sat rnd neg m 1 e

/-- A dyadic value as a signed integer over 2^q, for q at most e. -/
def overUnit (neg : Bool) (m : Nat) (e q : Int) : Int :=
  let x : Int := (m <<< (e - q).toNat : Nat)
  if neg then -x else x

/-- The exact sum of two finite values; an exact zero of unlike signs is -0 only under `.rm` (R172). -/
def addFin (rnd : Rnd) (n1 : Bool) (m1 : Nat) (e1 : Int) (n2 : Bool) (m2 : Nat) (e2 : Int) : Num :=
  let q := min e1 e2
  let s := overUnit n1 m1 e1 q + overUnit n2 m2 e2 q
  if s = 0 then .fin (if m1 = 0 && m2 = 0 && n1 = n2 then n1 else rnd == .rm) 0 q
  else .fin (s < 0) s.natAbs q

/-- The exact sum (R172). -/
def Num.add (rnd : Rnd) : Num → Num → Num
  | .nan, _ | _, .nan => .nan
  | .inf a, .inf b => if a = b then .inf a else .nan
  | .inf a, _ | _, .inf a => .inf a
  | .fin n1 m1 e1, .fin n2 m2 e2 => addFin rnd n1 m1 e1 n2 m2 e2

/-- The exact product (R172). -/
def Num.mul : Num → Num → Num
  | .nan, _ | _, .nan => .nan
  | .inf a, .inf b => .inf (a != b)
  | .inf a, .fin b m _ | .fin b m _, .inf a => if m = 0 then .nan else .inf (a != b)
  | .fin n1 m1 e1, .fin n2 m2 e2 => .fin (n1 != n2) (m1 * m2) (e1 + e2)

/-- The value times a power of two. -/
def Num.scale (k : Int) : Num → Num
  | .fin n m e => .fin n m (e + k)
  | x => x

/-- The value with its sign changed. -/
def Num.neg : Num → Num
  | .nan => .nan
  | .inf n => .inf !n
  | .fin n m e => .fin (!n) m e

/-- Whether the value is an exact zero. -/
def Num.isZero : Num → Bool
  | .fin _ m _ => m == 0
  | _ => false

/-- Whether the value is NaN. -/
def Num.isNan : Num → Bool
  | .nan => true
  | _ => false

/-- Whether the value is an infinity. -/
def Num.isInf : Num → Bool
  | .inf _ => true
  | _ => false

/-- Strictly less; false on NaN, zeros are equal (R373). -/
def Num.lt : Num → Num → Bool
  | .nan, _ | _, .nan => false
  | .inf a, .inf b => a && !b
  | .inf a, _ => a
  | _, .inf b => !b
  | .fin n1 m1 e1, .fin n2 m2 e2 =>
    let q := min e1 e2
    overUnit n1 m1 e1 q < overUnit n2 m2 e2 q

/-- Equal; false on NaN (R373). -/
def Num.eqv (a b : Num) : Bool := !a.isNan && !b.isNan && !a.lt b && !b.lt a

/-- The sum of two codes, rounded once (R171). -/
def fAdd (f : Fmt) (rnd : Rnd) (a b : Nat) : Nat := roundNum f false rnd ((f.decode a).add rnd (f.decode b))

/-- The product of two codes, rounded once (R171). -/
def fMul (f : Fmt) (rnd : Rnd) (a b : Nat) : Nat := roundNum f false rnd ((f.decode a).mul (f.decode b))

/-- The fused product and sum, rounded once (R171, R372). -/
def fFma (f : Fmt) (rnd : Rnd) (a b c : Nat) : Nat :=
  roundNum f false rnd (((f.decode a).mul (f.decode b)).add rnd (f.decode c))

/-- The lesser or the greater; -0 is below +0, a NaN operand gives the canonical NaN (R376). -/
def fMinMax (f : Fmt) (wantMax : Bool) (a b : Nat) : Nat :=
  let x := f.decode a
  let y := f.decode b
  if x.isNan || y.isNan then f.nanCode
  else
    let aLess := x.lt y || (x.eqv y && a.testBit f.sign)
    if aLess = wantMax then b else a

/-- Bit by bit, the greatest r below 2^(i) more than the start whose square is at most n. -/
def isqrtFrom (n : Nat) : Nat → Nat → Nat
  | 0, r => r
  | i + 1, r => isqrtFrom n i (if (r + 2 ^ i) * (r + 2 ^ i) ≤ n then r + 2 ^ i else r)

/-- The integer square root. -/
def isqrt (n : Nat) : Nat := isqrtFrom n (n.log2 / 2 + 1) 0

/-- 1 / x (R173, R375). -/
def fRcp (x : Nat) : Nat :=
  match fp32.decode x with
  | .nan => fp32.nanCode
  | .inf neg => fp32.signed neg 0
  | .fin neg m e => if m = 0 then infCode fp32 false neg else roundRat fp32 false .rne neg 1 m (-e)

/-- The square root (R173). The root's integer part carries a sticky half for an inexact remainder. -/
def fSqrt (x : Nat) : Nat :=
  match fp32.decode x with
  | .nan => fp32.nanCode
  | .inf neg => if neg then fp32.nanCode else infCode fp32 false false
  | .fin neg m e =>
    if m = 0 then fp32.signed neg 0
    else if neg then fp32.nanCode
    else
      let s : Nat := if e % 2 = 0 then 64 else 65
      let a := m <<< s
      let r := isqrt a
      roundRat fp32 false .rne false (2 * r + b2n (r * r != a)) 1 ((e - s) / 2 - 1)

/-- The reciprocal square root (R173). -/
def fRsq (x : Nat) : Nat :=
  match fp32.decode x with
  | .nan => fp32.nanCode
  | .inf neg => if neg then fp32.nanCode else 0
  | .fin neg m e =>
    if m = 0 then infCode fp32 false neg
    else if neg then fp32.nanCode
    else
      let k : Nat := if e % 2 = 0 then 160 else 161
      let r := isqrt (2 ^ k / m)
      roundRat fp32 false .rne false (2 * r + b2n (r * r * m != 2 ^ k)) 1 ((-e - k) / 2 - 1)

/-- Fraction bits of the fixed-point steps of `fexp2` and `flog2`. -/
def fixBits : Nat := 256

/-- The product of the roots 2^(2^-i) over the set bits of a fraction of k bits, from the highest, over 2^fixBits. -/
def rootProduct (frac : Nat) : Nat → Nat → Nat → Nat
  | 0, _, acc => acc
  | k + 1, root, acc =>
    let root' := isqrt (root <<< fixBits)
    rootProduct frac k root' (if frac.testBit k then acc * root' / 2 ^ fixBits else acc)

/-- 2^x (R173, R375), from 160 bits of the fraction of x. -/
def fExp2 (x : Nat) : Nat :=
  match fp32.decode x with
  | .nan => fp32.nanCode
  | .inf neg => if neg then 0 else infCode fp32 false false
  | .fin neg m e =>
    if 8 ≤ ratLog2 (max m 1) 1 + e then (if neg then 0 else infCode fp32 false false)
    else
      let s := overUnit neg m e (min e (-160))
      let unit : Nat := 2 ^ (-(min e (-160))).toNat
      let n := s.fdiv unit
      let frac := (s.fmod unit).toNat
      let y := rootProduct frac (-(min e (-160))).toNat (2 * 2 ^ fixBits) (2 ^ fixBits)
      roundRat fp32 false .rne false (2 * y + b2n (frac != 0)) 1 (n - fixBits - 1)

/-- Bits of log2 of a fixed-point value in [1, 2), by squaring. -/
def logBits : Nat → Nat → Nat → Nat
  | 0, _, acc => acc
  | k + 1, y, acc =>
    let y2 := y * y / 2 ^ fixBits
    if 2 * 2 ^ fixBits ≤ y2 then logBits k (y2 / 2) (2 * acc + 1) else logBits k y2 (2 * acc)

/-- log2 x (R173, R375), to 128 fraction bits with a sticky half. -/
def fLog2 (x : Nat) : Nat :=
  match fp32.decode x with
  | .nan => fp32.nanCode
  | .inf neg => if neg then fp32.nanCode else infCode fp32 false false
  | .fin neg m e =>
    if m = 0 then infCode fp32 false true
    else if neg then fp32.nanCode
    else
      let l := m.log2
      let big : Int := l + e
      if m = 2 ^ l then roundRat fp32 false .rne (big < 0) big.natAbs 1 0
      else
        let y := (m <<< fixBits) / 2 ^ l
        let v : Int := 2 * (big * 2 ^ 128 + logBits 128 y 0) + 1
        roundRat fp32 false .rne (v < 0) v.natAbs 1 (-129)

/-- A value rounded to an integer and clamped to a range; NaN gives zero (R179). -/
def toIntClamped (rnd : Rnd) (lo hi : Int) : Num → Int
  | .nan => 0
  | .inf neg => if neg then lo else hi
  | .fin neg m e =>
    let s := scaled m 1 e 0
    let v : Int := roundInt rnd neg s.1 s.2
    max lo (min hi (if neg then -v else v))

/-- The format of a `cvt` operand of a floating-point kind (R178). -/
def elemFmt? : ElemFmt → Option Fmt
  | .fp32 => some fp32 | .fp16 => some fp16 | .bf16 => some bf16 | .e4m3 => some e4m3 | .e5m2 => some e5m2
  | .e2m1 => some e2m1 | _ => none

/-- The value of a `cvt` source (R368): its low bits, the higher bits ignored. -/
def cvtSource (f : ElemFmt) (x : W32) : Num :=
  match f with
  | .int32 => .fin (x.toInt < 0) x.toInt.natAbs 0
  | .uint32 => .fin false x.toNat 0
  | f => match elemFmt? f with
    | some g => g.decode (x.toNat % 2 ^ (g.sign + 1))
    | none => .nan

/-- The result of a `cvt` (R177, R179): the higher bits zero. A conversion to FP32 keeps an infinity whatever `.sat` says (R338). -/
def cvtResult (dst : ElemFmt) (sat : Bool) (rnd : Rnd) (v : Num) : W32 :=
  match dst with
  | .int32 => BitVec.ofInt 32 (toIntClamped rnd (-(2 ^ 31)) (2 ^ 31 - 1) v)
  | .uint32 => BitVec.ofInt 32 (toIntClamped rnd 0 (2 ^ 32 - 1) v)
  | f => match elemFmt? f with
    | some g => BitVec.ofNat 32 (roundNum g (sat && f != .fp32) rnd v)
    | none => 0

/-- The value of an E8M0 scale (R175). -/
def e8m0 (x : Nat) : Num := if x % 256 = 255 then .nan else .fin false 1 ((x % 256 : Nat) - 127 : Int)

/-- `cvt` between floating-point and integer formats (R368). -/
def convert (source dst : ElemFmt) (sat : Bool) (rnd : Rnd) (x : W32) : W32 :=
  cvtResult dst sat rnd (cvtSource source x)

/-- FP32 addition to nearest even (R171). -/
def addRne (a b : W32) : W32 := BitVec.ofNat 32 (fAdd fp32 .rne a.toNat b.toNat)

/-- FP32 subtraction to nearest even. -/
def subRne (a b : W32) : W32 := addRne a (b ^^^ 0x80000000)

/-- The value of an FP32 code. -/
def valueOf (a : W32) : Num := fp32.decode a.toNat

/-- The sum of two exact values, rounded once to FP32 (R192, R262). -/
def sumRne (a b : Num) : W32 := BitVec.ofNat 32 (roundNum fp32 false .rne (a.add .rne b))

/-- The difference of two exact values, rounded once to FP32 (R192). -/
def diffRne (a b : Num) : W32 := sumRne a b.neg

/-- The magnitude of an FP32 value. -/
def absF (a : W32) : W32 := a &&& 0x7FFFFFFF

/-- An FP32 value divided by a positive count, to nearest even (R188). -/
def divCount (a : W32) (n : Nat) : W32 :=
  match fp32.decode a.toNat with
  | .fin neg m e => BitVec.ofNat 32 (roundRat fp32 false .rne neg m n e)
  | _ => a

/-- The mean of magnitudes (R188). -/
def fmean (xs : List W32) : W32 := divCount (xs.foldl addRne 0) xs.length

/-- An FP32 value rounded to BF16 (R189). -/
def toBf16 (a : W32) : Nat := roundNum bf16 false .rne (fp32.decode a.toNat)

/-- A BF16 value as FP32 (R179). -/
def ofBf16 (x : Nat) : W32 := BitVec.ofNat 32 (roundNum fp32 false .rne (bf16.decode (x % 65536)))

/-- Whether an FP32 code is NaN. -/
def isNanF (a : W32) : Bool := (fp32.decode a.toNat).isNan

/-- The sign word of a block (R189). -/
def signWord (xs : List W32) : Nat :=
  (xs.zipIdx.map fun (x, i) => if (fp32.decode x.toNat).lt (.fin false 0 0) then 2 ^ i else 0).sum

/-- The S1 code of a block of 32 (R189). -/
def s1Encode (xs : List W32) : List Byte := natLe 4 (signWord xs) ++ natLe 2 (toBf16 (fmean (xs.map absF)))

/-- The values of an S1 code (R189). -/
def s1Decode (code : List Byte) : List W32 :=
  let s := ofBf16 (leNat (code.drop 4))
  let w := leNat (code.take 4)
  (span 0 32).map fun i => if w.testBit i && !isNanF s then s ^^^ 0x80000000 else s

/-- The trits of a block (R190). DESIGN CHOICE (log 51): the pseudocode is followed also where m is 2^-149, the one value whose half rounds to
0, so that its zeros are coded by trit 2, which the rule's closing remark takes for impossible. -/
def t3Trits (m : W32) (xs : List W32) : List Nat :=
  let h := fp32.decode (divCount m 2).toNat
  let zero := (fp32.decode m.toNat).isZero
  xs.map fun x =>
    let a := fp32.decode (absF x).toNat
    if !zero && (h.lt a || h.eqv a) then (if (Num.fin false 0 0).lt (fp32.decode x.toNat) then 1 else 2) else 0

/-- Trits packed five to a byte (R187). -/
def packTrits : List Nat → List Byte
  | a :: b :: c :: d :: e :: ts => BitVec.ofNat 8 (a + 3 * b + 9 * c + 27 * d + 81 * e) :: packTrits ts
  | [] => []
  | ts => [BitVec.ofNat 8 (ts.foldr (fun t acc => t + 3 * acc) 0)]

/-- The T3 code of a block of 32 (R190). -/
def t3Encode (xs : List W32) : List Byte :=
  let m := fmean (xs.map absF)
  let ts := if isNanF m then xs.map (fun _ => 0) else t3Trits m xs
  let nz := (xs.zip ts).filter (fun p => p.2 != 0)
  let s := if isNanF m then 0x7FC0 else if nz.isEmpty then 0 else toBf16 (fmean (nz.map fun p => absF p.1))
  packTrits ts ++ natLe 2 s

/-- Whether a T3 code is invalid (R191). -/
def t3Invalid (code : List Byte) : Bool := (code.take 7).any (fun b => 242 < b.toNat) || 8 < (code.getD 6 0).toNat

/-- The trit of an element (R187). -/
def tritAt (code : List Byte) (i : Nat) : Nat := (code.getD (i / 5) 0).toNat / 3 ^ (i % 5) % 3

/-- The values of a T3 code (R191). -/
def t3Decode (code : List Byte) : List W32 :=
  let s := ofBf16 (leNat (code.drop 7))
  if t3Invalid code || isNanF s then (span 0 32).map fun _ => 0x7FC00000
  else (span 0 32).map fun i =>
    match tritAt code i with
    | 0 => 0
    | 1 => s
    | _ => s ^^^ 0x80000000

/-- Agreed-scale E4M3 of one element (R193). -/
def qEncode (scale : Byte) (x : W32) : Byte :=
  match fp32.decode x.toNat, e8m0 scale.toNat with
  | .nan, _ | _, .nan => 0x7F
  | v, .fin _ _ k => BitVec.ofNat 8 (roundNum e4m3 true .rne (v.scale (-k)))
  | _, _ => 0x7F

/-- Whether one element clips (R193). -/
def qClips (scale : Byte) (x : W32) : Bool :=
  match fp32.decode x.toNat, e8m0 scale.toNat with
  | .inf _, _ => true
  | .fin neg m e, .fin _ _ k => e4m3.maxCode < roundMag e4m3 .rne neg m 1 (e - k)
  | _, _ => false

/-- The exact value of an agreed-scale E4M3 byte, elem × 2^(X − 127), which the subtraction of R192 and the sum of R262 take (R193). -/
def qValue (scale : Byte) (x : Byte) : Num := (e4m3.decode x.toNat).mul (e8m0 scale.toNat)

/-- An agreed-scale E4M3 byte as an FP32 code (R193, R406). -/
def qDecode (scale : Byte) (x : Byte) : W32 := BitVec.ofNat 32 (roundNum fp32 false .rne (qValue scale x))

/-- Elements of w bits as one little-endian stream of bytes (R176). -/
def packElems (w : Nat) (xs : List Nat) : List Byte :=
  natLe (ceilDiv (w * xs.length) 8) (xs.foldr (fun x acc => x % 2 ^ w + acc * 2 ^ w) 0)

/-- Element i of width w of a stream (R176). -/
def elemAt (w : Nat) (bytes : List Byte) (i : Nat) : Nat := bitsAt (leNat bytes) (i * w) w

/-- The largest magnitude code of a block, as FP32. -/
def amaxOf (xs : List W32) : W32 := xs.foldl (fun acc x => if acc.toNat < (absF x).toNat then absF x else acc) 0

/-- floor(log2) of a positive finite FP32 code. -/
def floorLog2 (x : W32) : Int :=
  match fp32.decode x.toNat with
  | .fin _ m e => m.log2 + e
  | _ => 128

/-- The E8M0 scale and the element codes of an MX block (R180). -/
def mxEncode (f : Fmt) (emax : Int) (sat : Bool) (xs : List W32) : Byte × List Nat :=
  let amax := amaxOf xs
  let scale : Nat :=
    if xs.any isNanF then 255
    else if amax = 0 then 0
    else if (fp32.decode amax.toNat).isInf then 254
    else (max 0 (min 254 (floorLog2 amax - emax + 127))).toNat
  (BitVec.ofNat 8 scale, xs.map fun x => roundNum f sat .rne ((fp32.decode x.toNat).scale (127 - scale)))

/-- The nearest integer of an FP32 magnitude times 2^k, ties to even; an infinity is above every code. -/
def rneScaled (x : W32) (k : Int) : Nat :=
  match fp32.decode (absF x).toNat with
  | .fin _ m e => let s := scaled m 1 (e + k) 0; roundInt .rne false s.1 s.2
  | _ => 2 ^ 300

/-- The micro-exponent and the two codes of a pair of a DN block (R183). -/
def dnPair (b : Nat) (e : Int) (x y : W32) : Bool × List Nat :=
  let top := 2 ^ b - 1
  let pm := amaxOf [x, y]
  let u := rneScaled pm (b - 1 - (e - 128)) ≤ top
  let k : Int := b - 1 - (e - 127 - b2n u)
  (u, [x, y].map fun z =>
    let m := min (rneScaled z k) top
    let s := z.getLsbD 31 && m != 0
    b2n s * 2 ^ b + m)

/-- The pairs of a DN block, lowest first. -/
def dnPairs (b : Nat) (e : Int) : List W32 → List (Bool × List Nat)
  | x :: y :: xs => dnPair b e x y :: dnPairs b e xs
  | _ => []

/-- The exponent byte, micro byte and codes of a DN block of 16 (R183). -/
def dnEncode (b : Nat) (sat : Bool) (xs : List W32) : Byte × Byte × List Nat :=
  let nanBlock : Byte × Byte × List Nat := (0xFF, 0, xs.map fun _ => 0)
  let amax := amaxOf xs
  let e0 : Int :=
    if amax = 0 then 0
    else if (fp32.decode amax.toNat).isInf then 255
    else max (floorLog2 amax + 127) 0
  let e1 := if e0 ≤ 254 && 2 ^ b - 1 < rneScaled amax (b - 1 - (e0 - 127)) then e0 + 1 else e0
  if xs.any isNanF || (254 < e1 && !sat) then nanBlock
  else
    let e := min e1 254
    let ps := dnPairs b e xs
    (BitVec.ofInt 8 e, BitVec.ofNat 8 ((ps.zipIdx.map fun (p, i) => b2n p.1 * 2 ^ i).sum), ps.flatMap fun p => p.2)

/-- The value of an element of a DN block (R182). -/
def dnDecode (b : Nat) (e : Byte) (u : Bool) (code : Nat) : Num :=
  if e = 0xFF then .nan
  else .fin (code.testBit b) (code % 2 ^ b) ((e.toNat : Int) - 127 - b2n u - (b - 1))

/-- Payload bits of a format code of the operand buffer (R178). -/
def fmtBits : Nat → Nat
  | 1 | 2 => 16 | 3 | 4 | 6 => 8 | 5 => 4 | 7 => 5 | 8 => 3 | _ => 32

/-- The depth of a format code (R178, R209). -/
def kdepth : Nat → Nat
  | 1 | 2 => 96 | 3 | 4 | 6 => 192 | 5 => 384 | 7 => 288 | 8 => 512 | _ => 0

/-- Whether a BLK field is allowed for a format code (R178). -/
def blkAllowed (fmt blk : Nat) : Bool :=
  match fmt with
  | 1 | 2 => blk == 0
  | 3 | 4 | 5 => blk == 0 || blk == 2
  | 6 | 7 | 8 => blk == 1
  | _ => false

/-- The block length of a BLK field (R109). -/
def blkLen (blk : Nat) : Nat := if blk = 1 then 16 else 32

/-- Whether a format code is a DN format (R181). -/
def isDn (fmt : Nat) : Bool := fmt == 6 || fmt == 7 || fmt == 8

/-- Magnitude bits of a DN format (R181). -/
def dnBits : Nat → Nat
  | 6 => 7 | 7 => 4 | _ => 2

/-- The element format of a non-DN format code (R178). -/
def plainFmt : Nat → Fmt
  | 1 => fp16 | 2 => bf16 | 3 => e4m3 | 4 => e5m2 | 5 => e2m1 | _ => fp32

/-- The value of an element of the operand buffer with its scale and micro bit (R176, R180, R182). -/
def elemValue (fmt : Nat) (code : Nat) (scale : Option Nat) (u : Bool) : Num :=
  if isDn fmt then dnDecode (dnBits fmt) (BitVec.ofNat 8 (scale.getD 0)) u code
  else match scale with
    | some x => ((plainFmt fmt).decode code).mul (e8m0 x)
    | none => (plainFmt fmt).decode code

/-- One unit of products added into an accumulator (R184, R185). -/
def unitAdd (acc : W32) (prods : List Num) : W32 :=
  let unit := prods.foldl (Num.add .rne) (.fin false 0 0)
  if unit.isZero then acc else addRne acc (BitVec.ofNat 32 (roundNum fp32 false .rne unit))

/-- The histogram bin of an FP32 value (R242). -/
def histBin (x : W32) : Nat :=
  match fp32.decode x.toNat with
  | .fin _ m e =>
    if m < 2 ^ 23 then 0
    else
      let l : Int := m.log2 + e
      if l ≤ -61 then 1 else if 84 ≤ l then 38 else ((l + 64) / 4).toNat + 1
  | _ => 39

end Sys2Proof.Machine
end

