-- ==== Sys2Proof/Machine/Flags.lean ====
section
/-! DEFINITION. What predicates and masks come to: integer compares (R364), floating-point compares (R373), votes (R461) and
the reductions of a group (R442). -/

namespace Sys2Proof.Machine

/-- The integer compares of R364. -/
def cmpLtS (a b : W32) : Bool := a.slt b
def cmpLeS (a b : W32) : Bool := a.sle b
def cmpLtU (a b : W32) : Bool := a.ult b
def cmpLeU (a b : W32) : Bool := a.ule b

/-- The FP32 compares of R373. -/
def fcEq (a b : W32) : Bool := (fp32.decode a.toNat).eqv (fp32.decode b.toNat)
def fcLt (a b : W32) : Bool := (fp32.decode a.toNat).lt (fp32.decode b.toNat)
def fcLe (a b : W32) : Bool := fcLt a b || fcEq a b
def fcUn (a b : W32) : Bool := isNanF a || isNanF b

/-- The number of a predicate field with its half bit m (R317). -/
def predNum (r : Reg) (m : Bool) : Nat := r.toNat + (if m then 64 else 0)

/-- The OR of a vote over the lanes (R461). -/
def voteAny (xs : List Bool) : Bool := xs.any id

/-- The AND of a vote over all G lanes, an exited lane reading 0 (R461). -/
def voteAll (xs : List Bool) : Bool := xs.all id

/-- The mask of a ballot: bit l is lane l (R461). -/
def ballot : List Bool → Nat
  | [] => 0
  | b :: bs => b2n b + 2 * ballot bs

/-- One step of `redux` (R442). -/
def reduxOp (op : ReduxOp) (a b : W32) : W32 :=
  match op with
  | .add => a + b
  | .smin => if a.slt b then a else b
  | .smax => if a.slt b then b else a
  | .umin => if a.ult b then a else b
  | .umax => if a.ult b then b else a
  | .band => a &&& b
  | .bor => a ||| b
  | .bxor => a ^^^ b

/-- The value of `redux` over the G lanes, an exited lane contributing 0 (R442). -/
def redux (op : ReduxOp) : List W32 → W32
  | [] => 0
  | x :: xs => xs.foldl (reduxOp op) x

end Sys2Proof.Machine
end

