-- ==== Sys2Proof/Machine/Aes.lean ====
section
/-! DEFINITION. AES-XTS-256 as the memory controllers use it for protected pages (R16): AES with a 256-bit key (FIPS 197) in the XTS
mode (IEEE 1619), on blocks of 16 bytes, with the 4 KiB physical page number as tweak. Bytes are numbers below 256 here. -/

namespace Sys2Proof.Machine.Aes

/-- Multiplication by x in GF(2^8). -/
def xtime (a : Nat) : Nat := if 128 ≤ a then (2 * a) ^^^ 0x11B else 2 * a

/-- Multiplication in GF(2^8). -/
def gmul (a b : Nat) : Nat :=
  ((List.range 8).foldl (fun (p : Nat × Nat) i => (if bitAt b i then p.1 ^^^ p.2 else p.1, xtime p.2)) (0, a)).1

/-- The inverse in GF(2^8), as the power 254; 0 for 0. -/
def ginv (a : Nat) : Nat :=
  let a2 := gmul a a
  let a3 := gmul a2 a
  let a6 := gmul a3 a3
  let a12 := gmul a6 a6
  let a14 := gmul a12 a2
  let a15 := gmul a12 a3
  let sq (n : Nat) := gmul n n
  gmul (sq (sq (sq (sq a15)))) a14

/-- A byte turned left. -/
def rotl8 (a n : Nat) : Nat := (a * 2 ^ n ||| a / 2 ^ (8 - n)) % 256

/-- The substitution of AES and its inverse. -/
def sbox (a : Nat) : Nat :=
  let b := ginv a
  b ^^^ rotl8 b 1 ^^^ rotl8 b 2 ^^^ rotl8 b 3 ^^^ rotl8 b 4 ^^^ 0x63

def invSbox (a : Nat) : Nat := ginv (rotl8 a 1 ^^^ rotl8 a 3 ^^^ rotl8 a 6 ^^^ 0x05)

/-- Adds two byte strings in GF(2). -/
def xorBytes (a b : List Nat) : List Nat := (a.zip b).map fun e => e.1 ^^^ e.2

/-- The round constant of the i-th group of key words. -/
def rcon : Nat → Nat
  | 0 => 0x8D
  | n + 1 => xtime (rcon n)

/-- The next word of the key schedule, after i words that stand newest first. -/
def nextWord (i : Nat) (ws : List (List Nat)) : List Nat :=
  let last := ws.headD []
  let t := if i % 8 = 0 then xorBytes ((last.drop 1 ++ last.take 1).map sbox) [rcon (i / 8), 0, 0, 0]
    else if i % 8 = 4 then last.map sbox else last
  xorBytes t (ws.getD 7 [])

/-- The 15 round keys of a 32-byte key. -/
def roundKeys (key : List Nat) : List (List Nat) :=
  let ws0 := ((List.range 8).map fun i => (key.drop (4 * i)).take 4).reverse
  let ws := ((List.range 52).foldl (fun ws i => nextWord (i + 8) ws :: ws) ws0).reverse
  (List.range 15).map fun r => ((ws.drop (4 * r)).take 4).flatten

/-- Rows turned by their number, forwards and back; byte r + 4c stands in row r and column c. -/
def shiftRows (x : List Nat) : List Nat := (List.range 16).map fun i => x.getD (4 * ((i / 4 + i % 4) % 4) + i % 4) 0
def invShiftRows (x : List Nat) : List Nat := (List.range 16).map fun i => x.getD (4 * ((i / 4 + 4 - i % 4) % 4) + i % 4) 0

/-- Each column times a fixed polynomial, given by the coefficients of a row. -/
def mix (cs : List Nat) (x : List Nat) : List Nat :=
  (List.range 16).map fun i =>
    (List.range 4).foldl (fun acc j => acc ^^^ gmul (cs.getD j 0) (x.getD (i / 4 * 4 + (i + j) % 4) 0)) 0

/-- Encrypts and decrypts one block of 16 bytes (FIPS 197). -/
def encryptBlock (key : List Nat) (x : List Nat) : List Nat :=
  let ks := roundKeys key
  let x := (List.range 13).foldl (fun x r =>
    xorBytes (mix [2, 3, 1, 1] (shiftRows (x.map sbox))) (ks.getD (r + 1) [])) (xorBytes x (ks.getD 0 []))
  xorBytes (shiftRows (x.map sbox)) (ks.getD 14 [])

def decryptBlock (key : List Nat) (x : List Nat) : List Nat :=
  let ks := roundKeys key
  let x := (List.range 13).foldl (fun x r =>
    mix [14, 11, 13, 9] (xorBytes ((invShiftRows x).map invSbox) (ks.getD (13 - r) []))) (xorBytes x (ks.getD 14 []))
  xorBytes ((invShiftRows x).map invSbox) (ks.getD 0 [])

/-- A number as 16 bytes, the lowest first, and back. -/
def block16 (n : Nat) : List Nat := (List.range 16).map fun i => bitsAt n (8 * i) 8
def ofBlock (x : List Nat) : Nat := x.foldr (fun b n => b + 256 * n) 0

/-- Multiplication of a tweak by the primitive element of GF(2^128) (IEEE 1619). -/
def tweakStep (t : Nat) : Nat := if 2 ^ 127 ≤ t then (2 * t % 2 ^ 128) ^^^ 0x87 else 2 * t

/-- The tweak of block j of a page, under the second half of a 64-byte key. -/
def tweak (key : List Nat) (page j : Nat) : List Nat :=
  block16 ((List.range j).foldl (fun t _ => tweakStep t) (ofBlock (encryptBlock (key.drop 32) (block16 page))))

/-- Encrypts and decrypts block j of a page under a 64-byte key (R16). -/
def xtsEncrypt (key : List Nat) (page j : Nat) (x : List Nat) : List Nat :=
  let t := tweak key page j
  xorBytes (encryptBlock (key.take 32) (xorBytes x t)) t

def xtsDecrypt (key : List Nat) (page j : Nat) (x : List Nat) : List Nat :=
  let t := tweak key page j
  xorBytes (decryptBlock (key.take 32) (xorBytes x t)) t

end Sys2Proof.Machine.Aes
end

