-- ==== Sys2Proof/Config.lean ====
section
/-! DEFINITION. The free values of the model: what the spec leaves open, or draws from a random generator, or has fused into the die.
None has a body, so a statement about one holds for every value. -/

namespace Sys2Proof.Config

/-- Bytes of an operand-buffer reservation that no job has filled (R110), by reservation serial and offset. -/
opaque reservationByte : Nat → Nat → Byte
/-- Numbers drawn by the Porhotu controller's random generator (R75, R245, R307), by draw. -/
opaque randomWord : Nat → W64
/-- Thirty-two random bytes: a handshake nonce (R246), or half of an AES-XTS-256 key (R307), by draw. -/
opaque randomBytes : Nat → List Byte
/-- Lease events counted by a core since the last read (R124), by draw. -/
opaque leaseEvents : Nat → W32
/-- What the host reads of the regions whose contents are the device's own (R142, R235, R288), by draw and byte key. -/
opaque deviceByte : Nat → Nat → Byte
/-- 64 B units of a compressed team image (R288), by draw. -/
opaque imageUnits : Nat → Nat
/-- Thirty-two secret bytes: an X25519 secret (R246), by draw. -/
opaque secretBytes : Nat → List Byte
/-- The fused seed of the device identity key (R311). -/
opaque identitySeed : List Byte
/-- Skovvaber's Ed25519 public key, fused into the die (R310). -/
opaque firmwareKey : List Byte
/-- The firmware images of the factory, hub, fabric die and memory controller: data, signature, security version (R310). -/
opaque factoryImages : List (List Byte × List Byte × Nat)
/-- The images that the bytes of the staging window make of those in force: the window's layout is not given (R310). -/
opaque stagedImages : List (Nat × Byte) → List (List Byte × List Byte × Nat) → List (List Byte × List Byte × Nat)

/-- An entry of the host's page tables as a walk reads it over CXL (R282), by draw and host physical address: the host's
memory is no part of the module. -/
opaque hostEntry : Nat → Nat → W64
/-- A choice among things whose order the spec leaves open (R113, R134), by draw. -/
opaque choice : Nat → Nat
/-- What moves next when no turn has been chosen, by draw: a selector that `step` maps to a turn. -/
opaque nextAgent : Nat → Nat

end Sys2Proof.Config
end

