-- ==== Sys2Proof/Machine/Crypto.lean ====
section
/-! DEFINITION. The standards that the spec names for claims, handshakes, reports and firmware: SHA-512 (FIPS 180, R310, R311), HMAC and
HKDF (RFC 2104, RFC 5869, R245), Ed25519 (RFC 8032, R75, R245, R246, R310, R311) and X25519 (RFC 7748, R245). -/

namespace Sys2Proof.Machine.Crypto

/-! ## SHA-512 (FIPS 180) -/

/-- The round constants. -/
def sha512K : List Nat :=
  [0x428A2F98D728AE22, 0x7137449123EF65CD, 0xB5C0FBCFEC4D3B2F, 0xE9B5DBA58189DBBC,
   0x3956C25BF348B538, 0x59F111F1B605D019, 0x923F82A4AF194F9B, 0xAB1C5ED5DA6D8118,
   0xD807AA98A3030242, 0x12835B0145706FBE, 0x243185BE4EE4B28C, 0x550C7DC3D5FFB4E2,
   0x72BE5D74F27B896F, 0x80DEB1FE3B1696B1, 0x9BDC06A725C71235, 0xC19BF174CF692694,
   0xE49B69C19EF14AD2, 0xEFBE4786384F25E3, 0x0FC19DC68B8CD5B5, 0x240CA1CC77AC9C65,
   0x2DE92C6F592B0275, 0x4A7484AA6EA6E483, 0x5CB0A9DCBD41FBD4, 0x76F988DA831153B5,
   0x983E5152EE66DFAB, 0xA831C66D2DB43210, 0xB00327C898FB213F, 0xBF597FC7BEEF0EE4,
   0xC6E00BF33DA88FC2, 0xD5A79147930AA725, 0x06CA6351E003826F, 0x142929670A0E6E70,
   0x27B70A8546D22FFC, 0x2E1B21385C26C926, 0x4D2C6DFC5AC42AED, 0x53380D139D95B3DF,
   0x650A73548BAF63DE, 0x766A0ABB3C77B2A8, 0x81C2C92E47EDAEE6, 0x92722C851482353B] ++
  [0xA2BFE8A14CF10364, 0xA81A664BBC423001, 0xC24B8B70D0F89791, 0xC76C51A30654BE30,
   0xD192E819D6EF5218, 0xD69906245565A910, 0xF40E35855771202A, 0x106AA07032BBD1B8,
   0x19A4C116B8D2D0C8, 0x1E376C085141AB53, 0x2748774CDF8EEB99, 0x34B0BCB5E19B48A8,
   0x391C0CB3C5C95A63, 0x4ED8AA4AE3418ACB, 0x5B9CCA4F7763E373, 0x682E6FF3D6B2B8A3,
   0x748F82EE5DEFB2FC, 0x78A5636F43172F60, 0x84C87814A1F0AB72, 0x8CC702081A6439EC,
   0x90BEFFFA23631E28, 0xA4506CEBDE82BDE9, 0xBEF9A3F7B2C67915, 0xC67178F2E372532B,
   0xCA273ECEEA26619C, 0xD186B8C721C0C207, 0xEADA7DD6CDE0EB1E, 0xF57D4F7FEE6ED178,
   0x06F067AA72176FBA, 0x0A637DC5A2C898A6, 0x113F9804BEF90DAE, 0x1B710B35131C471B,
   0x28DB77F523047D84, 0x32CAAB7B40C72493, 0x3C9EBE0A15C9BEBC, 0x431D67C49C100D4C,
   0x4CC5D4BECB3E42B6, 0x597F299CFC657E2A, 0x5FCB6FAB3AD6FAEC, 0x6C44198C4A475817]

/-- The initial hash value. -/
def sha512Init : List Nat :=
  [0x6A09E667F3BCC908, 0xBB67AE8584CAA73B, 0x3C6EF372FE94F82B, 0xA54FF53A5F1D36F1,
   0x510E527FADE682D1, 0x9B05688C2B3E6C1F, 0x1F83D9ABFB41BD6B, 0x5BE0CD19137E2179]

/-- A 64-bit word turned right. -/
def rotr (x n : Nat) : Nat := (x >>> n ||| x <<< (64 - n)) % 2 ^ 64

/-- One round: the working variables a to h and a 16-word window of the message schedule. -/
def sha512Round (st : List Nat × List Nat) (k : Nat) : List Nat × List Nat :=
  match st.1, st.2 with
  | [a, b, c, d, e, f, g, h], w :: ws =>
    let s1 := rotr e 14 ^^^ rotr e 18 ^^^ rotr e 41
    let ch := (e &&& f) ^^^ ((2 ^ 64 - 1 - e) &&& g)
    let t1 := h + s1 + ch + k + w
    let s0 := rotr a 28 ^^^ rotr a 34 ^^^ rotr a 39
    let maj := (a &&& b) ^^^ (a &&& c) ^^^ (b &&& c)
    let w1 := ws.getD 0 0
    let w14 := ws.getD 13 0
    let x0 := rotr w1 1 ^^^ rotr w1 8 ^^^ w1 >>> 7
    let x1 := rotr w14 19 ^^^ rotr w14 61 ^^^ w14 >>> 6
    ([(t1 + s0 + maj) % 2 ^ 64, a, b, c, (d + t1) % 2 ^ 64, e, f, g],
     ws ++ [(x1 + ws.getD 8 0 + x0 + w) % 2 ^ 64])
  | v, w => (v, w)

/-- The compression of one block of 16 words. -/
def sha512Block (h ws : List Nat) : List Nat :=
  ((h.zip (sha512K.foldl sha512Round (h, ws)).1).map fun e => (e.1 + e.2) % 2 ^ 64)

/-- The value of a big-endian byte list. -/
def beNat (bs : List Byte) : Nat := bs.foldl (fun n b => 256 * n + b.toNat) 0

/-- The n bytes of a number, highest first. -/
def natBe (n x : Nat) : List Byte := (natLe n x).reverse

/-- A message with its padding: the bit 1, zeros, and its length in bits. -/
def sha512Pad (m : List Byte) : List Byte :=
  let n := m.length
  m ++ [0x80] ++ natLe ((239 - n % 128) % 128) 0 ++ natBe 16 (8 * n)

/-- SHA-512 of a byte string, 64 bytes. -/
def sha512 (m : List Byte) : List Byte :=
  let p := sha512Pad m
  let blocks := (span 0 (p.length / 128)).map fun i =>
    (span 0 16).map fun j => beNat ((p.drop (128 * i + 8 * j)).take 8)
  (blocks.foldl sha512Block sha512Init).flatMap (natBe 8)

/-! ## HMAC and HKDF -/

/-- A byte string extended with zeros to a length, or cut to it. -/
def fit (n : Nat) (bs : List Byte) : List Byte := (bs ++ natLe n 0).take n

/-- HMAC-SHA-512 (RFC 2104). -/
def hmac (key m : List Byte) : List Byte :=
  let k := fit 128 (if 128 < key.length then sha512 key else key)
  sha512 (k.map (fun b => b ^^^ 0x5C) ++ sha512 (k.map (fun b => b ^^^ 0x36) ++ m))

/-- The first n ≤ 64 bytes of HKDF-SHA-512 (RFC 5869). -/
def hkdf (salt ikm info : List Byte) (n : Nat) : List Byte := (hmac (hmac salt ikm) (info ++ [0x01])).take n

/-! ## The field of 2^255 - 19 -/

/-- The prime. -/
def prime : Nat := 2 ^ 255 - 19

def fmul (a b : Nat) : Nat := a * b % prime
def fadd (a b : Nat) : Nat := (a + b) % prime
def fsub (a b : Nat) : Nat := (a + prime - b % prime) % prime

/-- A power in the field, over the low bits of the exponent. -/
def fpow : Nat → Nat → Nat → Nat
  | 0, _, _ => 1
  | n + 1, a, e => let r := fpow n (fmul a a) (e / 2); if e % 2 = 1 then fmul a r else r

/-- The inverse in the field. -/
def finv (a : Nat) : Nat := fpow 255 a (prime - 2)

/-! ## Ed25519 (RFC 8032) -/

/-- The order of the base point. -/
def order : Nat := 2 ^ 252 + 27742317777372353535851937790883648493

/-- The constant d of the curve. -/
def curveD : Nat := fmul (prime - 121665) (finv 121666)

/-- A point in extended coordinates. -/
structure Point where
  x : Nat
  y : Nat
  z : Nat
  t : Nat
deriving DecidableEq, Repr

/-- The neutral point. -/
def Point.zero : Point := ⟨0, 1, 1, 0⟩

/-- Adds two points, which may be equal. -/
def Point.add (d2 : Nat) (p q : Point) : Point :=
  let a := fmul (fsub p.y p.x) (fsub q.y q.x)
  let b := fmul (fadd p.y p.x) (fadd q.y q.x)
  let c := fmul (fmul p.t d2) q.t
  let e := fmul (2 * p.z) q.z
  let (f, g, h, i) := (fsub b a, fsub e c, fadd e c, fadd b a)
  ⟨fmul f g, fmul h i, fmul g h, fmul f i⟩

/-- A multiple of a point, over the low bits of the factor. -/
def Point.mul (d2 : Nat) : Nat → Point → Nat → Point
  | 0, _, _ => .zero
  | n + 1, p, k =>
    let r := Point.mul d2 n (p.add d2 p) (k / 2)
    if k % 2 = 1 then r.add d2 p else r

/-- Whether two points are equal. -/
def Point.same (p q : Point) : Bool := fmul p.x q.z == fmul q.x p.z && fmul p.y q.z == fmul q.y p.z

/-- The x coordinate of a point by its y and the sign of x (RFC 8032, 5.1.3). -/
def recoverX (y sign : Nat) : Option Nat :=
  if prime ≤ y then none
  else
    let u := fsub (fmul y y) 1
    let v := fadd (fmul curveD (fmul y y)) 1
    let x2 := fmul u (finv v)
    let x := fpow 255 x2 ((prime + 3) / 8)
    let x := if fmul x x = x2 then x else fmul x (fpow 255 2 ((prime - 1) / 4))
    if fmul x x ≠ x2 then none
    else if x = 0 ∧ sign = 1 then none
    else some (if x % 2 = sign then x else (prime - x) % prime)

/-- A point from its 32 bytes, and back. -/
def decodePoint (bs : List Byte) : Option Point :=
  let n := leNat bs
  let y := n % 2 ^ 255
  (recoverX y (n / 2 ^ 255 % 2)).map fun x => ⟨x, y, 1, fmul x y⟩

def encodePoint (p : Point) : List Byte :=
  let zi := finv p.z
  natLe 32 (fmul p.y zi + fmul p.x zi % 2 * 2 ^ 255)

/-- The base point. -/
def basePoint : Point :=
  let y := fmul 4 (finv 5)
  let x := (recoverX y 0).getD 0
  ⟨x, y, 1, fmul x y⟩

/-- A hash as a number modulo the order. -/
def hashNat (bs : List Byte) : Nat := leNat (sha512 bs) % order

/-- Verifies a 64-byte pure Ed25519 signature over a message (RFC 8032, 5.1.7). -/
def verify (key m sig : List Byte) : Bool :=
  let r := sig.take 32
  let s := leNat (sig.drop 32)
  match decodePoint key, decodePoint r with
  | some a, some rp =>
    let d2 := fadd curveD curveD
    let k := hashNat (r ++ key ++ m)
    key.length == 32 && sig.length == 64 && s < order &&
      (Point.mul d2 259 basePoint (8 * s)).same ((Point.mul d2 4 rp 8).add d2 (Point.mul d2 259 a (8 * k)))
  | _, _ => false

/-- The secret scalar of a seed (RFC 8032, 5.1.5; RFC 7748, 5). -/
def clamp (n : Nat) : Nat := n % 2 ^ 254 / 8 * 8 + 2 ^ 254

/-- The public key of a 32-byte seed. -/
def publicKey (seed : List Byte) : List Byte :=
  encodePoint (Point.mul (fadd curveD curveD) 256 basePoint (clamp (leNat ((sha512 seed).take 32))))

/-- The pure Ed25519 signature of a message under a seed, 64 bytes (RFC 8032, 5.1.6). -/
def sign (seed m : List Byte) : List Byte :=
  let d2 := fadd curveD curveD
  let h := sha512 seed
  let s := clamp (leNat (h.take 32))
  let r := hashNat (h.drop 32 ++ m)
  let rb := encodePoint (Point.mul d2 256 basePoint r)
  rb ++ natLe 32 ((r + hashNat (rb ++ publicKey seed ++ m) * s) % order)

/-! ## X25519 (RFC 7748) -/

/-- One step of the Montgomery ladder on x1 and the pairs (x2, z2) and (x3, z3). -/
def ladderStep (x1 : Nat) (a b : Nat × Nat) : (Nat × Nat) × (Nat × Nat) :=
  let (x2, z2) := a
  let (x3, z3) := b
  let p := fadd x2 z2
  let pp := fmul p p
  let m := fsub x2 z2
  let mm := fmul m m
  let e := fsub pp mm
  let da := fmul (fsub x3 z3) p
  let cb := fmul (fadd x3 z3) m
  let u := fadd da cb
  let w := fsub da cb
  ((fmul pp mm, fmul e (fadd pp (fmul 121665 (e)))), (fmul u u, fmul x1 (fmul w w)))

/-- The ladder from the highest of n bits down. -/
def ladder (x1 k : Nat) : Nat → (Nat × Nat) × (Nat × Nat) → (Nat × Nat) × (Nat × Nat)
  | 0, s => s
  | n + 1, (a, b) =>
    ladder x1 k n (if bitAt k n then let (b', a') := ladderStep x1 b a; (a', b') else ladderStep x1 a b)

/-- X25519 of a 32-byte scalar and a 32-byte u coordinate. -/
def x25519 (k u : List Byte) : List Byte :=
  let x1 := leNat u % 2 ^ 255 % prime
  let r := (ladder x1 (clamp (leNat k)) 255 ((1, 0), (x1, 1))).1
  natLe 32 (fmul r.1 (finv r.2))

/-- The public value of a 32-byte secret. -/
def x25519Base (k : List Byte) : List Byte := x25519 k (natLe 32 9)

end Sys2Proof.Machine.Crypto
end

