-- ==== Sys2Proof/Machine/State.lean ====
section
/-! DEFINITION. The state of the machine as plain data: threads, groups, teams, cores, contexts with their views and worlds,
work queues, hub, fabric processors, sessions and memory; why a step can stop; and the state after reset. -/

namespace Sys2Proof.Machine

/-- Device memory: bytes by rising key `die * 2^36 + stack offset` (R21). A byte with no entry reads as zero. -/
abbrev Memory := List Host.Cell

/-- Keys rise strictly after a bound, and no entry holds the byte that an unlisted key reads as. -/
def Memory.wfFrom : Nat → Memory → Bool
  | _, [] => true
  | lo, (k, b) :: m => lo ≤ k && b != 0 && Memory.wfFrom (k + 1) m

/-- The canonical form of memory. -/
def Memory.wf (m : Memory) : Bool := Memory.wfFrom 0 m

/-- Why a thread is not ready (R291). -/
inductive Wait where
  | ready | marker | scoreboard | barrier | join | convergence | sideLog | translation | remoteSlot | budget | claim
  | breakpoint | peerHandler | startQueue | fence | version | save | pause | compaction
deriving DecidableEq, Repr

/-- Why a fabric-processor slot is not running (R291). -/
inductive SlotWait where
  | ready | receive | memory | residual | image | send | switchedOut | budget
deriving DecidableEq, Repr

/-- One reply not yet written: the registers and predicates of a variable-latency result (R59, R60). -/
structure Reply where
  regs : List (Nat × W32)
  preds : List (Nat × Bool)
deriving DecidableEq, Repr

/-- A trap that waits for pending replies before its delivery (R277). -/
structure TrapDue where
  cause : Byte
  addr : W64
  info : W32
  epc : W64
  chain : Bool
deriving DecidableEq, Repr

/-- A thread that stands at a convergence point (R44). -/
structure Arrival where
  instr : Instr
  switch : Bool
deriving DecidableEq, Repr

/-- A store by physical key that has not yet been performed at its home (R137). -/
structure WcStore where
  key : Nat
  /-- Its global virtual address. -/
  va : Nat
  data : List Byte
  /-- Its page is protected (R307). -/
  prot : Bool
  /-- The instruction that issued it, as `LogEntry.bundle` (R128). -/
  bundle : Option (Nat × W64)
deriving DecidableEq, Repr

/-- A thread (R29, R33). -/
structure Thread where
  live : Bool
  pc : W64
  regs : Tab W32
  preds : BitVec 128
  consts : Tab W32
  limit : Nat
  stklim : W32
  depth : Nat
  mode : BitVec 2
  tcause : W32
  tepc : W64
  taddr : W64
  tinfo : W32
  udvec : W64
  udmask : BitVec 3
  ucause : W32
  uepc : W64
  uaddr : W64
  uinfo : W32
  pending : List Reply
  wait : Wait
  /-- The reason last waited for, kept across a wake until the thread issues, and the cycles counted in it (R292). -/
  waited : Wait
  waitCount : Nat
  /-- The cycle in which the thread last issued or became ready (R38). -/
  readyAt : Nat
  arrival : Option Arrival
  trapDue : Option TrapDue
  wc : List WcStore
  /-- The barrier offset that a `bar.wait` waits on (R296). -/
  barAt : Option Nat
  yieldUntil : Nat
  yieldSet : List Nat
  /-- The word after which the thread pauses carries the switch marker (R61, R464). -/
  marked : Bool
  /-- The count named by an `rclaim` that waits (R55). -/
  claimN : Nat
  /-- The remote enqueue that the thread waits on has left (R444). -/
  left : Bool
  /-- The instruction that the thread waits on stands in a chain of several words (R273, R277). -/
  chained : Bool
deriving DecidableEq, Repr

/-- The A latch of a group (R212): its format and each lane's payload and scale registers. -/
structure Latch where
  fmt : Nat
  rows : List (List W32)
deriving DecidableEq, Repr

/-- An operand fetch whose matrix instruction has not been accepted yet: the serial of that instruction, and whether one of its jobs has
stopped (R213, R423). -/
structure Fetch where
  serial : Nat
  stopped : Bool
deriving DecidableEq, Repr

/-- A group placed on a core (R29, R53). -/
structure Group where
  core : Nat
  count : Nat
  latch : Option Latch
  /-- Serials of the `mma` and `mmo` executed and not yet retired (R136). -/
  mms : List Nat
  /-- The operand fetch of the `mma` or `mmo` at which the group waits, once its jobs have been accepted (R423). -/
  fetch : Option Fetch
  /-- The thread slots of its core that its lanes occupy, as blocks of 16 (R299). -/
  blocks : List Nat
deriving DecidableEq, Repr

/-- An accepted task record (R63, R64), covering the team ordinals from `first` of its grid. -/
structure TaskRecord where
  entry : W64
  args : W64
  x : W32
  y : W32
  z : W32
  succ : W64
  groups : Nat
  width : Nat
  regs : Nat
  twin : Bool
  idem : Bool
  prio : Nat
  scratch : Nat
  roles : W32
  ex : W32
  ey : W32
  ez : W32
  ctxtag : W32
  seq : BitVec 16
  origin : Nat
deriving DecidableEq, Repr

/-- A reservation of the operand buffer (R108, R109). -/
structure Resv where
  fmt : Nat
  blk : Nat
  units : Nat
  krows : Nat
  ncols : Nat
  sc0 : Nat
  sc1 : Nat
  core : Nat
  place : Nat
  serial : Nat
  bytes : Tab Byte
deriving DecidableEq, Repr

/-- Where a team stands: waiting at a queue engine, held at its arguments, on its core, draining or saving for a pre-emption,
saved, being copied as a clone, or ending. -/
inductive Phase where
  | waiting | argsHeld | placed | draining | saving | saved | copying | ending
deriving DecidableEq, Repr

/-- The image of a saved team: the core whose shadow store holds a part of it, and its 64 B units there and in the save area
(R288). -/
structure TeamImage where
  core : Nat
  shadow : Nat
  spill : Nat
deriving DecidableEq, Repr

/-- A team (R29). -/
structure Team where
  ctx : Nat
  record : TaskRecord
  tx : W32
  ty : W32
  tz : W32
  die : Nat
  core : Nat
  slot : Option Nat
  phase : Phase
  view : Nat
  rival : Nat
  world : Option Nat
  sp : Tab Byte
  /-- Where the allocation stands in the scratchpad of its core, and of a twin's upper core, in 4 KiB units (R107). -/
  spPlace : Nat
  spPlaceHi : Nat
  resv : Tab Resv
  /-- Private-stack bytes dirty in the L1, by global virtual address (R100). -/
  dirty : Tab Byte
  startedAt : Nat
  firstQueued : Nat
  firstInLine : Option Nat
  /-- It has stood first and not fit for 64 µs, and holds back the teams behind it until it is placed (R78). -/
  blocking : Bool
  /-- A balancing exchange has pushed it, and it has not arrived (R80). -/
  transit : Bool
  external : Bool
  clone : Bool
  /-- Jobs that copy the image of a clone and have not finished (R147, R148). -/
  copies : Nat
  killed : Bool
  /-- The image in which the team stands (R288, R289). -/
  image : Option TeamImage
  /-- A debugger has halted the team and not resumed it (R286). -/
  halted : Bool
  drainUntil : Nat
  /-- It drains for a pre-emption and its threads have not started: it is held at its arguments or copied as a clone (R286). -/
  drain : Bool
  /-- It has been saved before the load of its arguments was performed (R33, R286). -/
  argsDue : Bool
deriving DecidableEq, Repr

/-- The space of a scoreboard interval: a team's scratchpad, or one reservation (R129). -/
inductive Space where
  | sp (team : Nat)
  | res (team id : Nat)
deriving DecidableEq, Repr

/-- The class of a scoreboard interval (R130). -/
inductive IClass where
  | r | w | acc
deriving DecidableEq, Repr

/-- A scoreboard interval, bytes `lo` to `hi - 1`, owned by a job or a matrix instruction by serial (R129). -/
structure Interval where
  space : Space
  lo : Nat
  hi : Nat
  cls : IClass
  owner : Nat
  /-- The core whose engine or copy unit owns it (R131). -/
  engine : Nat
deriving DecidableEq, Repr

/-- A tensor descriptor (R194, R195). -/
structure Desc where
  gbase : W64
  ndim : Nat
  esz : Nat
  dir : Nat
  kind : Nat
  ooberr : Bool
  res : Nat
  fill : W32
  loc : Nat
  param : W32
  bound : List Nat
  stride : List Nat
  box : List Nat
  aux0 : Nat
  aux1 : Nat
deriving DecidableEq, Repr

/-- A footprint region: a hull of global addresses that a job reads or writes (R133). -/
structure Foot where
  lo : Nat
  hi : Nat
  write : Bool
deriving DecidableEq, Repr

/-- The part of a forking team that a clone's image job copies (R147). -/
inductive ClonePart where
  | scratch
  | resv (id : Nat)
  | stack
deriving DecidableEq, Repr

/-- An accepted copy-unit job (R198). -/
structure Job where
  serial : Nat
  desc : Desc
  c0 : Int
  c1 : Int
  c2 : Int
  idxa : W64
  bar : Option Nat
  team : Nat
  thread : Nat
  ctx : Nat
  view : Nat
  core : Nat
  /-- Indices that a gath has read (R199). -/
  idx : List Nat
  /-- Source sectors that the job has read and not yet written on, by byte address (R134); a scratchpad offset stands above 2^60. -/
  got : Tab Byte
  /-- Bytes that the job has written, for its copy budget (R90). -/
  bytes : Nat
  /-- Destination sectors moved and not yet landed, and landed. -/
  moved : List Nat
  landed : List Nat
  stopped : Bool
  held : Bool
  /-- The unit whose access has met the page that it waits for (R202, R203). -/
  heldAt : Nat
  foots : List Foot
  /-- The matrix instruction whose operand this job fetches (R213). -/
  fetchFor : Option Nat
  /-- The clone whose image this job copies (R147). -/
  cloneOf : Option (Nat × ClonePart)
  /-- Bytes of what an image job copies as `fork` found them, where they have changed since: of the forking team's stack slot, or of the
  barriers in its scratchpad, by address or offset (R149). -/
  keep : Tab Byte
deriving DecidableEq, Repr

/-- An `mma` or `mmo` accepted by the matrix engine (R214, R423). -/
structure Mm where
  serial : Nat
  team : Nat
  group : Nat
  outlier : Bool
  dof : Nat
  res : Nat
  afmt : Nat
  noff : Nat
  koff : Nat
  olist : Nat
  count : Nat
  rows : List (List W32)
  started : Bool
  abandoned : Bool
deriving DecidableEq, Repr

/-- An access that waits in a side log for its page (R126). -/
inductive LogOp where
  | store (data : List Byte)
  | red (op : AtomOp) (w64 : Bool) (x : W64)
  | cinc (d : W32)
deriving DecidableEq, Repr

/-- An entry of a core's side log (R128). -/
structure LogEntry where
  ctx : Nat
  view : Nat
  va : W64
  op : LogOp
  team : Nat
  /-- The SEQ of its team's task record (R285). -/
  tag : Nat
  /-- A version cell is reserved for the replay (R166). -/
  cell : Bool
  /-- The remote enqueue whose payload this entry is a part of (R88). -/
  enq : Option Nat
  /-- Its place among the logged accesses of its context, in all cores (R119, R126). -/
  place : Nat
  /-- The instruction of a bundle that issued it, by the bundle's number and the word, for the entry that its lanes share (R128). -/
  bundle : Option (Nat × W64)
  /-- The image jobs to which the logged store of a forking team's stack is later than the `fork`, by serial (R149). -/
  keepFor : List Nat
deriving DecidableEq, Repr

/-- A register claim (R55). -/
structure Claim where
  group : Nat
  n : Nat
deriving DecidableEq, Repr

/-- An active-set slot: its group, or the incoming group and the cycle in which its exchange ends (R37, R40). -/
structure ActSlot where
  group : Nat
  incoming : Option Nat
  until_ : Nat
deriving DecidableEq, Repr

/-- A core (R17). -/
structure Core where
  slots : Tab ActSlot
  claims : List Claim
  jobs : List Job
  ivals : List Interval
  mms : List Mm
  log : List LogEntry
  lsrenew : W32
  lsstale : W32
  wsbump : W32
  icache : Tab W32
  shadow : Nat
  /-- The memory requests whose values have not been written: thread and first register (R17). -/
  requests : List (Nat × Nat)
deriving DecidableEq, Repr

/-- A run-time estimate of a queue engine (R287), most recently used first. -/
structure Estimate where
  ctx : Nat
  entry : W64
  cycles : Nat
deriving DecidableEq, Repr

/-- A queue engine (R78, R287), with the number of its last exchange (R80). -/
structure Engine where
  ests : List Estimate
  lastBal : Nat
deriving DecidableEq, Repr

/-- A page under fault (R127, R283): who met it, whether its record stands in the fault queue. -/
structure UnderFault where
  page : Nat
  /-- The faulting virtual address of the record. -/
  va : Nat
  kind : Nat
  agent : Nat
  view : Nat
  source : Nat
  recorded : Bool
deriving DecidableEq, Repr

/-- A translation kept by a translation cache (R281). -/
structure TlbEntry where
  page : Nat
  size : Nat
  pa : Nat
  write : Bool
  exec : Bool
  type : Nat
  prot : Bool
  wshared : Bool
  dirty : Bool
deriving DecidableEq, Repr

/-- An operation of an outbox with the values of its operands at issue (R155). -/
inductive OutOp where
  | cstart (img arg comp : W64)
  | renq (rec : W64) (station : Nat) (ack : Option W64)
  | wenq (pay target rec : W64) (len station : Nat) (ack : Option W64)
  | spawn (rec : W64)
  | arm (ctr t act : W64)
  | disarm (id : Nat)
  | cinc (ctr : W64) (d : W32)
  | fwrite (f x : W64)
  | store (va : W64) (data : List Byte)
  | red (op : AtomOp) (w64 : Bool) (va x : W64)
deriving DecidableEq, Repr

/-- The state of a view (R144). -/
inductive ViewState where
  | free | live | parked | merged | dead
deriving DecidableEq, Repr

/-- A view (R141, R144, R151): the bytes it has written by physical key, and the lines whose cells it holds. -/
structure View where
  state : ViewState
  parent : Nat
  depth : Nat
  rival : Nat
  nriv : Nat
  outbox : List OutOp
  bytes : Tab Byte
  lines : List Nat
  /-- The virtual pages through which the view has written (R127). -/
  pages : List Nat
  /-- Granules of protected pages that the view has written (R307). -/
  prots : List Nat
  reserved : Nat
  /-- The cells of a dead view's outbox, which the sweep frees (R157, R165). -/
  outCells : Nat
deriving DecidableEq, Repr

/-- One rival of a world (R146, R159, R162). -/
structure Rival where
  team : Nat
  view : Nat
  verdict : Option W32
  parked : Bool
  abstained : Bool
  chosen : Option W32
deriving DecidableEq, Repr

/-- A world (R146): its rivals, whether its join has resumed, and the enclosing rival index and world. -/
structure World where
  rivals : List Rival
  resumed : Bool
  outerRival : Nat
  outerWorld : Option Nat
deriving DecidableEq, Repr

/-- An armed trigger (R226). -/
structure Trigger where
  ctr : W64
  key : Nat
  threshold : W64
  img : W64
  arg : W64
  comp : W64
  resvd : W64
  order : Nat
deriving DecidableEq, Repr

/-- A request to start a collective (R220, R223). -/
structure StartReq where
  ctx : Nat
  img : W64
  arg : W64
  comp : W64
  thread : Nat
  source : Nat
  fired : Bool
  /-- The action of a trigger failed the checks that its firing makes (R226). -/
  bad : Bool
  /-- A firing that a spent budget holds: the later firings of its context stay behind it (R91, R228). -/
  spent : Bool
  /-- COLL of the argument header, once it has been read (R221). -/
  coll : BitVec 16
  /-- The place of a firing in the order of firing (R228, R229). -/
  order : Nat
deriving DecidableEq, Repr

/-- A walk of a future's deferred-read list in progress (R84). -/
structure FWalk where
  next : W64
  value : W64
  die : Nat
  core : Nat
deriving DecidableEq, Repr

/-- The outbox of a view committed into the root, while it runs (R158): the view, the winner, and the die that runs it. -/
structure OutRun where
  view : Nat
  team : Nat
  die : Nat
  /-- Its last entry has run, so that the view's id may serve another view by now (R158, R165). -/
  finished : Bool
deriving DecidableEq, Repr

/-- An arrival held in the caravanserai (R235, R236). -/
structure Held where
  proc : Nat
  packet : Packet
  wp : W32
  sess : Option (Nat × Nat)
  retained : Option Nat
deriving DecidableEq, Repr

/-- A packet on its way inside the module from a processor, and the retained send that it answers (R234, R241). -/
structure Fwd where
  proc : Nat
  packet : Packet
  retained : Option Nat
deriving DecidableEq, Repr

/-- A remote enqueue of a session: with its data read and waiting to leave, or sent, in a slot, and awaiting its answer (R87, R89,
R444). -/
structure RemoteOut where
  serial : Nat
  ctx : Nat
  core : Nat
  ack : Option W64
  msg : Enqueue
  sent : Bool
  /-- The thread that waits until it has left (R444). -/
  thread : Option Nat
deriving DecidableEq, Repr

/-- A remote enqueue at its target, whose payload waits for its side-log entries (R88); the ack word of one that is looped back
(R445). -/
structure RemoteIn where
  serial : Nat
  msg : Enqueue
  ack : Option W64
  core : Nat
  /-- The parts of the payload that wait for room in the side log or for the HBM budget (R91, R128). -/
  parts : List (Nat × List Byte)
deriving DecidableEq, Repr

/-- A store of a unit that waits for room in a side log or for the HBM budget (R91, R128): the core, the address and the bytes. -/
structure Post where
  core : Nat
  va : Nat
  data : List Byte
deriving DecidableEq, Repr

/-- A context: its descriptor words (R302) and what the device keeps for it. -/
structure Ctx where
  swout : Bool
  prot : Bool
  part : BitVec 4
  ptroot : W64
  pasid : W64
  tvec : W64
  deleg : W64
  faultq : W64
  errq : W64
  preempt : W64
  wdog : W64
  save : W64
  savesz : W64
  savestatBytes : W32
  savestatOver : W32
  stkbase : W64
  stack : W64
  vpbase : W64
  vpsize : W64
  station : W64
  carav : W64
  caravsz : W64
  resid : W64
  htf : W64
  budgetIssue : W32
  budgetHbm : W32
  budgetCopy : W32
  budgetFabric : W32
  bal : W64
  state : BitVec 3
  cause : Byte
  errdrop : Byte
  kslot : BitVec 6
  /-- The draw of its AES-XTS-256 key (R307). -/
  xtsKey : Nat
  /-- The budgets in force since the last period, and what each charging point has spent (R91). -/
  shares : List Nat
  spent : Tab Nat
  faultSeq : Nat
  errSeq : Nat
  under : List UnderFault
  tlb : List TlbEntry
  views : Tab View
  worlds : Tab World
  trigs : Tab Trigger
  deferred : List StartReq
  starts : List StartReq
  walks : List FWalk
  runs : List OutRun
  sweep : List Nat
  held : List Held
  /-- Packets that wait inside the module: to be forwarded or looped back, while a page faults or room is wanting (R232, R234). -/
  fwds : List Fwd
  /-- Remote enqueues that the context has looped back to itself (R445). -/
  loops : List RemoteIn
  /-- Stores that units have still to make for the context (R89, R128). -/
  posts : List Post
deriving DecidableEq, Repr

/-- A work queue (R70). -/
structure Wq where
  base : W64
  en : Bool
  log2size : BitVec 5
  prio : BitVec 3
  err : Bool
  ctx : BitVec 16
  head : W32
  tail : W32
  held : Bool
deriving DecidableEq, Repr

/-- Power states (R312). -/
inductive Power where
  | active | idle | selfref | off
deriving DecidableEq, Repr

/-- A context awaiting scrub (R308, R309): its key slot, the phase, the granules that the controllers have still to clear, by key
div 4096, and those as the journal lists them. -/
structure Scrub where
  ctx : Nat
  slot : Nat
  phase : Nat
  /-- The context's teardown has come to its step 3 (R295, R308). -/
  ended : Bool
  granules : List Nat
  journal : List Nat
deriving DecidableEq, Repr

/-- The hub and the board registers it serves (R299, R312). -/
structure Hub where
  ready : Bool
  regerr : Bool
  parterr : Bool
  fwerr : Bool
  throttle : Bool
  attbusy : Bool
  owner : BitVec 2
  held : Bool
  denied : Byte
  nonce : W64
  claims : Tab Byte
  partcfg : W64
  xinvBusy : Bool
  xinv : List (Nat × Option Nat)
  keys : Tab Byte
  agentsel : Byte
  agentlock : Bool
  attNonce : Tab Byte
  report : Tab Byte
  staging : Tab Byte
  /-- The firmware images in force, each with its data, signature and security version, and the fused minimum version (R310). -/
  firmware : List (List Byte × List Byte × Nat)
  minVersion : Nat
  pendingVectors : List Nat
  maskedVectors : List Nat
  linkDown : List Nat
  power : Power
  pcap : BitVec 16
  temps : Tab Int
  watts : Int
  kslots : Tab Nat
  tags : Tab Nat
  /-- The 16-byte blocks of memory that are held enciphered, by key div 16, with the draw of their key (R16). -/
  enciphered : Tab Nat
  scrubs : List Scrub
  periodStart : Nat
deriving DecidableEq, Repr

/-- A resident Akpor image (R218). -/
structure Image where
  ctx : Nat
  addr : W64
  gen : W32
  len : Nat
  code : List W64
  started : Nat
  loaded : Bool
deriving DecidableEq, Repr

/-- A posted receive (R398); receives of a processor are older in rising order of their serial. -/
structure Recv where
  serial : Nat
  coll : BitVec 16
  bucket : BitVec 16
  step : Nat
  src : BitVec 16
  deliver : Bool
  sig : Option W64
  buf : W64
  count : Nat
  code : PayCode
  taken : List (Nat × Nat)
  met : Bool
  openR : Bool
  deadline : Option Nat
  /-- It has taken a deliver-and-signal packet (R232). -/
  signals : Bool
deriving DecidableEq, Repr

/-- A key that stays closed on a processor (R240). -/
structure ClosedKey where
  ctx : Nat
  coll : BitVec 16
  bucket : BitVec 16
  step : Nat
  src : BitVec 16
deriving DecidableEq, Repr

/-- A collective packet that its sender keeps until it is answered (R241). -/
structure Retained where
  serial : Nat
  slot : Nat
  sess : Option (Nat × Nat)
  residual : W64
  code : PayCode
  scale : Byte
  chunk : Nat
  payload : List Byte
  /-- Its fold has begun, and whether it sets UNCONFIRMED (R241). -/
  folding : Option Bool
deriving DecidableEq, Repr

/-- A residual object that a collective holds (R253). -/
structure HeldObj where
  id : Nat
  addr : W64
  nelem : Nat
deriving DecidableEq, Repr

/-- A collective slot that runs a program (R217, R222, R383). -/
structure FSlot where
  ctx : Nat
  regs : Tab W64
  pc : Nat
  cc : BitVec 2
  deadline : Nat
  quorum : Bool
  histOn : Bool
  scale : Byte
  contrib : W32
  omits : W32
  flags : BitVec 16
  hist : Tab W32
  bucket : BitVec 16
  step : BitVec 4
  code : PayCode
  wps : Tab W32
  nwp : Nat
  resid : Option (Nat × Nat)
  objs : List HeldObj
  recvs : List Recv
  coll : BitVec 16
  station : BitVec 16
  arg : W64
  comp : W64
  image : Nat
  /-- Blocks, batches or packets that the current instruction has done (R382). -/
  prog : Nat
  wait : SlotWait
  /-- The reason last waited for at the current instruction (R292). -/
  waited : SlotWait
  waitCount : Nat
  ending : Option Nat
deriving DecidableEq, Repr

/-- A fabric processor (R217). -/
structure Fab where
  /-- The slot at which the round-robin goes on (R217). -/
  turn : Nat
  images : Tab Image
  queue : List StartReq
  slots : Tab FSlot
  closed : List ClosedKey
  retained : List Retained
  drop : W64
  refuse : W64
  late : W64
  fold : W64
deriving DecidableEq, Repr

/-- A handshake offer without answer (R246). -/
structure Offer where
  epoch : Nat
  nonce : List Byte
  xpub : List Byte
  draw : Nat
  retries : Nat
  sentAt : Nat
deriving DecidableEq, Repr

/-- A session key under its epoch (R245, R247). -/
structure SessKey where
  epoch : Nat
  material : List Byte
  offerer : Bool
  sent : Nat
  since : Nat
deriving DecidableEq, Repr

/-- What a session sends under a key: a collective packet by its transport number, the answer to one and whether it is LATE, a remote enqueue
by the serial of its slot, or the answer to one with its code (R87, R89, R243, R247). -/
inductive Outgoing where
  | packet (serial : Nat) (pkt : Packet)
  | answer (late : Bool) (pkt : Packet)
  | enqueue (serial : Nat) (msg : Enqueue)
  | enqueueAnswer (psn code : Nat)
deriving DecidableEq, Repr

/-- A session entry and its key slot (R306, R245 to R248). -/
structure Session where
  en : Bool
  v6 : Bool
  failed : Bool
  ctx : BitVec 16
  port : BitVec 16
  peer : Tab Byte
  idkey : Tab Byte
  offer : Option Offer
  key : Option SessKey
  next : Option SessKey
  old : Option SessKey
  /-- The cycle in which the first packet under the newest key arrived, and whether the current key is no longer accepted because
  the peer has gone on to the next (R247). -/
  firstNew : Option Nat
  stale : Bool
  outs : List RemoteOut
  ins : List RemoteIn
  unacked : List (Nat × Packet)
  /-- What waits for the session's first key, for a port whose link is up, or, an answer, for the fabric budget (R91, R244, R247). -/
  pend : List Outgoing
  /-- The transport numbers of the packets that have been taken in, with the answer once it has been given: whether it was LATE (R243). -/
  seen : Tab (Option Bool)
  /-- The transport number of the next enqueue that is sent, and of the next one that is due from the peer (R243). -/
  enqNext : Nat
  enqDue : Nat
  /-- Enqueues that have arrived ahead of an earlier one, by transport number; and the codes with which enqueues have been answered
  (R243). -/
  early : Tab Enqueue
  enqSeen : Tab Nat
deriving DecidableEq, Repr

/-- What the module has sent out (R230, R246, R247, R298, R312). -/
inductive Frame where
  /-- What a session sends under the key of an epoch, with its GCM nonce, on a port (R244, R247). -/
  | sealed (fd slot : Nat) (epoch : Nat) (nonce : List Byte) (port : Nat) (body : Outgoing)
  /-- A handshake datagram, on a port (R246, R485). -/
  | handshake (fd slot port : Nat) (dgram : List Byte)
  | interrupt (agent vector : Nat)
  | thermalTrip
  | registerData (agent off : Nat) (data : W64)
  | memoryData (lead pa : Nat) (data : List Byte)
  /-- The byte of a board register, by its I3C address (R312). -/
  | boardData (addr : Nat) (data : Byte)
deriving DecidableEq, Repr

/-- What one instruction has done to the issuing thread. -/
inductive Issued where
  | done | trapped | waiting | gone
deriving DecidableEq, Repr

/-- The instruction being executed: the model's own bookkeeping of an issue slot. -/
structure Issue where
  /-- The current thread, as team * 1024 + tid. -/
  cur : Nat
  /-- The first word's address, the word's own address and the next address. -/
  first : W64
  word : W64
  npc : W64
  /-- The address after the last word of the chain. -/
  after : W64
  inChain : Bool
  switch : Bool
  /-- The thread as it stood before the chain (R320). -/
  snap : Option Thread
  /-- The scratchpad of its team as it stood before the chain (R320). -/
  spSnap : Option (Tab Byte)
  out : Issued
  /-- The trap that the instruction has raised: its cause, address and detail (R275). -/
  raised : Option (Byte × W64 × W32)
  /-- The current fabric processor and slot, and the index of the next Akpor instruction. -/
  proc : Nat
  slot : Nat
  fnext : Nat
  /-- The threads of the bundle that issues (R39), and its number, no other bundle's. -/
  bundle : List Nat
  bundleId : Nat
  /-- The charging points that have accepted a part of the request under way, which completes (R91). -/
  joint : List Nat
deriving DecidableEq, Repr

/-- What moves next: an agent of the module, an event, or an input from outside. -/
inductive Turn where
  /-- A core forms a bundle and issues it. -/
  | core (k : Nat)
  /-- One slot of a fabric processor issues. -/
  | fabric (p : Nat)
  /-- An event of the opcode table. -/
  | event (i : Instr)
  /-- Cycles pass. -/
  | cycles (n : Nat)
  /-- A translation cache drops its entries of a context (R281). -/
  | dropTlb (ctx : Nat)
  /-- A core's instruction cache drops a word (R322). -/
  | dropCode (core key : Nat)
  /-- A core's L1 writes a team's dirty private lines back and keeps them clean (R100). -/
  | writeBack (team : Nat)
  /-- A team that a balancing exchange has pushed arrives (R80). -/
  | arrival (team : Nat)
  /-- A debugger keeps threads at breakpoints stopped, or no longer does (R57). -/
  | debugger (on : Bool)
  /-- A debugger resumes one stopped thread, and its team if that is halted (R57, R286). -/
  | resume (thread : Nat)
  /-- A register read by an agent (R299, R484). -/
  | registerRead (agent off size : Nat)
  /-- The board reads a byte of its registers (R312). -/
  | boardRead (addr : Nat)
  /-- A host agent's CXL link goes down or up (R77). -/
  | hostLink (agent : Nat) (up : Bool)
  /-- An agent masks or unmasks an interrupt vector, which takes effect for the owner (R298). -/
  | mask (agent vector : Nat) (on : Bool)
  /-- The board writes AGENTSEL or PCAP (R312). -/
  | agentsel (x : Byte)
  | pcap (x : BitVec 16)
deriving DecidableEq, Repr

/-- The whole machine. -/
structure State where
  cycle : Nat
  mem : Memory
  threads : Tab Thread
  groups : Tab Group
  teams : Tab Team
  cores : Tab Core
  engines : Tab Engine
  ctxs : Tab Ctx
  wqs : Tab Wq
  hub : Hub
  fabs : Tab Fab
  sessions : Tab Session
  portsDown : List Nat
  wire : List Frame
  turns : List Turn
  free : Nat
  serial : Nat
  iss : Issue
  dbg : Bool
deriving DecidableEq, Repr

/-- Why the machine stops. -/
inductive Fault where
  /-- Raised by a Gorbex instruction that is executed while no live thread stands in the issue position. No step does this,
  because a core issues only live threads; safe. -/
  | noIssuer
  /-- Raised by an Akpor instruction that is executed while no slot runs a collective in the issue position. No step does
  this, because a processor issues only running slots; safe. -/
  | noSlot
deriving DecidableEq, Repr

/-- Why an instruction has no meaning. -/
inductive Refusal where
  /-- Raised by an arm of `exec` for an instruction that is not modelled yet, by its mnemonic; safe. -/
  | notModelled (mnemonic : String)
deriving DecidableEq, Repr

/-- A thread at the start of its team, before its entry point and limits are set (R33, R276). -/
def Thread.start : Thread where
  live := true
  pc := 0
  regs := []
  preds := 0
  consts := []
  limit := 8
  stklim := 0
  depth := 0
  mode := 0
  tcause := 0
  tepc := 0
  taddr := 0
  tinfo := 0
  udvec := 0
  udmask := 0
  ucause := 0
  uepc := 0
  uaddr := 0
  uinfo := 0
  pending := []
  wait := .ready
  waited := .ready
  waitCount := 0
  readyAt := 0
  arrival := none
  trapDue := none
  wc := []
  barAt := none
  yieldUntil := 0
  yieldSet := []
  marked := false
  claimN := 0
  left := false
  chained := false

/-- No thread: what the thread table reads as where no thread is resident. -/
def Thread.absent : Thread := { Thread.start with live := false }

/-- A group that is nowhere. -/
def Group.absent : Group := ⟨0, 8, none, [], none, []⟩

/-- The record whose 64 bytes are zero but for the smallest register count. -/
def TaskRecord.zero : TaskRecord where
  entry := 0
  args := 0
  x := 0
  y := 0
  z := 0
  succ := 0
  groups := 1
  width := 16
  regs := 8
  twin := false
  idem := false
  prio := 0
  scratch := 1
  roles := 0
  ex := 0
  ey := 0
  ez := 0
  ctxtag := 0
  seq := 0
  origin := 0

/-- A team as its record is accepted (R33, R78). -/
def Team.queued : Team where
  ctx := 0
  record := .zero
  tx := 0
  ty := 0
  tz := 0
  die := 0
  core := 0
  slot := none
  phase := .waiting
  view := 0
  rival := 0
  world := none
  sp := []
  spPlace := 0
  spPlaceHi := 0
  resv := []
  dirty := []
  startedAt := 0
  firstQueued := 0
  firstInLine := none
  blocking := false
  transit := false
  external := false
  clone := false
  copies := 0
  killed := false
  image := none
  halted := false
  drainUntil := 0
  drain := false
  argsDue := false

/-- A core after reset (R17, R124). -/
def Core.reset : Core := ⟨[], [], [], [], [], [], 0, 0, 0, [], 0, []⟩

/-- A queue engine after reset (R287). -/
def Engine.reset : Engine := ⟨[], 0⟩

/-- The root view (R141, R144). -/
def View.root : View := ⟨.live, 0, 0, 0, 0, [], [], [], [], [], 0, 0⟩

/-- A view id that is free (R144). -/
def View.free : View := ⟨.free, 0, 0, 0, 0, [], [], [], [], [], 0, 0⟩

/-- A context descriptor after reset, with its status (R90, R96, R142, R234, R235, R251, R271, R282, R303). -/
def Ctx.reset : Ctx where
  swout := false
  prot := false
  part := 0
  ptroot := 0
  pasid := 0
  tvec := 0
  deleg := 0
  faultq := 0
  errq := 0
  preempt := 20
  wdog := 0
  save := 0
  savesz := 0
  savestatBytes := 0
  savestatOver := 0
  stkbase := 0
  stack := 0
  vpbase := 0
  vpsize := 0
  station := 0
  carav := 0
  caravsz := 0
  resid := 0
  htf := 0
  budgetIssue := 0xFFFFFFFF
  budgetHbm := 0xFFFFFFFF
  budgetCopy := 0xFFFFFFFF
  budgetFabric := 0xFFFFFFFF
  bal := 0xFFFFFFFF00000010
  state := 0
  cause := 0
  errdrop := 0
  kslot := 0
  xtsKey := 0
  shares := [0xFFFFFFFF, 0xFFFFFFFF, 0xFFFFFFFF, 0xFFFFFFFF]
  spent := []
  faultSeq := 0
  errSeq := 0
  under := []
  tlb := []
  views := []
  worlds := []
  trigs := []
  deferred := []
  starts := []
  walks := []
  runs := []
  sweep := []
  held := []
  fwds := []
  loops := []
  posts := []

/-- A work queue after reset (R70). -/
def Wq.reset : Wq := ⟨0, false, 0, 0, false, 0, 0, 0, false⟩

/-- HUB_PARTCFG with LEADd equal to d (R301). -/
def partcfgReset : W64 := 0xFEDCBA9876543210

/-- The hub after reset (R74, R299, R300, R301, R309, R312). -/
def Hub.reset : Hub where
  ready := false
  regerr := false
  parterr := false
  fwerr := false
  throttle := false
  attbusy := false
  owner := 0
  held := false
  denied := 0
  nonce := Config.randomWord 0
  claims := []
  partcfg := partcfgReset
  xinvBusy := false
  xinv := []
  keys := []
  agentsel := 0
  agentlock := false
  attNonce := []
  report := []
  staging := []
  firmware := Config.factoryImages
  minVersion := 0
  pendingVectors := []
  maskedVectors := []
  linkDown := []
  power := .active
  pcap := 10000
  temps := []
  watts := 0
  kslots := []
  tags := []
  enciphered := []
  scrubs := []
  periodStart := 0

/-- A fabric processor after reset (R217, R238). -/
def Fab.reset : Fab := ⟨0, [], [], [], [], [], 0, 0, 0, 0⟩

/-- A session slot after reset (R306). -/
def Session.reset : Session :=
  ⟨false, false, false, 0, 0, [], [], none, none, none, none, none, false, [], [], [], [], [], 0, 0, [], []⟩

/-- A collective slot as a start takes it (R222, R383). -/
def FSlot.start : FSlot where
  ctx := 0
  regs := []
  pc := 0
  cc := 0
  deadline := 0
  quorum := false
  histOn := false
  scale := 127
  contrib := 0
  omits := 0
  flags := 0
  hist := []
  bucket := 0
  step := 0
  code := .fp32
  wps := []
  nwp := 0
  resid := none
  objs := []
  recvs := []
  coll := 0
  station := 0
  arg := 0
  comp := 0
  image := 0
  prog := 0
  wait := .ready
  waited := .ready
  waitCount := 0
  ending := none

/-- No instruction in the issue position. -/
def Issue.none : Issue := ⟨0, 0, 0, 0, 0, false, false, Option.none, Option.none, .done, Option.none, 0, 0, 0, [], 0, []⟩

/-- The machine right after a cold reset, before the boot ROM has checked the firmware (R299 to R312). -/
def State.reset : State where
  cycle := 0
  mem := []
  threads := []
  groups := []
  teams := []
  cores := []
  engines := []
  ctxs := []
  wqs := []
  hub := .reset
  fabs := []
  sessions := []
  portsDown := []
  wire := []
  turns := []
  free := 1
  serial := 0
  iss := .none
  dbg := false

end Sys2Proof.Machine
end

