-- ==== Sys2Proof/Machine/Ops.lean ====
section
/-! DEFINITION. The named operations over the state: its tables, registers, memory, translation, views, the side log, fault
and error records, and taking an exception and returning from one. -/

namespace Sys2Proof.Machine

/-! ## Memory -/

namespace Memory

/-- The byte at a key; zero where none is listed. -/
def read : Memory → Nat → Byte
  | [], _ => 0
  | (k', b) :: m, k => if k' = k then b else read m k

/-- Drops the entry of a key. -/
def remove : Memory → Nat → Memory
  | [], _ => []
  | (k', b) :: m, k => if k' = k then remove m k else (k', b) :: remove m k

/-- Puts a byte at its place by rising key. -/
def insert : Memory → Nat → Byte → Memory
  | [], k, b => [(k, b)]
  | (k', b') :: m, k, b => if k' < k then (k', b') :: insert m k b else (k, b) :: (k', b') :: m

/-- Writes a byte: a zero leaves no entry. -/
def write (m : Memory) (k : Nat) (b : Byte) : Memory :=
  if b = 0 then remove m k else insert (remove m k) k b

/-- Writes bytes at rising keys. -/
def writes (m : Memory) : Nat → List Byte → Memory
  | _, [] => m
  | k, b :: bs => writes (m.write k b) (k + 1) bs

/-- Reads n bytes from rising keys. -/
def reads (m : Memory) (k n : Nat) : List Byte := (span k n).map m.read

end Memory

namespace State

/-! ## Tables -/

def thread (s : State) (i : Nat) : Thread := s.threads.get i .absent
def group (s : State) (g : Nat) : Group := s.groups.get g .absent
def team (s : State) (t : Nat) : Team := s.teams.get t .queued
def core (s : State) (k : Nat) : Core := s.cores.get k .reset
def ctx (s : State) (c : Nat) : Ctx := s.ctxs.get c .reset
def wq (s : State) (q : Nat) : Wq := s.wqs.get q .reset
def fab (s : State) (p : Nat) : Fab := s.fabs.get p .reset
def session (s : State) (fd slot : Nat) : Session := s.sessions.get (fd * 8192 + slot) .reset
def engine (s : State) (d : Nat) : Engine := s.engines.get d .reset

def setThread (s : State) (i : Nat) (t : Thread) : State := { s with threads := s.threads.set i t }
def setGroup (s : State) (g : Nat) (x : Group) : State := { s with groups := s.groups.set g x }
def setTeam (s : State) (t : Nat) (x : Team) : State := { s with teams := s.teams.set t x }
def setCore (s : State) (k : Nat) (x : Core) : State := { s with cores := s.cores.set k x }
def setCtx (s : State) (c : Nat) (x : Ctx) : State := { s with ctxs := s.ctxs.set c x }
def setWq (s : State) (q : Nat) (x : Wq) : State := { s with wqs := s.wqs.set q x }
def setFab (s : State) (p : Nat) (x : Fab) : State := { s with fabs := s.fabs.set p x }
def setSession (s : State) (fd slot : Nat) (x : Session) : State :=
  { s with sessions := s.sessions.set (fd * 8192 + slot) x }
def setEngine (s : State) (d : Nat) (x : Engine) : State := { s with engines := s.engines.set d x }

def onThread (s : State) (i : Nat) (f : Thread → Thread) : State := s.setThread i (f (s.thread i))
def onGroup (s : State) (g : Nat) (f : Group → Group) : State := s.setGroup g (f (s.group g))
def onTeam (s : State) (t : Nat) (f : Team → Team) : State := s.setTeam t (f (s.team t))
def onCore (s : State) (k : Nat) (f : Core → Core) : State := s.setCore k (f (s.core k))
def onCtx (s : State) (c : Nat) (f : Ctx → Ctx) : State := s.setCtx c (f (s.ctx c))
def onFab (s : State) (p : Nat) (f : Fab → Fab) : State := s.setFab p (f (s.fab p))
def onSession (s : State) (fd slot : Nat) (f : Session → Session) : State :=
  s.setSession fd slot (f (s.session fd slot))

/-- Sends something to the outside. -/
def emit (s : State) (f : Frame) : State := { s with wire := s.wire ++ [f] }

/-- The next internal serial number. -/
def bump (s : State) : State := { s with serial := s.serial + 1 }

/-- Moves on to the next free value. -/
def draw (s : State) : State := { s with free := s.free + 1 }

/-! ## The current thread (R31, R92) -/

/-- The thread in the issue position. -/
def thr (s : State) : Thread := s.thread s.iss.cur

/-- The thread whose registers the instruction reads: as it stood before the chain (R320). -/
def opnd (s : State) : Thread := s.iss.snap.getD s.thr

def onThr (s : State) (f : Thread → Thread) : State := s.onThread s.iss.cur f

/-- The team, the thread's index in it, its group and its lane. -/
def teamOf (i : Nat) : Nat := i / 1024
def tidOf (i : Nat) : Nat := i % 1024
def widthOf (s : State) (i : Nat) : Nat := (s.team (teamOf i)).record.width
def gidxOf (s : State) (i : Nat) : Nat := tidOf i / max 1 (s.widthOf i)
def laneOf (s : State) (i : Nat) : Nat := tidOf i % max 1 (s.widthOf i)
def groupOf (s : State) (i : Nat) : Nat := teamOf i * 16 + s.gidxOf i
def coreOf (s : State) (i : Nat) : Nat := (s.group (s.groupOf i)).core
def ctxOf (s : State) (i : Nat) : Nat := (s.team (teamOf i)).ctx
def viewOf (s : State) (i : Nat) : Nat := (s.team (teamOf i)).view
def curTeam (s : State) : Nat := teamOf s.iss.cur
def curCtx (s : State) : Nat := s.ctxOf s.iss.cur
def curCore (s : State) : Nat := s.coreOf s.iss.cur
def curView (s : State) : Nat := s.viewOf s.iss.cur
def curDie (s : State) : Nat := s.curCore / 96

/-- A register of the current thread. -/
def v (s : State) (r : Reg) : W32 := s.opnd.regs.get r.toNat 0
/-- A register by number. -/
def vn (s : State) (n : Nat) : W32 := s.opnd.regs.get n 0
/-- A pair of the current thread. -/
def vd (s : State) (r : Reg) : W64 := pairOf (s.v r) (s.vn (r.toNat + 1))
/-- A pair by number. -/
def vdn (s : State) (n : Nat) : W64 := pairOf (s.vn n) (s.vn (n + 1))
/-- A predicate of the current thread. -/
def p (s : State) (n : Nat) : Bool := s.opnd.preds.getLsbD n

end State

/-- Writes a register of a thread. -/
def Thread.setReg (t : Thread) (n : Nat) (x : W32) : Thread := { t with regs := t.regs.set n x }

/-- Writes a predicate of a thread. -/
def Thread.setPred (t : Thread) (n : Nat) (b : Bool) : Thread :=
  { t with preds := if b then t.preds ||| BitVec.twoPow 128 n else t.preds &&& ~~~BitVec.twoPow 128 n }

/-- Writes a list of registers. -/
def Thread.setRegs (t : Thread) (ws : List (Nat × W32)) : Thread := ws.foldl (fun t w => t.setReg w.1 w.2) t

/-- Writes a list of predicates. -/
def Thread.setPreds (t : Thread) (ws : List (Nat × Bool)) : Thread := ws.foldl (fun t w => t.setPred w.1 w.2) t

/-- Writes a reply (R60). -/
def Thread.reply (t : Thread) (r : Reply) : Thread := (t.setRegs r.regs).setPreds r.preds

/-- Whether a register is pending (R60). -/
def Thread.regPending (t : Thread) (n : Nat) : Bool := t.pending.any fun r => r.regs.any fun w => w.1 == n

/-- Whether a predicate is pending (R60). -/
def Thread.predPending (t : Thread) (n : Nat) : Bool := t.pending.any fun r => r.preds.any fun w => w.1 == n

namespace State

/-- The word after an address (R318). -/
def nextPc (pc : W64) : W64 := (pc + 4) &&& 0x1FFFFFFFFFFFFFF

/-- Writes a register of the current thread. -/
def setV (s : State) (r : Reg) (x : W32) : State := s.onThr fun t => t.setReg r.toNat x
/-- Writes a pair of the current thread. -/
def setVd (s : State) (r : Reg) (x : W64) : State :=
  s.onThr fun t => (t.setReg r.toNat (loHalf x)).setReg (r.toNat + 1) (hiHalf x)
/-- Writes a predicate of the current thread. -/
def setP (s : State) (n : Nat) (b : Bool) : State := s.onThr fun t => t.setPred n b
/-- Files a variable-latency result of the current thread (R59, R60). -/
def later (s : State) (regs : List (Nat × W32)) (preds : List (Nat × Bool)) : State :=
  s.onThr fun t => { t with pending := t.pending ++ [⟨regs, preds⟩] }
/-- Files a variable-latency register. -/
def laterV (s : State) (r : Reg) (x : W32) : State := s.later [(r.toNat, x)] []
/-- Files a variable-latency pair. -/
def laterVd (s : State) (r : Reg) (x : W64) : State := s.later [(r.toNat, loHalf x), (r.toNat + 1, hiHalf x)] []

/-! ## Partitions and physical memory (R21, R22, R301, R307) -/

/-- The lead die of a die's partition. -/
def leadOf (s : State) (d : Nat) : Nat := bitsAt s.hub.partcfg.toNat (4 * d) 4

/-- The dies of the partition with a lead die, rising. -/
def diesOf (s : State) (lead : Nat) : List Nat := (span 0 16).filter fun d => s.leadOf d == lead

/-- The dies of a context's partition. -/
def ctxDies (s : State) (c : Nat) : List Nat := s.diesOf (s.ctx c).part.toNat

end State

/-- The memory key of a partition address (R21). -/
def physKey (dies : List Nat) (pa : Nat) : Nat :=
  let g := pa / 4096
  dies.getD (g % max 1 dies.length) 0 * 2 ^ 36 + g / max 1 dies.length * 4096 + pa % 4096

/-- The size of a partition, and the start of its reserved range (R21, R22). -/
def partSize (dies : List Nat) : Nat := dies.length * 2 ^ 36
def reservedStart (dies : List Nat) : Nat := dies.length * (2 ^ 36 - 2 ^ 25)

namespace State

/-- Whether an agent may see the granule of a key: an untagged granule, or one tagged with its own live slot (R307). -/
def granuleOpen (s : State) (who : Option Nat) (key : Nat) : Bool :=
  match s.hub.tags.find? (key / 4096) with
  | none => true
  | some slot =>
    match s.hub.kslots.find? (key / 2 ^ 36 * 64 + slot) with
    | some c => who == some c && (s.ctx c).state != 5
    | none => false

/-- The number of the 4 KiB page of a key among the pages of its partition (R16, R21). -/
def pageNumber (s : State) (key : Nat) : Nat :=
  let ds := s.diesOf (s.leadOf (key / 2 ^ 36))
  key % 2 ^ 36 / 4096 * ds.length + ds.idxOf (key / 2 ^ 36)

/-- The 64-byte AES-XTS-256 key of a draw (R16, R307). -/
def xtsKey (d : Nat) : List Nat := (Crypto.fit 32 (Config.randomBytes d) ++ Crypto.fit 32 (Config.randomBytes (d + 1))).map BitVec.toNat

/-- The 16 bytes of a block as they pass a controller that uses a key, or none (R16). Memory holds an enciphered block by its clear
bytes and the draw of its key: what another view of it gives is computed from them. -/
def blockAs (s : State) (cipher : Option Nat) (b : Nat) : List Byte :=
  let page := s.pageNumber (16 * b)
  let j := b % 256
  let clear := (s.mem.reads (16 * b) 16).map BitVec.toNat
  let raw := match s.hub.enciphered.find? b with
    | none => clear
    | some d => Aes.xtsEncrypt (xtsKey d) page j clear
  (match cipher with
    | none => raw
    | some d => Aes.xtsDecrypt (xtsKey d) page j raw).map (BitVec.ofNat 8)

/-- The byte at a key as it passes a controller that uses a key, or none (R16). -/
def byteAs (s : State) (cipher : Option Nat) (key : Nat) : Byte :=
  if s.hub.enciphered.find? (key / 16) = cipher then s.mem.read key else (s.blockAs cipher (key / 16)).getD (key % 16) 0

/-- Makes a block one that is enciphered under a key, or in the clear, without a change of the bits in the stack. -/
def recastBlock (s : State) (cipher : Option Nat) (b : Nat) : State :=
  if s.hub.enciphered.find? b = cipher then s
  else
    let h := s.hub
    { s with mem := s.mem.writes (16 * b) (s.blockAs cipher b),
             hub := { h with enciphered := match cipher with
               | none => h.enciphered.erase b
               | some d => h.enciphered.set b d } }

/-- Makes the blocks of a span of n bytes ones that are enciphered under a key, or in the clear. -/
def recastSpan (s : State) (cipher : Option Nat) (key n : Nat) : State :=
  (span (key / 16) ((key + n + 15) / 16 - key / 16)).foldl (fun s b => s.recastBlock cipher b) s

/-- Reads bytes of one granule as an agent, with the key that the access uses (R16, R307). -/
def readAs (s : State) (who cipher : Option Nat) (key n : Nat) : List Byte :=
  if s.granuleOpen who key then (span key n).map (s.byteAs cipher) else (span 0 n).map fun _ => 0

/-- Writes bytes of one granule as an agent, with the key that the access uses (R16, R307). -/
def writeAs (s : State) (who cipher : Option Nat) (key : Nat) (bs : List Byte) : State :=
  if s.granuleOpen who key then
    let s := s.recastSpan cipher key bs.length
    { s with mem := s.mem.writes key bs }
  else s

/-- Reads and writes bytes in the clear, as an agent whose access goes through no protected page (R16). -/
def physRead (s : State) (who : Option Nat) (key n : Nat) : List Byte := s.readAs who none key n
def physWrite (s : State) (who : Option Nat) (key : Nat) (bs : List Byte) : State := s.writeAs who none key bs

/-- The key that an access of a context to a page uses: its own on a protected page, else none (R16). DESIGN CHOICE (log 46): in a
context that is not protected, and so has no key, the page's protected bit has no effect. -/
def cipherOf (s : State) (c : Nat) (prot : Bool) : Option Nat :=
  if prot && (s.ctx c).prot then some (s.ctx c).xtsKey else none

/-- Reads bytes of a page of a context (R16, R307). -/
def pageRead (s : State) (c : Nat) (prot : Bool) (key n : Nat) : List Byte := s.readAs (some c) (s.cipherOf c prot) key n

/-- Tags a granule with the slot of a protected context (R307). -/
def tagGranule (s : State) (c key : Nat) : State :=
  { s with hub := { s.hub with tags := s.hub.tags.set (key / 4096) (s.ctx c).kslot.toNat } }

/-- Writes bytes of a page of a context: a protected access tags the granule (R16, R307). -/
def pageWrite (s : State) (c : Nat) (prot : Bool) (key : Nat) (bs : List Byte) : State :=
  let s' := if prot && (s.ctx c).prot && s.granuleOpen (some c) key then s.tagGranule c key else s
  s'.writeAs (some c) (s.cipherOf c prot) key bs

/-! ## Budgets (R90, R91) -/

/-- How many points share a budget: issue, HBM, copy, fabric. -/
def pointsOf (s : State) (c kind : Nat) : Nat :=
  let n := (s.ctxDies c).length
  match kind with
  | 0 => 96 * n
  | 1 | 2 => n
  | _ => (BitVec.extractLsb' 32 32 (s.ctx c).bal).cpop.toNat

/-- The share of each charging point of a context at the start of a period: a finite budget is divided equally (R91). -/
def sharesOf (s : State) (c : Nat) : List Nat :=
  let x := s.ctx c
  [x.budgetIssue, x.budgetHbm, x.budgetCopy, x.budgetFabric].zipIdx.map fun (b, kind) =>
    if b = 0xFFFFFFFF then 0xFFFFFFFF else b.toNat / max 1 (s.pointsOf c kind)

/-- Whether a charging point has something left of its share. -/
def hasBudget (s : State) (c kind point : Nat) : Bool :=
  let share := (s.ctx c).shares.getD kind 0xFFFFFFFF
  share == 0xFFFFFFFF || (s.ctx c).spent.get (kind * 4096 + point) 0 < share

/-- Charges units to a point. -/
def charge (s : State) (c kind point units : Nat) : State :=
  if (s.ctx c).shares.getD kind 0xFFFFFFFF = 0xFFFFFFFF then s
  else s.onCtx c fun x =>
    { x with spent := x.spent.set (kind * 4096 + point) (x.spent.get (kind * 4096 + point) 0 + units) }

/-- A new request begins: no charging point has accepted a part of it yet (R91). -/
def newRequest (s : State) : State := { s with iss := { s.iss with joint := [] } }

/-- A charging point has accepted a part of the request under way. -/
def accept (s : State) (point : Nat) : State := { s with iss := { s.iss with joint := insertNat point s.iss.joint } }

/-- Serves an access of n bytes at a key for a context, charging the 64 B units that it touches to the memory controller of their die;
none where that die's share is spent and the request under way has not been accepted there before (R90, R91). -/
def memTurn (s : State) (c key n : Nat) : Option State :=
  let d := key / 2 ^ 36
  if n = 0 || (s.ctx c).shares.getD 1 0xFFFFFFFF == 0xFFFFFFFF then some s
  else if s.hasBudget c 1 d || s.iss.joint.contains d then some ((s.charge c 1 d ((key % 64 + n + 63) / 64)).accept d)
  else none

/-- Charges a context for 64 B units of its partition at an address, at the memory controller of their die (R90). Such traffic is not held
by a spent share: what brings it about has been accepted before (R91). -/
def chargeAt (s : State) (c pa units : Nat) : State := s.charge c 1 (physKey (s.ctxDies c) pa / 2 ^ 36) units

/-- Charges a context for 64 B units that the device writes or reads in a region of the partition, each 4 KiB of it at the memory
controller of its die (R21, R90), and not held. -/
def chargeRegion (s : State) (c base units : Nat) : State :=
  if (s.ctx c).shares.getD 1 0xFFFFFFFF = 0xFFFFFFFF then s
  else (span 0 ((units + 63) / 64)).foldl (fun s i => s.chargeAt c (base + 4096 * i) (min 64 (units - 64 * i))) s

/-- Tags the granules of 64 B units that the device writes for a protected context in a region of the partition (R307). -/
def tagRegion (s : State) (c base units : Nat) : State :=
  if !(s.ctx c).prot || units = 0 then s
  else (span (base / 4096) ((base + 64 * units - 1) / 4096 + 1 - base / 4096)).foldl (fun s g =>
    let key := physKey (s.ctxDies c) (4096 * g)
    if s.granuleOpen (some c) key then s.tagGranule c key else s) s

/-! ## Interrupts and queues of records (R283, R285, R298) -/

/-- Raises an interrupt vector: sent to the owner, or pending while there is none or it is masked. -/
def interrupt (s : State) (vec : Nat) : State :=
  if s.hub.held && !s.hub.maskedVectors.contains vec then s.emit (.interrupt s.hub.owner.toNat vec)
  else { s with hub := { s.hub with pendingVectors := insertNat vec s.hub.pendingVectors } }

/-- A nonzero sequence number. -/
def seqno (i : Nat) : Nat := i % (2 ^ 32 - 1) + 1

/-- The partition address of slot i of a queue word (R271). -/
def queueSlot (q : W64) (i : Nat) : Nat := q.toNat / 4096 * 4096 + 32 * (i % 2 ^ bitsAt q.toNat 0 5)

/-- Reads bytes at a partition address of a context's own structures. -/
def ctxRead (s : State) (c pa n : Nat) : List Byte := s.physRead (some c) (physKey (s.ctxDies c) pa) n

/-- Writes bytes at a partition address of a context's own structures. -/
def ctxWrite (s : State) (c pa : Nat) (bs : List Byte) : State := s.physWrite (some c) (physKey (s.ctxDies c) pa) bs

/-- Appends a record to the asynchronous error queue, or counts it as dropped (R285). The look at its slot and the record are charged
(R90). -/
def errorRecord (s : State) (c : Nat) (type cause kind : Nat) (addr : W64) (tag source : Nat) : State :=
  let slot := queueSlot (s.ctx c).errq (s.ctx c).errSeq
  let s := s.chargeAt c slot 1
  let x := s.ctx c
  if leNat (s.ctxRead c slot 4) ≠ 0 then
    s.setCtx c { x with errdrop := if x.errdrop = 255 then 255 else x.errdrop + 1 }
  else
    let rec_ := natLe 4 (seqno x.errSeq) ++ natLe 1 type ++ natLe 1 cause ++ natLe 1 kind ++ natLe 1 0
      ++ natLe 8 addr.toNat ++ natLe 4 tag ++ natLe 4 source ++ natLe 8 0
    (((s.setCtx c { x with errSeq := x.errSeq + 1 }).chargeAt c slot 1).ctxWrite c slot rec_).interrupt (2 * c + 1)

/-- Tries to write the fault record of a page; the flag says whether the slot was free (R283). The look at the slot and the record are
charged (R90). -/
def faultRecord (s : State) (c : Nat) (u : UnderFault) : Bool × State :=
  let slot := queueSlot (s.ctx c).faultq (s.ctx c).faultSeq
  let s := s.chargeAt c slot 1
  let x := s.ctx c
  if leNat (s.ctxRead c slot 4) ≠ 0 then (false, s)
  else
    let rec_ := natLe 4 (seqno x.faultSeq) ++ natLe 1 u.kind ++ natLe 1 u.agent ++ natLe 1 u.view ++ natLe 1 0
      ++ natLe 8 u.va ++ natLe 4 u.source ++ natLe 12 0
    (true, (((s.setCtx c { x with faultSeq := x.faultSeq + 1 }).chargeAt c slot 1).ctxWrite c slot rec_).interrupt (2 * c))

/-- HUB_STATUS (R300). -/
def statusWord (s : State) : Nat :=
  let h := s.hub
  let bit (b : Bool) (n : Nat) := if b then 2 ^ n else 0
  bit h.ready 0 + bit h.regerr 1 + bit h.parterr 2 + bit h.fwerr 3 + bit h.throttle 4 + bit (!h.scrubs.isEmpty) 5 + bit h.attbusy 6

/-- Changes the hub; a change of HUB_STATUS raises vector 2,048 (R298, R300). -/
def onHub (s : State) (f : Hub → Hub) : State :=
  let s' := { s with hub := f s.hub }
  if s'.statusWord = s.statusWord then s' else s'.interrupt 2048

/-- Starts the teardown of a context (R295, R303, R308): the root becomes invalid, no translation is kept, and the context
is tearing down, or scrubbing when it is protected, with its keys zeroised at once. A free or ending context is left as it
is. -/
def beginTeardown (s : State) (c : Nat) (cause : Byte) : State :=
  let x := s.ctx c
  if x.state = 0 ∨ x.state = 4 ∨ x.state = 5 then s
  else
    let y := { x with state := if x.prot then 5 else 4, cause := cause, ptroot := x.ptroot &&& ~~~1, tlb := [] }
    let s := s.setCtx c y
    if x.prot then s.onHub fun h => { h with scrubs := h.scrubs ++ [⟨c, x.kslot.toNat, 1, false, [], []⟩] } else s

/-! ## Translation (R280 to R283, R482) -/

end State

/-- What an access wants of a page. -/
inductive Want where
  | read | write | fetch
deriving DecidableEq, Repr

/-- The result of a walk: a leaf and the key of its entry, or the kind of a fault (R283). -/
inductive Walked where
  | leaf (e : TlbEntry) (entry : Option Nat)
  | fault (kind : Nat)
deriving DecidableEq, Repr

/-- The levels of a device page table below a given one: the lowest index bit and its width (R280). -/
def deviceLevels : List (Nat × Nat × Nat) :=
  [(5, 48, 9), (4, 39, 9), (3, 30, 9), (2, 21, 9), (1, 16, 5), (0, 12, 4)]

/-- Whether two spans of bytes meet. -/
def spansMeet (lo1 n1 lo2 n2 : Nat) : Bool := lo1 < lo2 + n2 && lo2 < lo1 + n1

namespace State

/-- The pages of a context's view pool: a size of 1 is treated as 0 (R142). -/
def poolPages (x : Ctx) : Nat :=
  let n := bitsAt x.vpsize.toNat 0 24
  if n = 1 then 0 else n

/-- The device regions of a context, as partition spans (R304, R482). -/
def regions (s : State) (c : Nat) : List (Nat × Nat) :=
  let x := s.ctx c
  let base (w : W64) := w.toNat / 4096 * 4096
  [(base x.faultq, 32 * 2 ^ bitsAt x.faultq.toNat 0 5), (base x.errq, 32 * 2 ^ bitsAt x.errq.toNat 0 5),
   (base x.save, bitsAt x.savesz.toNat 0 24 * 4096), (base x.vpbase, poolPages x * 4096),
   (base x.carav, bitsAt x.caravsz.toNat 0 24 * 4096)]

/-- The contexts that are not free in a partition. -/
def boundIn (s : State) (lead : Nat) : List Nat :=
  (s.ctxs.filter fun e => e.2.state != 0 && e.2.part.toNat == lead).map fun e => e.1

/-- Whether a span of a partition names a forbidden byte (R482). -/
def forbidden (s : State) (lead pa n : Nat) : Bool :=
  reservedStart (s.diesOf lead) < pa + n ||
    (s.boundIn lead).any fun c => (s.regions c).any fun r => r.2 != 0 && spansMeet pa n r.1 r.2

/-- Whether a valid entry is malformed at a level (R281). -/
def malformed (e level lowBit : Nat) : Bool :=
  bitAt e 4 || bitAt e 11 || bitsAt e 56 8 != 0 ||
    (bitAt e 1 && (level == 5 || level == 4)) || (!bitAt e 1 && level == 0) ||
    (!bitAt e 1 && bitsAt e 2 9 != 0) ||
    (bitAt e 1 && bitsAt e 12 44 * 4096 % 2 ^ lowBit != 0)

/-- A leaf of a device table as a translation (R281). -/
def leafOf (e va lowBit : Nat) : TlbEntry :=
  { page := va / 2 ^ lowBit * 2 ^ lowBit, size := 2 ^ lowBit, pa := bitsAt e 12 44 * 4096, write := bitAt e 2,
    exec := bitAt e 3, type := bitsAt e 5 2, prot := bitAt e 9, wshared := bitAt e 10, dirty := bitAt e 8 }

/-- Walks a device page table from a table address (R280 to R282, R482). -/
def walkDevice (s : State) (c va : Nat) : Nat → List (Nat × Nat × Nat) → Walked
  | _, [] => .fault 0x43
  | table, (level, low, bits) :: rest =>
    let key := physKey (s.ctxDies c) (table + 8 * bitsAt va low bits)
    let e := leNat (s.physRead (some c) key 8)
    if !bitAt e 0 then .fault 0x40
    else if malformed e level low then .fault 0x43
    else
      let pa := bitsAt e 12 44 * 4096
      if s.forbidden (s.ctx c).part.toNat pa (if bitAt e 1 then 2 ^ low else 4096) then .fault 0x44
      else if bitAt e 1 then .leaf (leafOf e va low) (some key)
      else walkDevice s c va pa rest

/-- The fields of CTX_HTF (R282). -/
def htfField (h : W64) (lo w : Nat) : Nat := bitsAt h.toNat lo w

/-- Whether CTX_HTF describes a table format (R282). -/
def htfValid (h : W64) : Bool :=
  let levels := htfField h 0 3
  let idx := htfField h 3 4
  let bits := [htfField h 7 5, htfField h 12 5, htfField h 17 5, htfField h 23 5]
  let palo := htfField h 28 6
  let pahi := htfField h 34 6
  let vabits := htfField h 40 6
  2 ≤ levels && levels ≤ 6 && 1 ≤ idx && idx ≤ 9 && vabits ≤ 57 && vabits ≤ 12 + idx * levels && palo ≤ pahi &&
    (dedupNat bits).length == 4 && bits.all fun b => b < palo || pahi < b

/-- Walks host tables, level by level from the last index down (R282). -/
def walkHost (s : State) (h : W64) (va : Nat) : Nat → Nat → Walked
  | 0, _ => .fault 0x45
  | j + 1, table =>
    let idx := htfField h 3 4
    let low := 12 + idx * j
    let e := (Config.hostEntry s.free (table + 8 * bitsAt va low idx)).toNat
    let palo := htfField h 28 6
    let pa := bitsAt e palo (htfField h 34 6 + 1 - palo) * 2 ^ palo
    if !bitAt e (htfField h 7 5) then .fault 0x40
    else if j = 0 || bitAt e (htfField h 23 5) then
      .leaf { page := va / 2 ^ low * 2 ^ low, size := 2 ^ low, pa := pa, write := bitAt e (htfField h 12 5),
              exec := bitAt e (htfField h 17 5), type := 0, prot := false, wshared := false,
              dirty := true } none
    else walkHost s h va j pa

/-- A host leaf with its execute permission and the physical-range check. -/
def hostLeaf (s : State) (c : Nat) (h : W64) : Walked → Walked
  | .leaf e k =>
    if s.forbidden (s.ctx c).part.toNat e.pa e.size then .fault 0x44
    else .leaf { e with exec := e.exec != bitAt h.toNat 22 } k
  | w => w

/-- Walks the tables of a context (R280, R282). The root table names the bytes of its 4 KiB as an entry's table does: one that
reaches into a forbidden range gives the physical-range kind, so that no context addresses another's memory (R23). DESIGN CHOICE
(log 46): the spec does not say what a root at or above the partition's size gives. -/
def walk (s : State) (c va : Nat) : Walked :=
  let x := s.ctx c
  if bitAt x.ptroot.toNat 1 then
    if !htfValid x.htf || 2 ^ htfField x.htf 40 6 ≤ va then .fault 0x45
    else s.hostLeaf c x.htf (s.walkHost x.htf va (htfField x.htf 0 3) (bitsAt x.ptroot.toNat 12 44 * 4096))
  else if s.forbidden x.part.toNat (bitsAt x.ptroot.toNat 12 44 * 4096) 4096 then .fault 0x44
  else s.walkDevice c va (bitsAt x.ptroot.toNat 12 44 * 4096) deviceLevels

/-- The keys of the entries that a walk of device tables reads, up to the entry that ends it or the table that it may not read (R90, R280,
R482). -/
def walkKeys (s : State) (c va : Nat) : Nat → List (Nat × Nat × Nat) → List Nat
  | _, [] => []
  | table, (level, low, bits) :: rest =>
    if s.forbidden (s.ctx c).part.toNat table 4096 then []
    else
      let key := physKey (s.ctxDies c) (table + 8 * bitsAt va low bits)
      let e := leNat (s.physRead (some c) key 8)
      if bitAt e 0 && !bitAt e 1 && !malformed e level low then key :: walkKeys s c va (bitsAt e 12 44 * 4096) rest else [key]

/-- Sets ACCESSED, and DIRTY for a write, in an entry (R281). -/
def markEntry (s : State) (c : Nat) (entry : Option Nat) (write : Bool) : State :=
  match entry with
  | none => s
  | some key =>
    let e := leNat (s.physRead (some c) key 8)
    let e' := e ||| 128 ||| (if write then 256 else 0)
    if e' = e then s else s.physWrite (some c) key (natLe 8 e')

end State

/-- What translation answers: the memory key and leaf, a wait for the page, or the end of the context. -/
inductive Xlat where
  | ok (key : Nat) (leaf : TlbEntry)
  | hold (recorded : Bool)
  | fatal
deriving DecidableEq, Repr

/-- Whether a kept translation serves an access. -/
def TlbEntry.serves (e : TlbEntry) (va : Nat) (w : Want) : Bool :=
  e.page ≤ va && va < e.page + e.size &&
    match w with
    | .read => true
    | .write => e.write && e.dirty
    | .fetch => e.exec

namespace State

/-- Puts a page under fault with its record (R127, R283); the fatal kinds tear the context down once the record is written
(R295). -/
def pageFault (s : State) (c : Nat) (u : UnderFault) : Xlat × State :=
  let (ok, s) := s.faultRecord c u
  if ok && 0x43 ≤ u.kind then (.fatal, s.beginTeardown c 0x53)
  else (.hold ok, s.onCtx c fun x => { x with under := x.under ++ [{ u with recorded := ok }] })

/-- The key of a virtual address in a leaf. -/
def leafKey (s : State) (c : Nat) (e : TlbEntry) (va : Nat) : Nat := physKey (s.ctxDies c) (e.pa + (va - e.page))

/-- Translates one address of a context for an agent (R127, R281, R283, R295). A page under fault that has been marked with a
fatal kind answers as fatal. -/
def xlat (s : State) (c va : Nat) (w : Want) (agent source view : Nat) : Xlat × State :=
  let x := s.ctx c
  if !bitAt x.ptroot.toNat 0 || x.state = 0 || x.state = 4 || x.state = 5 then (.fatal, s)
  else match x.under.find? (fun u => u.page == va / 4096) with
  | some u => if u.recorded && 0x43 ≤ u.kind then (.fatal, s) else (.hold u.recorded, s)
  | none =>
    match x.tlb.find? (fun e => e.serves va w) with
    | some e => (.ok (s.leafKey c e va) e, s)
    | none =>
      let host := bitAt x.ptroot.toNat 1
      let s' := if host then s.draw
        else (s.walkKeys c va (bitsAt x.ptroot.toNat 12 44 * 4096) deviceLevels).foldl
          (fun s key => s.charge c 1 (key / 2 ^ 36) 1) s
      let fail (kind : Nat) := s'.pageFault c ⟨va / 4096, va, kind, agent, view, source, false⟩
      match s.walk c va with
      | .fault kind => fail kind
      | .leaf e entry =>
        if w == .write && !e.write then fail 0x41
        else if w == .fetch && !e.exec then fail 0x42
        else
          let e := { e with dirty := e.dirty || w == .write }
          let s' := (s'.markEntry c entry (w == .write)).onCtx c fun x =>
            { x with tlb := e :: x.tlb.filter fun o => o.page != e.page }
          (.ok (s'.leafKey c e va) e, s')

/-! ## Views (R121, R151, R152, R166) -/

/-- A view of a context; view 0 is always the root. -/
def view (s : State) (c n : Nat) : View := if n = 0 then (s.ctx c).views.get 0 .root else (s.ctx c).views.get n .free

def setView (s : State) (c n : Nat) (w : View) : State := s.onCtx c fun x => { x with views := x.views.set n w }

/-- The byte that a view's path to the root has written, if any (R151). The depth bounds the path (R141). -/
def pathByte (s : State) (c : Nat) : Nat → Nat → Nat → Option Byte
  | 0, _, _ => none
  | fuel + 1, n, key =>
    if n = 0 then none
    else match (s.view c n).bytes.find? key with
      | some b => some b
      | none => pathByte s c fuel (s.view c n).parent key

/-- Reads bytes of a page in a view (R151). -/
def readView (s : State) (c n : Nat) (prot : Bool) (key len : Nat) : List Byte :=
  ((span key len).zip (s.pageRead c prot key len)).map fun (k, b) => (s.pathByte c 4 n k).getD b

/-- The cells of a context's view pool (R142), and those in use (R144). -/
def poolCells (s : State) (c : Nat) : Nat := 32 * (bitsAt (s.ctx c).vpsize.toNat 0 24 - 1)
def usedCells (s : State) (c : Nat) : Nat :=
  ((s.ctx c).views.map fun e => e.2.lines.length + e.2.outbox.length + e.2.reserved + e.2.outCells).sum

/-- The partition address of the 128 B cell that a context's view pool gives out next (R142). DESIGN CHOICE (log 19): the cells are given
out from the pool's start, so that it is the one behind those in use. -/
def nextCell (s : State) (c : Nat) : Nat := (s.ctx c).vpbase.toNat / 4096 * 4096 + 4096 + 128 * s.usedCells c

/-- Whether a write to a line needs a new cell in a view (R152). -/
def needsCell (s : State) (c n key : Nat) : Bool := n != 0 && !(s.view c n).lines.contains (key / 64)

/-- Whether a write finds its cell, or a free one (R166). -/
def cellReady (s : State) (c n key : Nat) : Bool := !s.needsCell c n key || s.usedCells c < s.poolCells c

/-- Writes bytes in a view: memory for the root, the view's version otherwise (R152); a new cell of a protected context tags its granule
(R307). -/
def writeView (s : State) (c n : Nat) (prot : Bool) (key : Nat) (bs : List Byte) : State :=
  if n = 0 then s.pageWrite c prot key bs
  else
    let s := if s.needsCell c n key then s.tagRegion c (s.nextCell c) 2 else s
    let w := s.view c n
    s.setView c n { w with bytes := tabPut w.bytes key bs, lines := insertNat (key / 64) w.lines,
                           prots := if prot then insertNat (key / 4096) w.prots else w.prots }

/-- Notes the virtual page through which a view has written (R127). -/
def notePage (s : State) (c n va : Nat) : State :=
  if n = 0 then s else s.setView c n { s.view c n with pages := insertNat (va / 4096) (s.view c n).pages }

/-! ## Waits and wakes (R291, R292) -/

/-- Parks a thread with a wait reason; the count starts again when the reason changes. -/
def parkThread (s : State) (i : Nat) (w : Wait) : State :=
  s.onThread i fun t =>
    { t with wait := w, waited := w, waitCount := if t.waited = w then t.waitCount else 0 }

/-- Makes a thread ready again. -/
def wakeThread (s : State) (i : Nat) : State :=
  s.onThread i fun t => if t.wait = .ready then t else { t with wait := .ready, readyAt := s.cycle }

/-- The number that stands for no core: where a group or reservation of a team that is not placed stands. -/
def noCore : Nat := 1536

/-- Makes every thread ready that waits for a reason and meets a condition. -/
def wake (s : State) (w : Wait) (cond : Nat → Bool) : State :=
  { s with threads := s.threads.mapVals fun i t =>
      if t.wait = w && cond i then { t with wait := .ready, readyAt := s.cycle } else t }

/-- Wakes the threads of a core. -/
def wakeCore (s : State) (k : Nat) (w : Wait) : State := s.wake w fun i => s.coreOf i == k

/-- Wakes the threads of a team. -/
def wakeTeam (s : State) (t : Nat) (w : Wait) : State := s.wake w fun i => teamOf i == t

/-- Wakes the threads of a context. -/
def wakeCtx (s : State) (c : Nat) (w : Wait) : State := s.wake w fun i => s.ctxOf i == c

/-! ## Taking an exception and returning (R273, R275 to R278) -/

/-- The position of a delegable cause in CTX_DELEG (R271, R275). -/
def delegBit (cause : Byte) : Option Nat :=
  match cause.toNat with
  | 0x04 => some 0 | 0x12 => some 1 | 0x23 => some 2 | _ => none

/-- The delegated causes of a thread (R276). -/
def udmask (s : State) (i : Nat) : BitVec 3 :=
  (s.thread i).udmask &&& (s.ctx (s.ctxOf i)).deleg.extractLsb' 0 3

/-- Whether a trap goes to the user handler (R277). -/
def delegated (s : State) (i : Nat) (cause : Byte) : Bool :=
  (s.thread i).mode == 0 &&
    match delegBit cause with
    | some b => (s.udmask i).getLsbD b
    | none => false

/-- What a thread waits for as its handler begins: a breakpoint stop while a debugger holds breakpoints (R57). -/
def entryWait (s : State) (cause : Byte) : Wait :=
  match s.dbg, cause.toNat with
  | true, 0x07 => .breakpoint
  | _, _ => .ready

end State

/-- A thread whose wait a trap has ended (R277). -/
def Thread.unwait (t : Thread) (w : Wait) (cycle : Nat) : Thread :=
  { t with trapDue := none, arrival := none, wait := w, waited := w, waitCount := 0, barAt := none, yieldSet := [], marked := false,
           readyAt := cycle }

/-- Enters the user handler (R277). -/
def Thread.enterUser (t : Thread) (d : TrapDue) : Thread :=
  { t with ucause := d.cause.zeroExtend 32, uepc := d.epc, uaddr := d.addr, uinfo := d.info, mode := 1, pc := t.udvec }

/-- The value of `sr.tcause` (R276). -/
def trapCause (t : Thread) (d : TrapDue) : W32 :=
  d.cause.zeroExtend 32 ||| (t.mode.zeroExtend 32 <<< 8) ||| (if d.chain then 0x400 else 0)

/-- Enters the supervisor handler (R277). -/
def Thread.enterSuper (t : Thread) (d : TrapDue) (vec : W64) : Thread :=
  { t with tcause := trapCause t d, tepc := d.epc, taddr := d.addr, tinfo := d.info, mode := 2, pc := vec }

namespace State

/-- Enters the handler of a trap (R277): the user handler, the supervisor handler, or, in the supervisor handler, the end of
the context. While a debugger holds breakpoints, a thread that meets one is stopped there (R57). -/
def enterHandler (s : State) (i : Nat) (d : TrapDue) : State :=
  let t := (s.thread i).unwait (s.entryWait d.cause) s.cycle
  if (s.thread i).mode = 2 then (s.setThread i t).beginTeardown (s.ctxOf i) 0x50
  else if s.delegated i d.cause then s.setThread i (t.enterUser d)
  else s.setThread i (t.enterSuper d ((s.ctx (s.ctxOf i)).tvec &&& 0x1FFFFFFFFFFFFFF))

/-- Delivers a trap to a thread once none of its replies is pending (R277). -/
def deliver (s : State) (i : Nat) (d : TrapDue) : State :=
  if (s.thread i).pending.isEmpty then s.enterHandler i d
  else (s.onThread i fun t => { t with trapDue := some d, arrival := none, barAt := none }).parkThread i .marker

/-- Raises a trap in the current thread (R273, R277). -/
def raise (s : State) (cause : Byte) (addr : W64) (info : W32) : State :=
  let s' := s.deliver s.iss.cur ⟨cause, addr, info, s.iss.first, s.iss.inChain⟩
  { s' with iss := { s'.iss with out := .trapped, raised := some (cause, addr, info) } }

/-- Takes back the enqueues that have not left and that waiting threads of a kind wait for: their instructions are not performed (R47,
R293, R444). -/
def takeBackOuts (s : State) (p : Nat → Bool) : State :=
  { s with sessions := s.sessions.mapVals fun _ x => { x with outs := x.outs.filter fun o => o.sent || !o.thread.any p } }

/-- A thread whose own remote enqueue has left has performed that instruction (R444). -/
def passLeft (s : State) (i : Nat) : State :=
  s.onThread i fun t => if t.left && !t.chained then { t with left := false, pc := nextPc t.pc } else t

/-- A group does not go on with the `mma` or `mmo` that it waits at: its accepted fetch is not used (R423). -/
def dropFetch (s : State) (g : Nat) : State :=
  if (s.group g).fetch.isSome then s.onGroup g fun y => { y with fetch := none } else s

/-- Raises a trap in another thread at its own program counter: it does not execute the instruction there (R47, R293). -/
def raiseAt (s : State) (i : Nat) (cause : Byte) (addr : W64) (info : W32) : State :=
  let s := ((s.takeBackOuts fun j => j == i).passLeft i).dropFetch (s.groupOf i)
  s.deliver i ⟨cause, addr, info, (s.thread i).pc, (s.thread i).chained && (s.thread i).wait != .ready⟩

/-- Parks the current thread at its instruction, which issues again. -/
def park (s : State) (w : Wait) : State :=
  let s' := (s.onThread s.iss.cur fun t => { t with chained := s.iss.inChain }).parkThread s.iss.cur w
  { s' with iss := { s'.iss with out := .waiting } }

/-- The current thread does not return from its instruction. -/
def leave (s : State) : State := { s with iss := { s.iss with out := .gone } }

end State

/-- What the checks and effects of one instruction come to. -/
inductive Res (α : Type) where
  | ok (a : α) (s : State)
  | trap (cause : Byte) (addr : W64) (info : W32) (s : State)
  | wait (w : Wait) (s : State)
  | gone (s : State)

namespace Res

/-- Goes on where nothing has stopped the instruction. -/
def andThen {α β : Type} (r : Res α) (k : α → State → Res β) : Res β :=
  match r with
  | .ok a s => k a s
  | .trap c a i s => .trap c a i s
  | .wait w s => .wait w s
  | .gone s => .gone s

/-- The state in which an instruction leaves the machine. -/
def settle : Res Unit → State
  | .ok _ s => s
  | .trap c a i s => s.raise c a i
  | .wait w s => s.park w
  | .gone s => s.leave

end Res

/-- Goes on when a condition holds, or raises a trap. -/
def require (s : State) (cond : Bool) (cause : Byte) (addr : W64) : Res Unit :=
  if cond then .ok () s else .trap cause addr 0 s

namespace State

/-- The handler's return (R278): the new mode and program counter, or none where the instruction is illegal. -/
def returnPoint (t : Thread) : Option (BitVec 2 × W64) :=
  if t.mode = 1 then some (0, t.uepc)
  else if t.mode = 2 then
    let m : BitVec 2 := t.tcause.extractLsb' 8 2
    if m = 3 then none else some (m, t.tepc)
  else none

/-- Returns from the current handler: the mode changes and the program continues at the saved address (R278). -/
def returnFrom (s : State) (m : BitVec 2) (pc : W64) : State :=
  let s := s.onThr fun t => { t with mode := m }
  { s with iss := { s.iss with npc := pc } }

end State

/-! ## Touched registers (R53, R60, R315) -/

/-- A register or predicate that a word reads or writes. -/
inductive Touch where
  | reg (n : Nat)
  | pred (n : Nat)
deriving DecidableEq, Repr

/-- The detail of a register trap (R276). -/
def Touch.info : Touch → W32
  | .reg n => BitVec.ofNat 32 n
  | .pred n => BitVec.ofNat 32 (n + 128)

/-- Whether a register is at or above the limit (R53). -/
def Touch.above (limit : Nat) : Touch → Bool
  | .reg n => limit ≤ n
  | .pred _ => false

/-- Whether a register or predicate is pending (R60). -/
def Touch.pendingIn (t : Thread) : Touch → Bool
  | .reg n => t.regPending n
  | .pred n => t.predPending n

/-- The register checks of a word: bound before hazard (R53, R60, R275). -/
def checkTouches (s : State) (ts : List Touch) : Res Unit :=
  match ts.find? (·.above s.opnd.limit) with
  | some t => .trap 0x03 0 t.info s
  | none =>
    match ts.find? (·.pendingIn s.opnd) with
    | some t => .trap 0x04 0 t.info s
    | none => .ok () s

/-- Executes an instruction of the current thread: the register checks, then its own checks and effect (R343). -/
def issue (s : State) (ts : List Touch) (k : State → Res Unit) : Host.Outcome State Fault Refusal :=
  if s.thr.live then .next ((checkTouches s ts).andThen fun _ s => k s).settle else .fault .noIssuer

/-- An instruction whose effect follows its register checks without further checks. -/
def issueTo (s : State) (ts : List Touch) (f : State → State) : Host.Outcome State Fault Refusal :=
  issue s ts fun s => .ok () (f s)

end Sys2Proof.Machine
end

