-- ==== Sys2Proof/Machine/Operands.lean ====
section
/-! DEFINITION. The operand forms: generic addresses and their windows (R94, R95), the private stack (R96 to R100), the
scratchpad with the range scoreboard (R103, R131), global accesses by memory type and view (R112 to R116, R151 to R156),
the outbox (R155) and the side log (R126). -/

namespace Sys2Proof.Machine

/-! ## Generic addresses -/

/-- The window of a generic address and the offset in it (R94). -/
inductive Window where
  | global (va : Nat)
  | priv (off : Nat)
  | scratch (off : Nat)
  | none
deriving DecidableEq, Repr

/-- Decodes a generic address (R94). -/
def window (a : W64) : Window :=
  let top := bitsAt a.toNat 56 8
  if top ≤ 1 then .global a.toNat
  else if top = 0xFD ∧ bitsAt a.toNat 16 40 = 0 then .priv (bitsAt a.toNat 0 16)
  else if top = 0xFE ∧ bitsAt a.toNat 24 32 = 0 then .scratch (bitsAt a.toNat 0 24)
  else .none

/-- Whether an address lies in the global window (R94). -/
def isGlobal (a : W64) : Bool := bitsAt a.toNat 57 7 == 0

/-- The base address plus a scaled immediate, modulo 2^64 (R316, R414). -/
def memAddr (base : W64) (imm : BitVec 7) (w : Nat) : W64 := base + sext64 imm * BitVec.ofNat 64 w

/-- The offset plus a scaled immediate, modulo 2^32 (R316, R414). -/
def memOff (base : W32) (imm : BitVec 7) (w : Nat) : W32 := base + sext32 imm * BitVec.ofNat 32 w

/-- The generic address that a trap reports for a scratchpad or private offset. -/
def scratchAddr (off : Nat) : W64 := BitVec.ofNat 64 (0xFE00000000000000 + off)
def privAddr (off : Nat) : W64 := BitVec.ofNat 64 (0xFD00000000000000 + off)

namespace State

/-! ## Scratchpad (R103, R129 to R132) -/

/-- The bytes of a team's scratchpad allocation (R103). -/
def scratchSize (s : State) (t : Nat) : Nat := (s.team t).record.scratch * 4096

/-- The cores of a team: one, the two of its twin, or none while it is not placed (R35). -/
def coresOfTeam (s : State) (t : Nat) : List Nat :=
  let x := s.team t
  if x.core = noCore then [] else if x.record.twin then [x.core, x.core + 1] else [x.core]

/-- The scoreboard intervals that hold bytes of a team, oldest first. -/
def ivalsOfTeam (s : State) (t : Nat) : List Interval := (s.coresOfTeam t).flatMap fun k => (s.core k).ivals

end State

/-- Whether two classes of interval conflict: not two R, and not two ACC of the matrix engine of one core (R131). -/
def IClass.conflict (sameEngine : Bool) : IClass → IClass → Bool
  | .r, .r => false
  | .acc, .acc => !sameEngine
  | _, _ => true

/-- Whether a span of a space conflicts with an interval, as an access of a class by a core (R131). -/
def Interval.blocks (iv : Interval) (sp : Space) (lo hi : Nat) (c : IClass) (core : Nat) : Bool :=
  iv.space == sp && iv.lo < hi && lo < iv.hi && iv.cls.conflict (iv.engine == core) c

namespace State

/-- Whether a thread's access to its scratchpad stalls (R131); a thread's access is of class R or W. -/
def spBlocked (s : State) (t lo n : Nat) (c : IClass) : Bool :=
  (s.ivalsOfTeam t).any fun iv => iv.blocks (.sp t) lo (lo + n) c s.curCore

/-- The checks of a scratchpad access: alignment, bound, then the scoreboard (R103, R131, R415). -/
def spCheck (s : State) (off n align : Nat) (c : IClass) : Res Unit :=
  if off % align != 0 then .trap 0x11 (scratchAddr off) 0 s
  else if s.scratchSize s.curTeam < off + n then .trap 0x13 (scratchAddr off) 0 s
  else if s.spBlocked s.curTeam off n c then .wait .scoreboard s
  else .ok () s

/-- Reads bytes of a team's scratchpad. -/
def spBytes (s : State) (t off n : Nat) : List Byte := tabBytes (s.team t).sp off n

/-- Writes bytes of a team's scratchpad. -/
def spPut (s : State) (t off : Nat) (bs : List Byte) : State :=
  s.onTeam t fun x => { x with sp := tabPut x.sp off bs }

/-- A scratchpad load of the current thread (R414, R415). -/
def loadSp (s : State) (off n : Nat) : Res (List Byte) :=
  (s.spCheck off n n .r).andThen fun _ s => .ok (s.spBytes s.curTeam off n) s

/-- A scratchpad store of the current thread (R454, R455). -/
def storeSp (s : State) (off : Nat) (bs : List Byte) : Res Unit :=
  (s.spCheck off bs.length bs.length .w).andThen fun _ s => .ok () (s.spPut s.curTeam off bs)

/-! ## Outbox and side log (R126, R155, R166) -/

/-- Appends an operation to the outbox of the current view, or takes the view-exhaustion fault (R155, R166). The entry's cell, of 128 B, is
charged to the memory controller of its die, and waits for its budget (R90, R91, R142). -/
def outboxPush (s : State) (op : OutOp) (addr : W64) : Res Unit :=
  let c := s.curCtx
  let cell := s.nextCell c
  if 1024 ≤ (s.view c s.curView).outbox.length || s.poolCells c ≤ s.usedCells c then .trap 0x23 addr 0 s
  else match s.memTurn c (physKey (s.ctxDies c) cell) 128 with
    | none => .wait .budget s
    | some s =>
      let w := s.view c s.curView
      .ok () ((s.tagRegion c cell 2).setView c s.curView { w with outbox := w.outbox ++ [op] })

/-- The place of the next logged access of a context, behind those of every core (R119, R126). -/
def logPlace (s : State) (c : Nat) : Nat :=
  ((s.cores.flatMap fun e => e.2.log).filter fun l => l.ctx == c).foldl (fun m l => max m (l.place + 1)) 0

/-- Appends an entry to the side log of a core (R126, R128). -/
def logTo (s : State) (k : Nat) (e : LogEntry) : State :=
  s.onCore k fun y => { y with log := y.log ++ [{ e with place := s.logPlace e.ctx }] }

/-- Marks the current thread's team as having issued an external operation (R286). -/
def markExternal (s : State) : State := s.onTeam s.curTeam fun t => { t with external := true }

/-! ## Write-combining stores (R137) -/

/-- Whether a page of a context is under fault (R127). -/
def faulting (s : State) (c page : Nat) : Bool := (s.ctx c).under.any fun u => u.page == page

/-- The entry of the side log that a waiting write-combining store of a thread makes where its page has come under fault (R126, R128). -/
def wcEntry (s : State) (i : Nat) (w : WcStore) : LogEntry :=
  ⟨s.ctxOf i, 0, BitVec.ofNat 64 w.va, .store w.data, teamOf i, (s.team (teamOf i)).record.seq.toNat, false, none, 0, w.bundle, []⟩

/-- Performs one write-combining store of a thread at its home. While its page is under fault no access reaches it: the store retires into
the side log, which is its place in the order (R126, R127). -/
def performWc (s : State) (i : Nat) (w : WcStore) : State :=
  if s.faulting (s.ctxOf i) (w.va / 4096) then s.logTo (s.coreOf i) (s.wcEntry i w)
  else s.pageWrite (s.ctxOf i) w.prot w.key w.data

/-- Performs every write-combining store of a thread, oldest first. -/
def drainWc (s : State) (i : Nat) : State :=
  let t := s.thread i
  (t.wc.foldl (fun s w => s.performWc i w) s).onThread i fun t => { t with wc := [] }

/-- The bundle's instruction that is being executed, by the bundle's number and its word (R128). -/
def logBundle (s : State) : Option (Nat × W64) := some (s.iss.bundleId, s.iss.word)

end State

/-- The entries that a log has: accesses of one bundle's instruction to one 64 B line of a view share one (R128). -/
def logEntries (log : List LogEntry) : Nat :=
  (log.filter fun e => e.bundle.isNone).length +
    ((log.filter fun e => e.bundle.isSome).map fun e => (e.bundle, e.ctx, e.view, e.va.toNat / 64)).eraseDups.length

namespace State

/-- Whether the side log of a core has room for further entries (R128). -/
def logFits (s : State) (k : Nat) (es : List LogEntry) : Bool := logEntries ((s.core k).log ++ es) ≤ 256

/-- The waiting write-combining stores of a thread whose pages have come under fault, as the entries that they make. -/
def wcEntries (s : State) (i : Nat) : List LogEntry :=
  ((s.thread i).wc.filter fun w => s.faulting (s.ctxOf i) (w.va / 4096)).map (s.wcEntry i)

/-- Whether the waiting write-combining stores of a thread can all be performed: the side log has room for those whose pages have come under
fault (R128). -/
def drainReady (s : State) (i : Nat) : Bool := (s.wcEntries i).isEmpty || s.logFits (s.coreOf i) (s.wcEntries i)

/-- Performs every write-combining store of a thread, before an access or a start that follows them; a full side log holds the thread
(R86, R128, R137). -/
def drained (s : State) (i : Nat) : Res Unit := if s.drainReady i then .ok () (s.drainWc i) else .wait .sideLog s

/-- A logged access of the current thread in a view, whose place is given as it is put into the log. -/
def logEntry (s : State) (n va : Nat) (op : LogOp) : LogEntry :=
  ⟨s.curCtx, n, BitVec.ofNat 64 va, op, s.curTeam, (s.team s.curTeam).record.seq.toNat, n != 0, none, 0, s.logBundle, []⟩

/-- Whether the side log of the current core has room for accesses of the current instruction to addresses, in a view, behind the thread's
own waiting stores (R128). -/
def logRoom (s : State) (n : Nat) (vas : List Nat) : Bool :=
  s.logFits s.curCore (s.wcEntries s.iss.cur ++ vas.map fun va => s.logEntry n va (.cinc 0))

/-- Whether an access of the current instruction finds an entry of another lane for its line, which it shares (R128). -/
def sharesEntry (s : State) (n va : Nat) : Bool :=
  (s.core s.curCore).log.any fun e =>
    e.bundle == s.logBundle && e.ctx == s.curCtx && e.view == n && e.va.toNat / 64 == va / 64

/-- Retires an access of the current thread into the side log of its core (R126, R128): one entry for its line, which it shares with the
accesses of its bundle's instruction to that line, and for which a version cell of the view is kept (R154, R166). The type of the page is
not known before the replay, so the thread's write-combining stores are performed first: a strongly ordered access follows them (R137). -/
def logPush (s : State) (va : Nat) (op : LogOp) : Res Unit :=
  let c := s.curCtx
  let n := s.curView
  let cell := n != 0 && !s.sharesEntry n va
  if !s.logRoom n [va] then .wait .sideLog s
  else if cell && s.poolCells c ≤ s.usedCells c then .trap 0x23 (BitVec.ofNat 64 va) 0 s
  else
    let s := if cell then s.setView c n { s.view c n with reserved := (s.view c n).reserved + 1 } else s
    .ok () ((s.drainWc s.iss.cur).logTo s.curCore { s.logEntry n va op with cell := cell })

/-- Bytes as a thread's later write-combining load finds them: its own latest stores over the home's (R137). -/
def overlayWc (ws : List WcStore) (key : Nat) (bs : List Byte) : List Byte :=
  ((span key bs.length).zip bs).map fun (k, b) =>
    ws.foldl (fun acc w => if w.key ≤ k && k < w.key + w.data.length then w.data.getD (k - w.key) 0 else acc) b

/-! ## Global accesses of the current thread -/

/-- Translates for the current thread (R274, R283). -/
def xlatThread (s : State) (va : Nat) (w : Want) : Xlat × State :=
  s.xlat s.curCtx va w (if w == .fetch then 1 else 0) s.curCore s.curView

/-- Whether the memory controller of a key's home may serve an access of n bytes to the current context, charging the 64 B units
that it touches (R90, R91). -/
def hbm (s : State) (key n : Nat) : Option State := s.memTurn s.curCtx key n

/-- The bytes of a load by memory type and view, with its side effects (R113, R137, R151, R156, R286). DESIGN CHOICE (log 14): a device
access, which may float against the thread's accesses of other types, takes its place in program order with all of them. -/
def loadTyped (s : State) (key n : Nat) (leaf : TlbEntry) : List Byte × State :=
  let c := s.curCtx
  match leaf.type with
  | 0 => (s.readView c (if leaf.wshared then 0 else s.curView) leaf.prot key n, s)
  | 1 => (overlayWc s.thr.wc key (s.pageRead c leaf.prot key n), s)
  | 2 => (s.pageRead c leaf.prot key n, s.markExternal)
  | _ => let s := (s.drainWc s.iss.cur).markExternal; (s.pageRead c leaf.prot key n, s)

/-- Whether a strongly ordered access has to wait: a store of its thread that it follows finds the side log full (R128, R137). -/
def mustDrain (s : State) (leaf : TlbEntry) : Bool := leaf.type == 3 && !s.drainReady s.iss.cur

/-- A load of n bytes within a page (R415, R416); `normal` asks for a normal page (R379, R444). -/
def loadGlobal (s : State) (va n : Nat) (normal : Bool) : Res (List Byte) :=
  match s.xlatThread va .read with
  | (.fatal, s) => .gone s
  | (.hold _, s) => .wait .translation s
  | (.ok key leaf, s) =>
    if normal && leaf.type != 0 then .trap 0x14 (BitVec.ofNat 64 va) 0 s
    else if s.curView != 0 && leaf.type != 0 then .trap 0x15 (BitVec.ofNat 64 va) 0 s
    else if s.mustDrain leaf then .wait .sideLog s
    else match s.hbm key n with
      | none => .wait .budget s
      | some s => let (bs, s) := s.loadTyped key n leaf; .ok bs s

/-- A store by memory type (R113, R137, R286), with a device store in program order as in `loadTyped` (DESIGN CHOICE, log 14). -/
def storeTyped (s : State) (va key : Nat) (bs : List Byte) (leaf : TlbEntry) : State :=
  let c := s.curCtx
  match leaf.type with
  | 0 => s.writeView c (if leaf.wshared then 0 else s.curView) leaf.prot key bs
  | 1 => s.onThr fun t => { t with wc := t.wc ++ [⟨key, va, bs, leaf.prot, s.logBundle⟩] }
  | 2 => (s.writeView c 0 leaf.prot key bs).markExternal
  | _ => ((s.drainWc s.iss.cur).writeView c 0 leaf.prot key bs).markExternal

/-- Whether a store or `red` in the current view waits in the outbox (R155). -/
def queuesStore (s : State) (leaf : TlbEntry) : Bool := s.curView != 0 && (leaf.type != 0 || leaf.wshared)

/-- A store within a page (R126, R152, R155, R166, R455). -/
def storeGlobal (s : State) (va : Nat) (bs : List Byte) : Res Unit :=
  let a := BitVec.ofNat 64 va
  match s.xlatThread va .write with
  | (.fatal, s) => .gone s
  | (.hold recorded, s) => if recorded then s.logPush va (.store bs) else .wait .translation s
  | (.ok key leaf, s) =>
    if s.queuesStore leaf then s.outboxPush (.store a bs) a
    else if !s.cellReady s.curCtx s.curView key then .trap 0x23 a 0 s
    else if s.mustDrain leaf then .wait .sideLog s
    else match s.hbm key bs.length with
      | none => .wait .budget s
      | some s => .ok () ((s.notePage s.curCtx s.curView va).storeTyped va key bs leaf)

/-! ## The private stack (R96 to R100) -/

/-- Stack bytes per thread of a context (R96). -/
def stackBytes (s : State) (c : Nat) : Nat := min 256 (bitsAt (s.ctx c).stack.toNat 16 9) * 256

/-- The first address of a stack slot (R97). -/
def slotBase (s : State) (c slot : Nat) : Nat :=
  (s.ctx c).stkbase.toNat / 65536 * 65536 + slot * 1024 * s.stackBytes c

/-- The global address of a byte of a thread's private stack (R97). DESIGN CHOICE (log 51): a stack pool that reaches 2^57 or above wraps
round. -/
def privVa (s : State) (i off : Nat) : Nat :=
  let x := s.team (teamOf i)
  let g := x.record.width
  let base := s.slotBase x.ctx (x.slot.getD 0) + s.gidxOf i * g * s.stackBytes x.ctx
  (base + 4 * (off / 4 * g + s.laneOf i) + off % 4) % 2 ^ 57

end State

/-- The 64 B lines of a table of bytes by address, rising (R17). -/
def linesOf (m : Tab Byte) : List Nat :=
  m.foldr (fun e ls => if ls.head? = some (e.1 / 64) then ls else e.1 / 64 :: ls) []

/-- The pieces of a private access: spans within a word (R97). -/
def privPieces (off n : Nat) : List (Nat × Nat) :=
  if n ≤ 4 then [(off, n)] else [(off, 4), (off + 4, n - 4)]

namespace State

/-- Reads one piece of a private stack: dirty bytes of the L1 over memory (R100). A page of another type is reported by the private
generic address of the access (R94, R116, R465). Only a piece that the L1 does not hold dirty reaches memory (R90). -/
def privPiece (s : State) (addr : W64) (va n : Nat) : Res (List Byte) :=
  match s.xlatThread va .read with
  | (.fatal, s) => .gone s
  | (.hold _, s) => .wait .translation s
  | (.ok key leaf, s) =>
    if leaf.type != 0 then .trap 0x14 addr 0 s
    else
      let d := (s.team s.curTeam).dirty
      let held := (span va n).all fun a => (d.find? a).isSome
      match (if held then some s else s.hbm key n) with
      | none => .wait .budget s
      | some s =>
        .ok (((span va n).zip (s.pageRead s.curCtx leaf.prot key n)).map fun (a, b) => (d.find? a).getD b) s

/-- Reads the pieces of a private access in order. -/
def privPiecesRead (s : State) (addr : W64) : List (Nat × Nat) → Res (List Byte)
  | [] => .ok [] s
  | (off, n) :: ps =>
    (s.privPiece addr (s.privVa s.iss.cur off) n).andThen fun bs s =>
      (privPiecesRead s addr ps).andThen fun cs s => .ok (bs ++ cs) s

/-- The limit of private accesses that `sr.stklim` sets (R99). -/
def privCheck (s : State) (off n : Nat) : Res Unit :=
  if off % n != 0 then .trap 0x11 (privAddr off) 0 s
  else if s.opnd.stklim.toNat < off + n then .trap 0x12 (privAddr off) 0 s
  else .ok () s

/-- A private load (R414, R415). -/
def loadPriv (s : State) (off n : Nat) : Res (List Byte) :=
  (s.privCheck off n).andThen fun _ s => s.privPiecesRead (privAddr off) (privPieces off n)

/-- The translation checks of the pieces of a private store: every page is normal or faults without being fatal, and the side log has room
for the pieces that fault (R116, R126, R128). -/
def privWritable (s : State) (addr : W64) (logged : List Nat) : List (Nat × Nat) → Res Unit
  | [] => if logged.isEmpty || s.logRoom 0 logged then .ok () s else .wait .sideLog s
  | (off, _) :: ps =>
    let va := s.privVa s.iss.cur off
    match s.xlatThread va .write with
    | (.fatal, s) => .gone s
    | (.hold recorded, s) => if !recorded then .wait .translation s else privWritable s addr (va :: logged) ps
    | (.ok _ leaf, s) => if leaf.type != 0 then .trap 0x14 addr 0 s else privWritable s addr logged ps

/-- The jobs that copy the stack of a team to its clones and have not finished, by serial (R147). -/
def stackCopies (s : State) (t : Nat) : List Nat :=
  s.cores.flatMap fun e => (e.2.jobs.filter fun j => j.team == t && j.cloneOf.any fun x => x.2 == ClonePart.stack).map (·.serial)

/-- Keeps what a span of a forking team's stack held, for image jobs of its clones by serial (R149). -/
def keepOld (s : State) (serials : List Nat) (va : Nat) (old : List Byte) : State :=
  { s with cores := s.cores.mapVals fun _ k => { k with jobs := k.jobs.map fun (j : Job) =>
      if (serials.contains j.serial) then
        { j with keep := ((span va old.length).zip old).foldl (fun m e =>
            if (m.find? e.1).isSome then m else m.set e.1 e.2) j.keep }
      else j } }

/-- The core whose L1 holds a private line of a team: that of the line's group, which is the upper one for an odd group of a twin
(R35, R97, R100). -/
def lineCore (s : State) (t line : Nat) : Nat :=
  let x := s.team t
  let bytes := s.stackBytes x.ctx
  let g := (line * 64 - s.slotBase x.ctx (x.slot.getD 0)) / max 1 (x.record.width * bytes)
  if x.record.twin && g % 2 == 1 then x.core + 1 else x.core

/-- Writes one dirty line of a team back to its home; a line whose page faults, or whose memory controller has no share of the
budget left, stays dirty (R91, R100). DESIGN CHOICE (log 51): only the dirty bytes of the line are written, so that a global store to one of
its clean bytes stands (R101). -/
def writeBackLine (s : State) (t line : Nat) : State :=
  let x := s.team t
  let bytes := x.dirty.filter fun e => e.1 / 64 == line
  if bytes.isEmpty then s
  else match s.newRequest.xlat x.ctx (line * 64) .write 0 (s.lineCore t line) 0 with
    | (.ok key leaf, s) =>
      match s.memTurn x.ctx key 64 with
      | none => s
      | some s =>
        let s := s.keepOld (s.stackCopies t) (line * 64) (s.pageRead x.ctx leaf.prot key 64)
        let s := bytes.foldl (fun s e => s.writeView x.ctx 0 leaf.prot (key + e.1 % 64) [e.2]) s
        s.onTeam t fun x => { x with dirty := x.dirty.filter fun e => e.1 / 64 != line }
    | (_, s) => s

/-- The lines of which a core's L1 holds dirty bytes of private stacks, each with its team. -/
def dirtyLines (s : State) (k : Nat) : List (Nat × Nat) :=
  s.teams.flatMap fun e =>
    ((linesOf e.2.dirty).filter fun l => s.lineCore e.1 l == k).map fun l => (e.1, l)

/-- Writes back one of several dirty lines, the first whose page and budget allow it, and says whether one has been. -/
def evictLine (s : State) : List (Nat × Nat) → Bool × State
  | [] => (false, s)
  | e :: es =>
    let s := s.writeBackLine e.1 e.2
    if (linesOf (s.team e.1).dirty).contains e.2 then evictLine s es else (true, s)

/-- Makes room in the current core's L1 of 128 KiB, 2,048 lines, for lines that the current team's private stack is to have there dirty (R17,
R100). DESIGN CHOICE (log 52): which line is written back is left open, and a store for which none can be tries again. -/
def l1Room (lines : List Nat) : Nat → State → Res Unit
  | 0, s => .ok () s
  | fuel + 1, s =>
    if (s.teams.map fun e => e.2.dirty.length).sum + lines.length ≤ 2048 then .ok () s
    else
      let held := s.dirtyLines s.curCore
      let new := lines.eraseDups.filter fun l => !held.contains (s.curTeam, l)
      if held.length + new.length ≤ 2048 then .ok () s
      else
        let old := held.filter fun e => !(e.1 == s.curTeam && lines.contains e.2)
        match s.draw.evictLine (old.rotateLeft (Config.choice s.free % max 1 old.length)) with
        | (true, s) => l1Room lines fuel s
        | (false, s) => .wait .ready s

/-- Stores one piece: into the L1, or into the side log while its page is under fault, where it replaces the bytes that the L1 holds dirty
(R100, R126). -/
def privPut (s : State) (va : Nat) (bs : List Byte) : State :=
  match s.xlatThread va .write with
  | (.ok _ _, s) => s.onTeam s.curTeam fun t => { t with dirty := tabPut t.dirty va bs }
  | (_, s) =>
    let e := { s.logEntry 0 va (.store bs) with keepFor := s.stackCopies s.curTeam }
    ((s.drainWc s.iss.cur).logTo s.curCore e).onTeam s.curTeam fun t =>
      { t with dirty := t.dirty.filter fun d => d.1 < va || va + bs.length ≤ d.1 }

/-- Stores the pieces of a private access in order. -/
def privPiecesWrite (s : State) (bs : List Byte) : List (Nat × Nat) → State
  | [] => s
  | (off, n) :: ps => (s.privPut (s.privVa s.iss.cur off) (bs.take n)).privPiecesWrite (bs.drop n) ps

/-- A store to the private stack without the limit check (R359). -/
def putPriv (s : State) (off : Nat) (bs : List Byte) : Res Unit :=
  let ps := privPieces off bs.length
  (s.privWritable (privAddr off) [] ps).andThen fun _ s =>
    (l1Room (ps.map fun e => s.privVa s.iss.cur e.1 / 64) 3 s).andThen fun _ s => .ok () (s.privPiecesWrite bs ps)

/-- A private store (R454). -/
def storePriv (s : State) (off : Nat) (bs : List Byte) : Res Unit :=
  (s.privCheck off bs.length).andThen fun _ s => s.putPriv off bs

/-! ## Loads and stores through a generic address (R94, R95, R414, R454) -/

/-- Whether a request is outstanding: its value has not been written yet. -/
def awaited (s : State) (e : Nat × Nat) : Bool := (s.thread e.1).regPending e.2

/-- Whether the current core can send one more memory request: fewer than 256 are outstanding (R17). DESIGN CHOICE (log 52): a load or an atomic
with a result from global memory is a request until its value is written, and a thread that finds 256 stays ready and tries again. -/
def requestRoom (s : State) : Bool := ((s.core s.curCore).requests.filter s.awaited).length < 256

/-- Notes that the value of a register of the current thread is awaited from memory (R17). -/
def requested (s : State) (memory : Bool) (d : Reg) : State :=
  if memory then s.onCore s.curCore fun k => { k with requests := k.requests.filter s.awaited ++ [(s.iss.cur, d.toNat)] } else s

/-- A load through a generic address. -/
def loadGeneric (s : State) (a : W64) (n : Nat) : Res (List Byte) :=
  match window a with
  | .none => .trap 0x10 a 0 s
  | .priv off => s.loadPriv off n
  | .scratch off => s.loadSp off n
  | .global va => if va % n != 0 then .trap 0x11 a 0 s else if !s.requestRoom then .wait .ready s else s.loadGlobal va n false

/-- A store through a generic address. -/
def storeGeneric (s : State) (a : W64) (bs : List Byte) : Res Unit :=
  match window a with
  | .none => .trap 0x10 a 0 s
  | .priv off => s.storePriv off bs
  | .scratch off => s.storeSp off bs
  | .global va => if va % bs.length != 0 then .trap 0x11 a 0 s else s.storeGlobal va bs

/-- The window and alignment checks of an address that must be global (R347, R379, R444, R451). -/
def checkGlobal (s : State) (a : W64) (align : Nat) : Res Unit :=
  (require s (isGlobal a) 0x10 a).andThen fun _ s => require s (a.toNat % align == 0) 0x11 a

/-- A read-modify-write of a word on a normal page at one place in the order: the old value, and the new one written where
the function gives one (R125, R83, R84). -/
def rmwGlobal (s : State) (va n : Nat) (f : Nat → Option Nat) (key : Nat) (leaf : TlbEntry) : Res Nat :=
  let c := s.curCtx
  let w := if leaf.type = 0 && !leaf.wshared then s.curView else 0
  if !s.cellReady c w key then .trap 0x23 (BitVec.ofNat 64 va) 0 s
  else if s.mustDrain leaf then .wait .sideLog s
  else match s.hbm key n with
    | none => .wait .budget s
    | some s =>
      let s := s.notePage c w va
      let s := if 2 ≤ leaf.type then (if leaf.type = 3 then s.drainWc s.iss.cur else s).markExternal else s
      let old := leNat (s.readView c w leaf.prot key n)
      match f old with
      | some new => .ok old (s.writeView c w leaf.prot key (natLe n new))
      | none => .ok old s

end State

end Sys2Proof.Machine
end

