-- ==== Sys2Proof/Machine/Alu.lean ====
section
/-! DEFINITION. The ALU pipe but for special registers: integer arithmetic, logic, shifts, bit fields, compares, predicates and
moves (R344 to R364, R417 to R435, R448 to R463). Every result is of fixed latency. -/

namespace Sys2Proof.Machine

/-- The touches of single registers. -/
def regs (rs : List Reg) : List Touch := rs.map fun r => .reg r.toNat

/-- The touches of a pair (R53). -/
def pair (r : Reg) : List Touch := [.reg r.toNat, .reg (r.toNat + 1)]

/-- The touches of pairs. -/
def pairs (rs : List Reg) : List Touch := rs.flatMap pair

/-- The touches of predicates in the half that m selects (R317). -/
def preds (rs : List Reg) (m : Bool) : List Touch := rs.map fun r => .pred (predNum r m)

/-- A two-operand result on registers, or on pairs when m is set (R344). -/
def alu3 (d a b : Reg) (m : Bool) (f : W32 → W32 → W32) (g : W64 → W64 → W64) (s : State) :
    Host.Outcome State Fault Refusal :=
  if m then issueTo s (pairs [d, a, b]) fun s => s.setVd d (g (s.vd a) (s.vd b))
  else issueTo s (regs [d, a, b]) fun s => s.setV d (f (s.v a) (s.v b))

/-- A result of a register and a second value. -/
def alu2 (d a : Reg) (f : W32 → W32) (s : State) : Host.Outcome State Fault Refusal :=
  issueTo s (regs [d, a]) fun s => s.setV d (f (s.v a))

/-- A result of two registers. -/
def alu (d a b : Reg) (f : W32 → W32 → W32) (s : State) : Host.Outcome State Fault Refusal :=
  issueTo s (regs [d, a, b]) fun s => s.setV d (f (s.v a) (s.v b))

/-- A result of two registers and the old value of the destination. -/
def alu4 (d a b : Reg) (f : W32 → W32 → W32 → W32) (s : State) : Host.Outcome State Fault Refusal :=
  issueTo s (regs [d, a, b]) fun s => s.setV d (f (s.v d) (s.v a) (s.v b))

/-- A compare into a predicate (R364). -/
def compare (d a b : Reg) (m : Bool) (f : W32 → W32 → Bool) (s : State) : Host.Outcome State Fault Refusal :=
  issueTo s (preds [d] m ++ regs [a, b]) fun s => s.setP (predNum d m) (f (s.v a) (s.v b))

/-- Logic of two predicates (R434). -/
def plogic (d a b : Reg) (m : Bool) (f : Bool → Bool → Bool) (s : State) : Host.Outcome State Fault Refusal :=
  issueTo s (preds [d, a, b] m) fun s => s.setP (predNum d m) (f (s.p (predNum a m)) (s.p (predNum b m)))

/-- Logic of one predicate (R434). -/
def plogic1 (d a : Reg) (m : Bool) (f : Bool → Bool) (s : State) : Host.Outcome State Fault Refusal :=
  issueTo s (preds [d, a] m) fun s => s.setP (predNum d m) (f (s.p (predNum a m)))

/-- A shift by a count that is not reduced (R450). -/
def shiftLeft {n : Nat} (x : BitVec n) (c : Nat) : BitVec n := x <<< c
def shiftRight {n : Nat} (x : BitVec n) (c : Nat) : BitVec n := x >>> c
def shiftArith {n : Nat} (x : BitVec n) (c : Nat) : BitVec n := x.sshiftRight c

/-- The count of the register forms, vb[7:0] (R450). -/
def shiftCount (b : W32) : Nat := bitsAt b.toNat 0 8

/-- A shift of a register or, when m is set, of a pair, by a single register (R450). -/
def shift (d a b : Reg) (m : Bool) (f : W32 → Nat → W32) (g : W64 → Nat → W64) (s : State) :
    Host.Outcome State Fault Refusal :=
  if m then issueTo s (pairs [d, a] ++ regs [b]) fun s => s.setVd d (g (s.vd a) (shiftCount (s.v b)))
  else issueTo s (regs [d, a, b]) fun s => s.setV d (f (s.v a) (shiftCount (s.v b)))

def execAdd (d a b : Reg) (m : Bool) (s : State) := alu3 d a b m (· + ·) (· + ·) s
def execAddImm (d a : Reg) (imm : BitVec 7) (s : State) := alu2 d a (· + sext32 imm) s
def execSub (d a b : Reg) (m : Bool) (s : State) := alu3 d a b m (· - ·) (· - ·) s
def execMul (d a b : Reg) (s : State) := alu d a b (· * ·) s
def execMulImm (d a : Reg) (imm : BitVec 7) (s : State) := alu2 d a (· * sext32 imm) s

/-- Bits [63:32] of a 64-bit product (R428). -/
def mulHighS (a b : W32) : W32 := hiHalf (a.signExtend 64 * b.signExtend 64)
def mulHighU (a b : W32) : W32 := hiHalf (a.zeroExtend 64 * b.zeroExtend 64)

def execMulh (d a b : Reg) (m : Bool) (s : State) := alu d a b (if m then mulHighU else mulHighS) s
def execMad (d a b : Reg) (s : State) := alu4 d a b (fun x y z => y * z + x) s
def execAnd (d a b : Reg) (m : Bool) (s : State) := alu3 d a b m (· &&& ·) (· &&& ·) s
def execAndImm (d a : Reg) (imm : BitVec 7) (s : State) := alu2 d a (· &&& sext32 imm) s
def execOr (d a b : Reg) (m : Bool) (s : State) := alu3 d a b m (· ||| ·) (· ||| ·) s
def execOrImm (d a : Reg) (imm : BitVec 7) (s : State) := alu2 d a (· ||| sext32 imm) s
def execXor (d a b : Reg) (m : Bool) (s : State) := alu3 d a b m (· ^^^ ·) (· ^^^ ·) s
def execXorImm (d a : Reg) (imm : BitVec 7) (s : State) := alu2 d a (· ^^^ sext32 imm) s
def execShl (d a b : Reg) (m : Bool) (s : State) := shift d a b m shiftLeft shiftLeft s
def execShlImm (d a : Reg) (imm : BitVec 7) (s : State) := alu2 d a (shiftLeft · imm.toNat) s
def execShr (d a b : Reg) (m : Bool) (s : State) := shift d a b m shiftRight shiftRight s
def execShrImm (d a : Reg) (imm : BitVec 7) (s : State) := alu2 d a (shiftRight · imm.toNat) s
def execSar (d a b : Reg) (m : Bool) (s : State) := shift d a b m shiftArith shiftArith s
def execSarImm (d a : Reg) (imm : BitVec 7) (s : State) := alu2 d a (shiftArith · imm.toNat) s

/-- The lesser and the greater of two registers, unsigned when m is set (R420). -/
def minOf (m : Bool) (a b : W32) : W32 := if (if m then a.ult b else a.slt b) then a else b
def maxOf (m : Bool) (a b : W32) : W32 := if (if m then a.ult b else a.slt b) then b else a

def execMin (d a b : Reg) (m : Bool) (s : State) := alu d a b (minOf m) s
def execMax (d a b : Reg) (m : Bool) (s : State) := alu d a b (maxOf m) s
def execSel (d a b : Reg) (s : State) := alu4 d a b (fun x y z => if x ≠ 0 then y else z) s

/-- The position and the length of a bit field, cut at bit 31 (R354). -/
def fieldPos (b : W32) : Nat := bitsAt b.toNat 0 5
def fieldLen (b : W32) : Nat := min (bitsAt b.toNat 8 6) (32 - fieldPos b)

/-- The mask of a bit field (R354). -/
def fieldMask (b : W32) : W32 := BitVec.ofNat 32 ((2 ^ fieldLen b - 1) <<< fieldPos b)

/-- The extracted field, sign-extended from its top bit when m is set (R355). -/
def extractField (m : Bool) (a b : W32) : W32 :=
  let f := bitsAt a.toNat (fieldPos b) (fieldLen b)
  if fieldLen b = 0 then 0
  else if m && f.testBit (fieldLen b - 1) then BitVec.ofNat 32 (f + 2 ^ 32 - 2 ^ fieldLen b) else BitVec.ofNat 32 f

def execBfx (d a b : Reg) (m : Bool) (s : State) := alu d a b (extractField m) s
def execBfi (d a b : Reg) (s : State) :=
  alu4 d a b (fun x y z => (x &&& ~~~fieldMask z) ||| ((y <<< fieldPos z) &&& fieldMask z)) s
def execCmpEq (d a b : Reg) (m : Bool) (s : State) := compare d a b m (· == ·) s
def execCmpNe (d a b : Reg) (m : Bool) (s : State) := compare d a b m (· != ·) s
def execCmpLt (d a b : Reg) (m : Bool) (s : State) := compare d a b m cmpLtS s
def execCmpLe (d a b : Reg) (m : Bool) (s : State) := compare d a b m cmpLeS s
def execCmpLtu (d a b : Reg) (m : Bool) (s : State) := compare d a b m cmpLtU s
def execCmpLeu (d a b : Reg) (m : Bool) (s : State) := compare d a b m cmpLeU s
def execPand (d a b : Reg) (m : Bool) (s : State) := plogic d a b m (· && ·) s
def execPor (d a b : Reg) (m : Bool) (s : State) := plogic d a b m (· || ·) s
def execPxor (d a b : Reg) (m : Bool) (s : State) := plogic d a b m (· != ·) s
def execPnot (d a : Reg) (m : Bool) (s : State) := plogic1 d a m (!·) s
def execPmov (d a : Reg) (m : Bool) (s : State) := plogic1 d a m id s
def execMovi (d : Reg) (imm : BitVec 13) (s : State) :=
  issueTo s (regs [d]) fun s => s.setV d (sext32 imm)
def execMovh (d : Reg) (imm : BitVec 13) (s : State) :=
  issueTo s (regs [d]) fun s => s.setV d ((s.v d <<< 13) ||| imm.zeroExtend 32)
def execMov (d a : Reg) (s : State) := alu2 d a id s

/-- Zero bits above the highest set bit (R363). -/
def clzOf (a : W32) : W32 := if a = 0 then 32 else BitVec.ofNat 32 (31 - a.toNat.log2)

/-- Set bits (R435). -/
def popcOf (a : W32) : W32 := BitVec.ofNat 32 (((span 0 32).map fun i => b2n (a.getLsbD i)).sum)

def execClz (d a : Reg) (s : State) := alu2 d a clzOf s
def execPopc (d a : Reg) (s : State) := alu2 d a popcOf s
def execLeaS (d a : Reg) (s : State) :=
  issueTo s (pair d ++ regs [a]) fun s => s.setVd d (0xFE00000000000000 + (s.v a).zeroExtend 64)
def execLeaP (d a : Reg) (s : State) :=
  issueTo s (pair d ++ regs [a]) fun s => s.setVd d (0xFD00000000000000 + (s.v a).zeroExtend 64)

end Sys2Proof.Machine
end

