-- ==== Sys2Proof/Machine/Access.lean ====
section
/-! DEFINITION. Loads, stores, atomics, reductions, literals and cache hints of the MEM pipe (R348, R349, R362, R414 to R418,
R436, R440, R441, R454, R455). -/

namespace Sys2Proof.Machine

namespace State

/-- Files the value of a load: a pair for 8 bytes, a zero-extended register otherwise (R414). -/
def loaded (s : State) (d : Reg) (bs : List Byte) : State :=
  if bs.length = 8 then s.laterVd d (BitVec.ofNat 64 (leNat bs)) else s.laterV d (BitVec.ofNat 32 (leNat bs))

/-- The bytes that a store of width n stores: the low bytes of a register, or a pair (R454). -/
def stored (s : State) (d : Reg) (n : Nat) : List Byte :=
  if n = 8 then natLe 8 (s.vd d).toNat else natLe n (s.v d).toNat

end State

/-- The data register or pair of an access of width n. -/
def dataTouch (d : Reg) (n : Nat) : List Touch := if n = 8 then pair d else regs [d]

/-- `ld` of width n (R414). -/
def loadAt (d a : Reg) (imm : BitVec 7) (n : Nat) (s : State) : Host.Outcome State Fault Refusal :=
  issue s (dataTouch d n ++ pair a) fun s =>
    let va := memAddr (s.vd a) imm n
    (s.loadGeneric va n).andThen fun bs s => .ok () ((s.loaded d bs).requested (isGlobal va) d)

/-- `st` of width n (R454). -/
def storeAt (d a : Reg) (imm : BitVec 7) (n : Nat) (s : State) : Host.Outcome State Fault Refusal :=
  issue s (dataTouch d n ++ pair a) fun s => s.storeGeneric (memAddr (s.vd a) imm n) (s.stored d n)

/-- `lds` of width n (R414). -/
def loadSpAt (d a : Reg) (imm : BitVec 7) (n : Nat) (s : State) : Host.Outcome State Fault Refusal :=
  issue s (dataTouch d n ++ regs [a]) fun s =>
    (s.loadSp (memOff (s.v a) imm n).toNat n).andThen fun bs s => .ok () (s.loaded d bs)

/-- `sts` of width n (R454). -/
def storeSpAt (d a : Reg) (imm : BitVec 7) (n : Nat) (s : State) : Host.Outcome State Fault Refusal :=
  issue s (dataTouch d n ++ regs [a]) fun s => s.storeSp (memOff (s.v a) imm n).toNat (s.stored d n)

/-- `ldp` of width n (R414). -/
def loadPrivAt (d a : Reg) (imm : BitVec 7) (n : Nat) (s : State) : Host.Outcome State Fault Refusal :=
  issue s (dataTouch d n ++ regs [a]) fun s =>
    (s.loadPriv (memOff (s.v a) imm n).toNat n).andThen fun bs s => .ok () (s.loaded d bs)

/-- `stp` of width n (R454). -/
def storePrivAt (d a : Reg) (imm : BitVec 7) (n : Nat) (s : State) : Host.Outcome State Fault Refusal :=
  issue s (dataTouch d n ++ regs [a]) fun s => s.storePriv (memOff (s.v a) imm n).toNat (s.stored d n)

def execLdB (d a : Reg) (imm : BitVec 7) (s : State) := loadAt d a imm 1 s
def execLdH (d a : Reg) (imm : BitVec 7) (s : State) := loadAt d a imm 2 s
def execLd (d a : Reg) (imm : BitVec 7) (s : State) := loadAt d a imm 4 s
def execLdD (d a : Reg) (imm : BitVec 7) (s : State) := loadAt d a imm 8 s
def execStB (d a : Reg) (imm : BitVec 7) (s : State) := storeAt d a imm 1 s
def execStH (d a : Reg) (imm : BitVec 7) (s : State) := storeAt d a imm 2 s
def execSt (d a : Reg) (imm : BitVec 7) (s : State) := storeAt d a imm 4 s
def execStD (d a : Reg) (imm : BitVec 7) (s : State) := storeAt d a imm 8 s
def execLdsB (d a : Reg) (imm : BitVec 7) (s : State) := loadSpAt d a imm 1 s
def execLdsH (d a : Reg) (imm : BitVec 7) (s : State) := loadSpAt d a imm 2 s
def execLds (d a : Reg) (imm : BitVec 7) (s : State) := loadSpAt d a imm 4 s
def execLdsD (d a : Reg) (imm : BitVec 7) (s : State) := loadSpAt d a imm 8 s
def execStsB (d a : Reg) (imm : BitVec 7) (s : State) := storeSpAt d a imm 1 s
def execStsH (d a : Reg) (imm : BitVec 7) (s : State) := storeSpAt d a imm 2 s
def execSts (d a : Reg) (imm : BitVec 7) (s : State) := storeSpAt d a imm 4 s
def execStsD (d a : Reg) (imm : BitVec 7) (s : State) := storeSpAt d a imm 8 s
def execLdp (d a : Reg) (imm : BitVec 7) (s : State) := loadPrivAt d a imm 4 s
def execLdpD (d a : Reg) (imm : BitVec 7) (s : State) := loadPrivAt d a imm 8 s
def execStp (d a : Reg) (imm : BitVec 7) (s : State) := storePrivAt d a imm 4 s
def execStpD (d a : Reg) (imm : BitVec 7) (s : State) := storePrivAt d a imm 8 s

/-! ## Atomics (R125, R336, R348, R440) -/

/-- A number of w bytes as a signed integer. -/
def signedOf (w x : Nat) : Int := if x < 2 ^ (8 * w - 1) then x else (x : Int) - 2 ^ (8 * w)

/-- The new value of a read-modify-write of w bytes (R348). -/
def atomNew (op : AtomOp) (w old x cmpv swapv : Nat) : Nat :=
  match op with
  | .add => (old + x) % 2 ^ (8 * w)
  | .smin => if signedOf w old < signedOf w x then old else x
  | .smax => if signedOf w old < signedOf w x then x else old
  | .umin => min old x
  | .umax => max old x
  | .band => old &&& x
  | .bor => old ||| x
  | .bxor => old ^^^ x
  | .exch => x
  | .cas => if old = cmpv then swapv else old
  | .fadd => fAdd fp32 .rne old x

/-- The width of an atomic in bytes (R348). -/
def atomWidth (w64 : Bool) : Nat := if w64 then 8 else 4

namespace State

/-- The operand, or comparand, of an atomic: vd or vd.d. -/
def atomOpnd (s : State) (w64 : Bool) (d : Reg) : Nat := if w64 then (s.vd d).toNat else (s.v d).toNat

/-- The value that `cas` swaps in: v(d+1), or v(d+2).d (R348). -/
def atomSwap (s : State) (w64 : Bool) (d : Reg) : Nat :=
  if w64 then (s.vdn (d.toNat + 2)).toNat else (s.vn (d.toNat + 1)).toNat

/-- The read-modify-write that an atomic performs, from its operands. -/
def atomFn (s : State) (op : AtomOp) (w64 : Bool) (d : Reg) (old : Nat) : Nat :=
  atomNew op (atomWidth w64) old (s.atomOpnd w64 d) (s.atomOpnd w64 d) (s.atomSwap w64 d)

/-- An atomic on the scratchpad: a W access (R106, R131, R348). -/
def atomSp (s : State) (op : AtomOp) (w64 : Bool) (d : Reg) (off : Nat) : Res Nat :=
  let n := atomWidth w64
  (s.spCheck off n n .w).andThen fun _ s =>
    let old := leNat (s.spBytes s.curTeam off n)
    .ok old (s.spPut s.curTeam off (natLe n (s.atomFn op w64 d old)))

/-- An atomic on global memory (R349). -/
def atomGlobal (s : State) (op : AtomOp) (w64 : Bool) (d : Reg) (va : Nat) : Res Nat :=
  let n := atomWidth w64
  match s.xlatThread va .write with
  | (.fatal, s) => .gone s
  | (.hold _, s) => .wait .translation s
  | (.ok key leaf, s) =>
    if leaf.type = 1 then .trap 0x14 (BitVec.ofNat 64 va) 0 s
    else if s.curView ≠ 0 && (leaf.wshared || leaf.type != 0) then .trap 0x15 (BitVec.ofNat 64 va) 0 s
    else s.rmwGlobal va n (fun old => some (s.atomFn op w64 d old)) key leaf

/-- A reduction on global memory (R441). -/
def redGlobal (s : State) (op : AtomOp) (w64 : Bool) (d : Reg) (va : Nat) : Res Unit :=
  let n := atomWidth w64
  let a := BitVec.ofNat 64 va
  let x := BitVec.ofNat 64 (s.atomOpnd w64 d)
  match s.xlatThread va .write with
  | (.fatal, s) => .gone s
  | (.hold recorded, s) => if recorded then s.logPush va (.red op w64 x) else .wait .translation s
  | (.ok key leaf, s) =>
    if s.queuesStore leaf then s.outboxPush (.red op w64 a x) a
    else if leaf.type = 1 then .trap 0x14 a 0 s
    else (s.rmwGlobal va n (fun old => some (s.atomFn op w64 d old)) key leaf).andThen fun _ s => .ok () s

end State

/-- The registers that an atomic touches (R336, R348). -/
def atomTouch (op : AtomOp) (w64 : Bool) (d : Reg) : List Touch :=
  match op, w64 with
  | .cas, true => [.reg d.toNat, .reg (d.toNat + 1), .reg (d.toNat + 2), .reg (d.toNat + 3)]
  | .cas, false => [.reg d.toNat, .reg (d.toNat + 1)]
  | _, true => pair d
  | _, false => regs [d]

/-- `atom` (R348). The scope chooses only the unit that executes it (R114). -/
def execAtom (op : AtomOp) (w64 : Bool) (_ : Scope) (d a : Reg) (s : State) : Host.Outcome State Fault Refusal :=
  issue s (atomTouch op w64 d ++ pair a) fun s =>
    let r : Res Nat := match window (s.vd a) with
      | .none | .priv _ => .trap 0x10 (s.vd a) 0 s
      | .scratch off => s.atomSp op w64 d off
      | .global va => if va % atomWidth w64 != 0 then .trap 0x11 (s.vd a) 0 s else if !s.requestRoom then .wait .ready s else s.atomGlobal op w64 d va
    r.andThen fun old s => .ok () ((s.loaded d (natLe (atomWidth w64) old)).requested (isGlobal (s.vd a)) d)

/-- `red` (R440). -/
def execRed (op : AtomOp) (w64 : Bool) (_ : Scope) (d a : Reg) (s : State) : Host.Outcome State Fault Refusal :=
  issue s (atomTouch op w64 d ++ pair a) fun s =>
    match window (s.vd a) with
    | .none | .priv _ => .trap 0x10 (s.vd a) 0 s
    | .scratch off => (s.atomSp op w64 d off).andThen fun _ s => .ok () s
    | .global va => if va % atomWidth w64 != 0 then .trap 0x11 (s.vd a) 0 s else s.redGlobal op w64 d va

/-! ## Fetching (R318, R322, R418) -/

namespace State

/-- Keeps a word in the instruction cache of the current core, of 64 KiB (R17). DESIGN CHOICE (log 52): which word leaves a full cache is left
open. -/
def cacheWord (s : State) (key : Nat) (w : W32) : State :=
  let m := (s.core s.curCore).icache
  if m.length < 16384 then s.onCore s.curCore fun k => { k with icache := k.icache.set key w }
  else s.draw.onCore s.curCore fun k => { k with icache := Tab.set (m.eraseIdx (Config.choice s.free % m.length)) key w }

/-- Reads a word through the instruction cache of the current core: the cached word, or memory without views (R322, R418). -/
def fetchWord (s : State) (va : W64) : Res W32 :=
  match s.xlatThread (va.toNat % 2 ^ 57) .fetch with
  | (.fatal, s) => .gone s
  | (.hold _, s) => .wait .translation s
  | (.ok key leaf, s) =>
    match (s.core s.curCore).icache.find? key with
    | some w => .ok w s
    | none =>
      match s.hbm key 4 with
      | none => .wait .budget s
      | some s =>
        let w := BitVec.ofNat 32 (leNat (s.pageRead s.curCtx leaf.prot key 4))
        .ok w (s.cacheWord key w)

end State

/-- The address that `lit` reads (R323, R418). -/
def litAddr (word : W64) (imm : BitVec 13) : W64 := (word + sext64 imm * 4) &&& 0x1FFFFFFFFFFFFFF

/-- `lit` (R418). -/
def execLit (d : Reg) (imm : BitVec 13) (s : State) : Host.Outcome State Fault Refusal :=
  issue s (regs [d]) fun s =>
    (s.fetchWord (litAddr s.iss.word imm)).andThen fun w s => .ok () (s.laterV d w)

/-- `pref` changes no value that a load returns, and never traps (R436). -/
def execPref (a : Reg) (_ : BitVec 7) (s : State) : Host.Outcome State Fault Refusal := issueTo s (pair a) id

/-! ## Write-back of the private stack (R100, R362) -/

namespace State

/-- Writes every dirty line of a team back. -/
def writeBackTeam (s : State) (t : Nat) : State :=
  (dedupNat ((s.team t).dirty.map fun e => e.1 / 64)).foldl (fun s line => s.writeBackLine t line) s

end State

/-- `clean` (R362): writes a dirty private line back; a global line is only dropped from the L1. -/
def execClean (a : Reg) (s : State) : Host.Outcome State Fault Refusal :=
  issue s (pair a) fun s =>
    match window (s.vd a) with
    | .none => .trap 0x10 (s.vd a) 0 s
    | .priv off => .ok () (s.writeBackLine s.curTeam (s.privVa s.iss.cur off / 64))
    | _ => .ok () s

end Sys2Proof.Machine
end

