-- ==== Sys2Proof/Machine/Team.lean ====
section
/-! DEFINITION. Task records and their acceptance (R63 to R69, R73), the registers of groups and cores (R53 to R56), and what
becomes of a team's resources when it ends (R34, R204, R295, R296). -/

namespace Sys2Proof.Machine

/-! ## Task records -/

/-- The grid extents of a record, 0 counting as 1 (R67). -/
def TaskRecord.extents (r : TaskRecord) : Nat × Nat × Nat := (max 1 r.ex.toNat, max 1 r.ey.toNat, max 1 r.ez.toNat)

/-- The teams of a record's grid (R67). -/
def TaskRecord.teams (r : TaskRecord) : Nat := r.extents.1 * r.extents.2.1 * r.extents.2.2

/-- The SEQ of a record's 64 bytes (R64). -/
def recordSeq (bs : List Byte) : Nat := leNat ((bs.drop 60).take 2)

/-- Reads a record's fields (R63, R64). -/
def readRecord (bs : List Byte) : TaskRecord :=
  let at_ (off n : Nat) := leNat ((bs.drop off).take n)
  let shape := at_ 36 4
  { entry := BitVec.ofNat 64 (at_ 0 8), args := BitVec.ofNat 64 (at_ 8 8), x := BitVec.ofNat 32 (at_ 16 4),
    y := BitVec.ofNat 32 (at_ 20 4), z := BitVec.ofNat 32 (at_ 24 4), succ := BitVec.ofNat 64 (at_ 28 8),
    groups := bitsAt shape 0 4 + 1, width := 16 * 2 ^ bitsAt shape 4 2, regs := bitsAt shape 6 6 + 1,
    twin := bitAt shape 12, idem := bitAt shape 13, prio := bitsAt shape 16 3, scratch := bitsAt shape 19 9 + 1,
    roles := BitVec.ofNat 32 (at_ 40 4), ex := BitVec.ofNat 32 (at_ 44 4), ey := BitVec.ofNat 32 (at_ 48 4),
    ez := BitVec.ofNat 32 (at_ 52 4), ctxtag := 0, seq := BitVec.ofNat 16 (at_ 60 2), origin := 0 }

/-- The checks of acceptance (R64, R66). -/
def recordValid (bs : List Byte) : Bool :=
  let r := readRecord bs
  let shape := leNat ((bs.drop 36).take 4)
  bitsAt shape 4 2 != 3 && r.regs % 8 == 0 && bitsAt shape 14 2 == 0 && bitsAt shape 28 4 == 0 &&
    (r.twin || r.scratch ≤ 256) && bitsAt (leNat ((bs.drop 60).take 4)) 18 14 == 0 &&
    r.entry.toNat % 12 == 0 && r.teams ≤ 2 ^ 32 - 1 && isGlobal r.args &&
    (r.succ == 0 || (isGlobal r.succ && r.succ.toNat % 128 == 0))

namespace State

/-- Queues team number t of an accepted record at a queue engine (R67, R78). -/
def queueTeam (s : State) (c : Nat) (r : TaskRecord) (die t : Nat) : State :=
  let (ex, ey, _) := r.extents
  let x : Team := { Team.queued with
    ctx := c, record := r, die := die, core := noCore, tx := r.x + BitVec.ofNat 32 (t % ex),
    ty := r.y + BitVec.ofNat 32 (t / ex % ey), tz := r.z + BitVec.ofNat 32 (t / (ex * ey)), firstQueued := s.cycle }
  (s.setTeam s.serial x).bump

/-- Accepts a record that was read at an address (R65, R66): an invalid one leaves a launch-error record, a valid one becomes its
teams. The die of team t is given by a function of t. DEDUCED (log 33): ADDR of the launch-error record is the record's own address,
the "record" of R285, and 0 for a record that another module has sent. -/
def acceptRecord (s : State) (c : Nat) (addr : W64) (bs : List Byte) (origin : Nat) (prio : Option Nat) (die : Nat → Nat)
    (source : Nat) : State :=
  if recordValid bs then
    let r := readRecord bs
    let r := { r with ctxtag := BitVec.ofNat 32 c, origin := origin, prio := prio.getD r.prio }
    (span 0 r.teams).foldl (fun s t => s.queueTeam c r (die t) t) s
  else s.errorRecord c 0x01 0 0 addr (recordSeq bs) source

/-- The die that a host or remote record's team goes to (R73). -/
def dealDie (s : State) (c seq t : Nat) : Nat :=
  let ds := s.ctxDies c
  ds.getD ((seq + t) % max 1 ds.length) 0

/-! ## Threads of a team -/

/-- The threads of a team, by number. -/
def threadsOf (s : State) (t : Nat) : List Nat :=
  (s.threads.filter fun e => teamOf e.1 == t).map fun e => e.1

/-- The live threads of a team, by ascending tid (R34). -/
def liveOf (s : State) (t : Nat) : List Nat := (s.threadsOf t).filter fun i => (s.thread i).live

/-- The live threads of a group. -/
def liveOfGroup (s : State) (g : Nat) : List Nat := (s.liveOf (g / 16)).filter fun i => s.groupOf i == g

/-- The groups of a team that are still placed. -/
def groupsOf (s : State) (t : Nat) : List Nat := (s.groups.filter fun e => e.1 / 16 == t).map fun e => e.1

/-! ## Registers of a core (R36, R53 to R56) -/

/-- Registers of a core that no group holds. -/
def freeRegs (s : State) (k : Nat) : Nat :=
  65536 - ((s.groups.filter fun e => e.2.core == k).map fun e =>
    e.2.count * (s.team (e.1 / 16)).record.width).sum

/-- Threads that reside on a core. -/
def residents (s : State) (k : Nat) : Nat :=
  ((s.groups.filter fun e => e.2.core == k).map fun e => (s.team (e.1 / 16)).record.width).sum

/-- Lowers a group's count to the greatest limit of its live threads (R54). -/
def lowerCount (s : State) (g : Nat) : State :=
  let live := s.liveOfGroup g
  let n := live.foldl (fun m i => max m (s.thread i).limit) 0
  if live.isEmpty || (s.group g).count ≤ n then s else s.onGroup g fun x => { x with count := n }

/-! ## What a team leaves behind (R68, R204, R205, R296) -/

/-- The fields of a transaction barrier (R205). -/
structure Barrier where
  phase : Nat
  pending : Nat
  reload : Nat
  sectors : Nat
  armed : Bool
  error : Bool
  resvd : Nat
deriving DecidableEq, Repr

end State

/-- Reads a barrier from its 16 bytes (R205). -/
def readBarrier (bs : List Byte) : State.Barrier :=
  let x := leNat bs
  ⟨bitsAt x 0 4, bitsAt x 4 20, bitsAt x 24 20, bitsAt x 44 32, bitAt x 76, bitAt x 77, bitsAt x 78 50⟩

/-- The 16 bytes of a barrier (R205). -/
def State.Barrier.bytes (b : State.Barrier) : List Byte :=
  natLe 16 (b.phase % 16 + b.pending * 2 ^ 4 + b.reload * 2 ^ 24 + b.sectors * 2 ^ 44 + b2n b.armed * 2 ^ 76
    + b2n b.error * 2 ^ 77 + b.resvd * 2 ^ 78)

/-- What every update applies (R206). -/
def State.Barrier.advance (b : State.Barrier) : State.Barrier :=
  if b.pending = 0 ∧ b.sectors = 0 then { b with phase := (b.phase + 1) % 16, pending := b.reload, armed := false }
  else b

namespace State

/-- The barrier at an offset of a team's scratchpad. -/
def barrier (s : State) (t off : Nat) : Barrier := readBarrier (s.spBytes t off 16)

/-- Writes a barrier and wakes the threads of the team that wait at one (R352). -/
def putBarrier (s : State) (t off : Nat) (b : Barrier) : State := (s.spPut t off b.bytes).wakeTeam t .barrier

/-- The jobs of a team on its cores. -/
def jobsOf (s : State) (t : Nat) : List Job :=
  (s.coresOfTeam t).flatMap fun k => (s.core k).jobs.filter fun j => j.team == t

/-- Whether a job copies the scratchpad of a team to a clone (R147). -/
def copiesSp (t : Nat) (j : Job) : Bool := j.team == t && j.cloneOf.any fun e => e.2 == ClonePart.scratch

/-- Changes the jobs that have still to copy the scratchpad of a team to its clones. -/
def onImages (s : State) (t : Nat) (f : Job → Job) : State :=
  if !(s.jobsOf t).any (copiesSp t) then s
  else (s.coresOfTeam t).foldl (fun s k => s.onCore k fun y =>
    { y with jobs := y.jobs.map fun j => if copiesSp t j then f j else j }) s

/-- Keeps a barrier as it stands for the images of a team that have still to be copied, before a job issued after their `fork` is counted on
it (R149). -/
def keepBarrier (s : State) (t off : Nat) : State :=
  s.onImages t fun j => if (j.keep.find? off).isSome then j else { j with keep := tabPut j.keep off (s.spBytes t off 16) }

/-- Updates a barrier for a job: in the scratchpad, and in what those images keep of it whose `fork` came after the job (R149, R206). -/
def updateBarrier (s : State) (t off serial : Nat) (f : Barrier → Barrier) : State :=
  (s.onImages t fun j => if serial < j.serial && (j.keep.find? off).isSome then
      { j with keep := tabPut j.keep off (f (readBarrier (tabBytes j.keep off 16))).bytes }
    else j).putBarrier t off (f (s.barrier t off))

/-- Takes the sectors of a stopped job that will never land off its barrier and sets ERROR (R203). DESIGN CHOICE (log 30): a barrier that awaits
fewer sectors than that, since software has written it meanwhile, awaits none, without a wrap or a cause of its own. -/
def barrierStop (s : State) (t off serial n : Nat) : State :=
  s.updateBarrier t off serial fun b => { b with sectors := b.sectors - n, error := true }.advance

/-- The barriers that the device examines at a team's end (R296): those of unfinished counted jobs, and those waited on. -/
def examined (s : State) (t : Nat) : List Nat :=
  dedupNat ((s.jobsOf t).filterMap (fun j => j.bar) ++ (s.liveOf t).filterMap fun i => (s.thread i).barAt)

/-- One record for each examined barrier that is armed and incomplete (R296). -/
def abandonBarriers (s : State) (t : Nat) (offs : List Nat) : State :=
  let x := s.team t
  offs.foldl (fun s off =>
    let b := s.barrier t off
    if b.armed && (b.sectors != 0 || b.pending != 0) then
      s.errorRecord x.ctx 0x06 0 0 (scratchAddr off) x.record.seq.toNat x.core
    else s) s

/-- Takes a team's claims and active-set slots off its cores (R55, R483). -/
def clearSlots (s : State) (t : Nat) : State :=
  (s.coresOfTeam t).foldl (fun s k => s.onCore k fun y =>
    { y with claims := y.claims.filter fun c => c.group / 16 != t,
             slots := y.slots.filter fun e => e.2.group / 16 != t && (e.2.incoming.getD e.2.group) / 16 != t }) s

/-- Takes a team's groups, threads, claims and active-set slots off its cores (R34, R483). -/
def clearCores (s : State) (t : Nat) : State :=
  let s := (s.clearSlots t).takeBackOuts fun i => teamOf i == t
  { s with threads := s.threads.filter fun e => teamOf e.1 != t, groups := s.groups.filter fun e => e.1 / 16 != t }

/-- The successor decrement of a team that ends in the root view (R68, R69): held while its page faults. -/
def decrementSuccessor (s : State) (t : Nat) : Option State :=
  let x := s.team t
  if x.record.succ = 0 then some s
  else match s.xlat x.ctx x.record.succ.toNat .write 0 x.core 0 with
    | (.fatal, s) => some s
    | (.hold _, _) => none
    | (.ok key leaf, s) =>
      match s.newRequest.memTurn x.ctx key 8 with
      | none => none
      | some s =>
        let n := BitVec.ofNat 64 (leNat (s.pageRead x.ctx leaf.prot key 8)) - 1
        let s := s.writeView x.ctx 0 leaf.prot key (natLe 8 n.toNat)
        if n = 0 then
          let s := (s.memTurn x.ctx (key + 64) 64).getD s
          some (s.acceptRecord x.ctx (x.record.succ + 64) (s.pageRead x.ctx leaf.prot (key + 64) 64) 3 none
            (fun _ => x.core / 96) x.core)
        else if n.toInt < 0 then some (s.errorRecord x.ctx 0x02 0 0 x.record.succ x.record.seq.toNat x.core)
        else some s

/-- The state of a fault that holds a team's end is kept: the page under fault is noted (R100). -/
def touchSuccessor (s : State) (t : Nat) : State :=
  let x := s.team t
  (s.xlat x.ctx x.record.succ.toNat .write 0 x.core 0).2

/-- A run time folded into the estimate of its pair (R287). -/
def updateEstimate (s : State) (die c : Nat) (entry : W64) (r : Nat) : State :=
  let es := (s.engine die).ests
  let old := es.find? fun e => e.ctx == c && e.entry == entry
  let new := match old with
    | none => r
    | some e => ((e.cycles : Int) + ((r : Int) - e.cycles).fdiv 8).toNat
  let rest := es.filter fun e => !(e.ctx == c && e.entry == entry)
  s.setEngine die { s.engine die with ests := (⟨c, entry, new⟩ :: rest).take 256 }

/-- The run time of a team: the cycles since its latest start or restore (R286). -/
def runTime (s : State) (t : Nat) : Nat := s.cycle - (s.team t).startedAt

/-- Gives back the room that an image takes in a shadow store (R288). -/
def freeImage (s : State) (t : Nat) : State :=
  match (s.team t).image with
  | none => s
  | some x => s.onCore x.core fun k => { k with shadow := k.shadow - x.shadow }

end State

end Sys2Proof.Machine
end

