-- ==== Sys2Proof/Machine/Engine.lean ====
section
/-! DEFINITION. The copy unit: tensor descriptors (R194, R195), their checks (R197, R199 to R201, R409, R437, R460), acceptance
(R129 to R133, R198), and the units of data that a job moves (R196, R199 to R201). -/

namespace Sys2Proof.Machine

/-! ## Descriptors -/

/-- Reads a descriptor's 128 bytes (R194, R195). -/
def readDesc (bs : List Byte) : Desc :=
  let at_ (off n : Nat) := leNat ((bs.drop off).take n)
  let ctrl := at_ 8 4
  { gbase := BitVec.ofNat 64 (at_ 0 8), ndim := bitsAt ctrl 0 4, esz := 2 ^ bitsAt ctrl 4 2, dir := bitsAt ctrl 6 2,
    kind := bitsAt ctrl 8 2, ooberr := bitAt ctrl 10, res := bitsAt ctrl 16 4, fill := BitVec.ofNat 32 (at_ 12 4),
    loc := at_ 16 4, param := BitVec.ofNat 32 (at_ 20 4), bound := (span 0 10).map fun i => at_ (24 + 4 * i) 4,
    stride := (span 0 9).map fun i => at_ (64 + 4 * i) 4, box := (span 0 10).map fun i => at_ (100 + 2 * i) 2,
    aux0 := at_ 120 4, aux1 := at_ 124 4 }

/-- Reserved bits of CTRL are zero (R195). -/
def ctrlClean (bs : List Byte) : Bool :=
  let ctrl := leNat ((bs.drop 8).take 4)
  bitsAt ctrl 11 5 == 0 && bitsAt ctrl 20 12 == 0

namespace Desc

def boundAt (d : Desc) (i : Nat) : Nat := d.bound.getD i 0
def strideAt (d : Desc) (i : Nat) : Nat := if i = 0 then 1 else d.stride.getD (i - 1) 0
def boxAt (d : Desc) (i : Nat) : Nat := d.box.getD i 0
def dims (d : Desc) : List Nat := span 0 (d.ndim + 1)

/-- The elements of the box. -/
def elems (d : Desc) : Nat := d.dims.foldl (fun n i => n * d.boxAt i) 1

/-- Index i of a dimension in the tuple of linear order q (R196). -/
def index (d : Desc) (q i : Nat) : Nat := q / ((span 0 i).foldl (fun n j => n * d.boxAt j) 1) % d.boxAt i

/-- The local pitch of a descriptor; a quant has none (R197). -/
def pitch (d : Desc) : Nat := if d.kind = 3 then 0 else d.aux0

/-- The destination format, its payload bits and block length, of a quant (R195, R201). -/
def qfmt (d : Desc) : Nat := bitsAt d.param.toNat 0 4
def qlen (d : Desc) : Nat := if isDn d.qfmt then 16 else 32
def qbits (d : Desc) : Nat := fmtBits d.qfmt

end Desc

/-- A coordinate offset of a dimension (R196). -/
def coordAt (c0 c1 c2 : Int) (i : Nat) : Int := match i with | 0 => c0 | 1 => c1 | 2 => c2 | _ => 0

/-- Where a byte that a job moves comes from: global memory, a scratchpad offset, or FILL. -/
inductive Src where
  | global (va : Nat)
  | loc (off : Nat)
  | fill (b : Byte)
deriving DecidableEq, Repr

/-- One unit of data that a job moves at once: the destination sectors it counts, and the bytes or the block it writes. -/
inductive Piece where
  | bytes (ids : List Nat) (ws : List (Nat × Src))
  | block (ids : List Nat) (k : Nat) (srcs : List (List Src))
deriving DecidableEq, Repr

/-- The destination sectors that a unit counts. -/
def Piece.ids : Piece → List Nat
  | .bytes ids _ => ids
  | .block ids _ _ => ids

namespace Job

def c (j : Job) (i : Nat) : Int := coordAt j.c0 j.c1 j.c2 i

/-- A coordinate of element q (R196). -/
def coord (j : Job) (q i : Nat) : Int := j.desc.index q i + j.c i

/-- Whether element q lies inside the tensor (R196). -/
def inbounds (j : Job) (q : Nat) : Bool :=
  j.desc.dims.all fun i => 0 ≤ j.coord q i && j.coord q i < j.desc.boundAt i

/-- The tensor address of element q (R196). -/
def gaddr (j : Job) (q : Nat) : Nat :=
  let off := (j.desc.dims.map fun i => (j.desc.esz * j.desc.strideAt i : Int) * j.coord q i).sum
  let base := if j.desc.dir = 3 then bitsAt j.desc.gbase.toNat 0 24 else j.desc.gbase.toNat
  (base + off).toNat

/-- The local address of element q (R196). -/
def laddr (j : Job) (q : Nat) : Nat :=
  let d := j.desc
  if d.pitch = 0 then d.loc + d.esz * q else d.loc + d.esz * d.index q 0 + d.pitch * (q / d.boxAt 0)

/-- The FILL byte at position e of an element (R194). -/
def fillByte (j : Job) (e : Nat) : Byte := BitVec.ofNat 8 (j.desc.fill.toNat >>> (8 * (e % 4)))

/-- The byte at position e of a tensor address. -/
def tensorSrc (j : Job) (a : Nat) : Src := if j.desc.dir = 3 then .loc a else .global a

/-- The bytes that a copy writes for element q (R196). -/
def copyBytes (j : Job) (q : Nat) : List (Nat × Src) :=
  let inb := j.inbounds q
  (span 0 j.desc.esz).filterMap fun e =>
    if j.desc.dir = 1 then (if inb then some (j.gaddr q + e, .loc (j.laddr q + e)) else none)
    else some (j.laddr q + e, if inb then j.tensorSrc (j.gaddr q + e) else .fill (j.fillByte e))

/-- The parameters of an unfold (R195). -/
def uf (j : Job) (lo w : Nat) : Nat := bitsAt j.desc.param.toNat lo w

/-- The columns and rows of an unfold's patch matrix (R200). -/
def ufCols (j : Job) : Nat := j.desc.boxAt 0 * (j.uf 0 4 + 1) * (j.uf 4 4 + 1)
def ufRows (j : Job) : Nat := j.desc.boxAt 1 * j.desc.boxAt 2 * j.desc.boxAt 3

/-- The bytes that an unfold writes for column col of row row (R200). -/
def unfoldBytes (j : Job) (row col : Nat) : List (Nat × Src) :=
  let d := j.desc
  let kw := j.uf 4 4 + 1
  let i0 := col % d.boxAt 0
  let kx := col / d.boxAt 0 % kw
  let ky := col / d.boxAt 0 / kw
  let i1 := row % d.boxAt 1
  let i2 := row / d.boxAt 1 % d.boxAt 2
  let i3 := row / d.boxAt 1 / d.boxAt 2
  let x : Int := (j.c1 + i1) * (j.uf 11 3 + 1 : Nat) - j.uf 23 3 + kx * (j.uf 17 3 + 1)
  let y : Int := (j.c2 + i2) * (j.uf 8 3 + 1 : Nat) - j.uf 20 3 + ky * (j.uf 14 3 + 1)
  let ch : Int := j.c0 + i0
  let ok := 0 ≤ ch && ch < d.boundAt 0 && 0 ≤ x && x < d.boundAt 1 && 0 ≤ y && y < d.boundAt 2 && i3 < d.boundAt 3
  let src := (d.gbase.toNat + d.esz * (ch + d.strideAt 1 * x + d.strideAt 2 * y + d.strideAt 3 * i3)).toNat
  let dst := d.loc + d.esz * col + (if d.pitch = 0 then d.esz * j.ufCols else d.pitch) * row
  (span 0 d.esz).map fun e => (dst + e, if ok then .global (src + e) else .fill (j.fillByte e))

/-- The row pitch of a gath in its scratchpad (R409). -/
def gathPitch (j : Job) : Nat := if j.desc.pitch = 0 then j.desc.esz * j.desc.boxAt 0 else j.desc.pitch

/-- The bytes of element i0 of row r of a gath, whose index is ix (R409). -/
def gathBytes (j : Job) (r i0 ix : Nat) : List (Nat × Src) :=
  let d := j.desc
  let co := j.c0 + i0
  let g := (d.gbase.toNat + d.esz * (co + d.strideAt 1 * ix)).toNat
  let l := d.loc + d.esz * i0 + j.gathPitch * r
  let ok := ix < d.boundAt 1 && 0 ≤ co && co < d.boundAt 0
  (span 0 d.esz).filterMap fun e =>
    if d.dir = 1 then (if ix < d.boundAt 1 then some (g + e, .loc (l + e)) else none)
    else some (l + e, if ok then .global (g + e) else .fill (j.fillByte e))

/-- Bytes grouped into one unit for each destination sector of 32 bytes, rising. -/
def bySector (ws : List (Nat × Src)) : List Piece :=
  (ws.foldl (fun acc w => insertNat (w.1 / 32) acc) []).map fun k => .bytes [k] (ws.filter fun w => w.1 / 32 == k)

/-- The units of row r of a gath (R409): each sector of the row, named by row and place. -/
def gathRow (j : Job) (r : Nat) : List Piece :=
  let d := j.desc
  let ix := j.idx.getD r 0
  let ws := (span 0 (d.boxAt 0)).flatMap fun i0 => j.gathBytes r i0 ix
  if d.dir = 1 then
    let n := d.esz * d.boxAt 0 / 32
    (span 0 n).map fun k => .bytes [r * n + k] ((ws.drop (32 * k)).take 32)
  else bySector ws

/-- The offset of the payload, scale and micro bytes of block k of a quant (R201). -/
def qPayload (j : Job) (k : Nat) : Nat := j.desc.loc + k * (j.desc.qlen * j.desc.qbits / 8)
def qBlock0 (j : Job) : Nat := 8 * j.desc.loc / j.desc.qbits / j.desc.qlen
def qScale (j : Job) (sc0 k : Nat) : Nat := if j.desc.dir = 0 then j.desc.aux0 + k else 16 * sc0 + j.qBlock0 + k
def qMicro (j : Job) (sc1 k : Nat) : Nat := if j.desc.dir = 0 then j.desc.aux1 + k else 16 * sc1 + j.qBlock0 + k

/-- The source bytes of element q of a quant; FILL where it lies outside the tensor (R201). -/
def qSrc (j : Job) (q : Nat) : List Src :=
  (span 0 4).map fun e => if j.inbounds q then j.tensorSrc (j.gaddr q + e) else .fill (j.fillByte e)

/-- The sectors that a span touches. -/
def sectorsOf (off n : Nat) : List Nat := if n = 0 then [] else span (off / 32) ((off + n - 1) / 32 + 1 - off / 32)

/-- The sectors that block k of a quant writes. -/
def qSectors (j : Job) (sc0 sc1 k : Nat) : List Nat :=
  dedupNat (sectorsOf (j.qPayload k) (j.desc.qlen * j.desc.qbits / 8) ++ sectorsOf (j.qScale sc0 k) 1
    ++ (if isDn j.desc.qfmt then sectorsOf (j.qMicro sc1 k) 1 else []))

/-- The units that a job moves, in order (R196, R199 to R201). -/
def pieces (j : Job) (sc0 sc1 : Nat) : List Piece :=
  let d := j.desc
  match d.kind with
  | 0 => bySector ((span 0 d.elems).flatMap j.copyBytes)
  | 1 => (span 0 (d.boxAt 1)).flatMap j.gathRow
  | 2 => bySector ((span 0 j.ufRows).flatMap fun r => (span 0 j.ufCols).flatMap fun col => j.unfoldBytes r col)
  | _ => (span 0 (d.elems / d.qlen)).map fun k =>
      .block (j.qSectors sc0 sc1 k) k ((span (k * d.qlen) d.qlen).map j.qSrc)

/-- The destination sectors that a job counts (R198). -/
def sectors (j : Job) (sc0 sc1 : Nat) : List Nat := dedupNat ((j.pieces sc0 sc1).flatMap (·.ids))

end Job

/-! ## Checks of a descriptor (R197) -/

/-- The bits outside a field are zero. -/
def fits (x w : Nat) : Bool := x < 2 ^ w

/-- The bytes of the local side from LOCAL: the box, dense or with its pitch (R196). -/
def localLen (d : Desc) : Nat :=
  if d.pitch = 0 then d.esz * d.elems else d.pitch * (d.elems / d.boxAt 0 - 1) + d.esz * d.boxAt 0

/-- The hull of a clipped box in the tensor: first and last coordinate of each dimension, or none when it is empty. -/
def clip (d : Desc) (c : Nat → Int) : Option (List (Nat × Nat × Nat)) :=
  d.dims.foldr (fun i acc =>
    let lo := max 0 (c i)
    let hi := min (d.boundAt i : Int) (c i + d.boxAt i) - 1
    if hi < lo then none else acc.map fun l => (i, lo.toNat, hi.toNat) :: l) (some [])

/-- The hull of the bytes of a clipped box from the tensor's origin. -/
def tensorHull (d : Desc) (c : Nat → Int) : Option (Nat × Nat) :=
  (clip d c).map fun l =>
    ((l.map fun e => d.esz * d.strideAt e.1 * e.2.1).sum, (l.map fun e => d.esz * d.strideAt e.1 * e.2.2).sum + d.esz)

/-- The rules of R194, R195 and R197 that every descriptor meets. -/
def descCommon (bs : List Byte) (d : Desc) (kind : Nat) : Bool :=
  ctrlClean bs && d.kind == kind && (kind == 1 || !d.ooberr) && d.ndim ≤ 9 &&
    (span 0 10).all (fun i =>
      if i ≤ d.ndim then 1 ≤ d.boundAt i && 1 ≤ d.boxAt i
      else d.boundAt i == 0 && d.boxAt i == 0 && d.strideAt i == 0) &&
    (if d.dir = 3 then window d.gbase == .scratch (bitsAt d.gbase.toNat 0 24) else isGlobal d.gbase) &&
    d.gbase.toNat % d.esz == 0 && fits d.loc (if d.dir ≤ 1 then 24 else 19) &&
    (kind == 3 || (d.aux1 == 0 && d.aux0 % 16 == 0))

/-- Two spans do not meet. -/
def apart (a b : Nat × Nat) : Bool := a.2 ≤ b.1 || b.2 ≤ a.1

/-- The spans of payload, scale and micro bytes of a quant (R201, R438). -/
def qSpans (j : Job) (sc0 sc1 : Nat) : List (Nat × Nat) :=
  let n := j.desc.elems / j.desc.qlen
  let p := j.qPayload 0
  [(p, p + n * (j.desc.qlen * j.desc.qbits / 8)), (j.qScale sc0 0, j.qScale sc0 0 + n)]
    ++ (if isDn j.desc.qfmt then [(j.qMicro sc1 0, j.qMicro sc1 0 + n)] else [])

/-- Spans that meet pairwise nowhere. -/
def allApart : List (Nat × Nat) → Bool
  | [] => true
  | a :: l => l.all (apart a) && allApart l

namespace State

/-- The reservation that a job names, if the team holds it on the issuing core (R108, R197). -/
def resvOn (s : State) (t id k : Nat) : Option Resv := ((s.team t).resv.find? id).filter fun r => r.core == k

/-- The end of the local range of a job: the scratchpad allocation, or the reservation. -/
def localRoom (s : State) (j : Job) : Option Nat :=
  if j.desc.dir ≤ 1 then some (s.scratchSize j.team)
  else (s.resvOn j.team j.desc.res j.core).map fun r => r.units * 256

/-- The source hull of DIR 3 lies in the scratchpad. -/
def localSource (s : State) (j : Job) : Bool :=
  j.desc.dir != 3 ||
    match tensorHull j.desc j.c with
    | none => true
    | some (_, hi) => bitsAt j.desc.gbase.toNat 0 24 + hi ≤ s.scratchSize j.team

/-- The rules of a quant (R201, R437). DESIGN CHOICE (log 51): no rule gives an alignment of a scale area, and none is asked for (R197). -/
def quantOk (s : State) (j : Job) (descOff : Nat) : Bool :=
  let d := j.desc
  let f := d.qfmt
  let n := d.elems
  d.esz == 4 && d.dir != 1 && 3 ≤ f && f ≤ 8 && d.param.toNat < 32 && d.boxAt 0 % d.qlen == 0 &&
    (if d.dir = 0 then
      (isDn f || d.aux1 == 0) &&
        let sp := qSpans j 0 0
        sp.all (fun e => e.2 ≤ s.scratchSize j.team) && allApart ((descOff, descOff + 128) :: sp)
    else
      d.aux0 == 0 && d.aux1 == 0 &&
        match s.resvOn j.team d.res j.core with
        | none => false
        | some r => r.fmt == f && r.blk == (if isDn f then 1 else 2) && 8 * d.loc % d.qbits == 0 &&
            8 * d.loc / d.qbits % d.qlen == 0 && 8 * d.loc / d.qbits + n ≤ r.krows * r.ncols &&
            allApart (qSpans j r.sc0 r.sc1))

/-- The rules of a gath (R199, R409). -/
def gathOk (j : Job) : Bool :=
  let d := j.desc
  d.ndim == 1 && d.dir ≤ 1 && j.c1 == 0 && d.param.toNat < 2 && j.idxa.toNat % (if d.param = 1 then 8 else 4) == 0 &&
    (d.dir == 0 ||
      ((d.gbase.toNat + d.esz * j.c0) % 32 == 0 && d.esz * d.strideAt 1 % 32 == 0 && d.esz * d.boxAt 0 % 32 == 0 &&
        0 ≤ j.c0 && j.c0 + d.boxAt 0 ≤ d.boundAt 0))

/-- The rules of an unfold (R200, R460). -/
def unfoldOk (s : State) (j : Job) : Bool :=
  let d := j.desc
  let w := d.esz * j.ufCols
  d.dir == 0 && d.ndim == 3 && d.param.toNat < 2 ^ 26 && (d.pitch == 0 || w ≤ d.pitch) &&
    d.loc + (if d.pitch = 0 then w * j.ufRows else d.pitch * (j.ufRows - 1) + w) ≤ s.scratchSize j.team

/-- Whether a job's descriptor and coordinates pass R197. -/
def descOk (s : State) (bs : List Byte) (j : Job) (kind descOff : Nat) : Bool :=
  let d := j.desc
  descCommon bs d kind && (d.dir ≤ 1 || (s.resvOn j.team d.res j.core).isSome) && s.localSource j &&
    match kind with
    | 0 => d.param == 0 && (d.pitch == 0 || d.esz * d.boxAt 0 ≤ d.pitch) &&
        (match s.localRoom j with | none => false | some n => d.loc + localLen d ≤ n)
    | 1 => gathOk j && (d.pitch == 0 || d.esz * d.boxAt 0 ≤ d.pitch) && d.loc + localLen d ≤ s.scratchSize j.team
    | 2 => s.unfoldOk j
    | _ => s.quantOk j descOff

/-! ## Intervals and footprints (R129 to R133, R438) -/

/-- The place of the scale regions of a job's reservation. -/
def scOf (s : State) (j : Job) : Nat × Nat :=
  match s.resvOn j.team j.desc.res j.core with
  | some r => if 2 ≤ j.desc.dir then (r.sc0, r.sc1) else (0, 0)
  | none => (0, 0)

/-- The units and counted sectors of a job. -/
def piecesOf (s : State) (j : Job) : List Piece := j.pieces (s.scOf j).1 (s.scOf j).2
def sectorsOf (s : State) (j : Job) : List Nat := j.sectors (s.scOf j).1 (s.scOf j).2

/-- The linear order of the element with given box indices, dimension by dimension (R196). -/
def linear (d : Desc) (ix : List Nat) : Nat :=
  (d.dims.foldr (fun i acc => ix.getD i 0 + d.boxAt i * acc) 0)

/-- The hull of the local bytes that a copy to global memory reads: those of the elements that lie inside the tensor, if any (R129,
R196). -/
def readSpan (j : Job) : Option (Nat × Nat) :=
  (clip j.desc j.c).map fun l =>
    let at_ (f : Nat × Nat × Nat → Nat) := j.laddr (linear j.desc (l.map fun e => ((f e : Int) - j.c e.1).toNat))
    (at_ (fun e => e.2.1), at_ (fun e => e.2.2) + j.desc.esz)

/-- The local span of a job, for a copy, gath or unfold. -/
def localSpan (j : Job) : Nat × Nat :=
  let n := if j.desc.kind = 2 then
      (if j.desc.pitch = 0 then j.desc.esz * j.ufCols * j.ufRows
       else j.desc.pitch * (j.ufRows - 1) + j.desc.esz * j.ufCols)
    else localLen j.desc
  (j.desc.loc, j.desc.loc + n)

/-- The hull of several spans. -/
def hull (l : List (Nat × Nat)) : Nat × Nat :=
  l.foldl (fun h e => (min h.1 e.1, max h.2 e.2)) (l.headD (0, 0))

/-- An interval rounded outward to 64 bytes (R129). -/
def ival (sp : Space) (e : Nat × Nat) (c : IClass) (owner engine : Nat) : Interval :=
  ⟨sp, e.1 / 64 * 64, roundUp e.2 64, c, owner, engine⟩

/-- The intervals of a job (R130, R438). -/
def jobIvals (s : State) (j : Job) : List Interval :=
  let dst := if j.desc.kind = 3 then hull (qSpans j (s.scOf j).1 (s.scOf j).2) else localSpan j
  let sp : Space := .sp j.team
  let src := (tensorHull j.desc j.c).map fun h =>
    (bitsAt j.desc.gbase.toNat 0 24 + h.1, bitsAt j.desc.gbase.toNat 0 24 + h.2)
  match j.desc.dir with
  | 0 => [ival sp dst .w j.serial j.core]
  | 1 =>
    if j.desc.kind = 0 then ((readSpan j).map fun h => ival sp h .r j.serial j.core).toList else [ival sp dst .r j.serial j.core]
  | 2 => [ival (.res j.team j.desc.res) dst .w j.serial j.core]
  | _ => (src.map fun h => ival sp h .r j.serial j.core).toList ++ [ival (.res j.team j.desc.res) dst .w j.serial j.core]

/-- The whole tensor described by BOUND and STRIDE. -/
def wholeTensor (d : Desc) : Nat × Nat :=
  (0, (d.dims.map fun i => d.esz * d.strideAt i * (d.boundAt i - 1)).sum + d.esz)

/-- The global footprints of a job (R133, R199, R409, R438, R460). -/
def jobFoots (j : Job) : List Foot :=
  let g := j.desc.gbase.toNat
  let at_ (h : Nat × Nat) (w : Bool) : Foot := ⟨(g + h.1) / 64 * 64, roundUp (g + h.2) 64, w⟩
  match j.desc.kind, j.desc.dir with
  | _, 3 => []
  | 1, dir =>
    let n := j.desc.boxAt 1 * (if j.desc.param = 1 then 8 else 4)
    [⟨j.idxa.toNat / 64 * 64, roundUp (j.idxa.toNat + n) 64, false⟩, at_ (wholeTensor j.desc) (dir == 1)]
  | 2, _ => [at_ (wholeTensor j.desc) false]
  | _, dir => ((tensorHull j.desc j.c).map fun h => at_ h (dir == 1)).toList

/-- The offset at which the upper core's half of a twin's scratchpad begins (R104). -/
def halfStart (s : State) (t : Nat) : Nat := ceilDiv (s.team t).record.scratch 2 * 4096

/-- The entries that an interval takes in a core's scoreboard: a twin's scratchpad interval is cut at the half (R129). -/
def entriesFor (s : State) (t k own : Nat) (ivs : List Interval) : List Interval :=
  ivs.filterMap fun iv =>
    match iv.space with
    | .res _ _ => if k = own then some iv else none
    | .sp _ =>
      if !(s.team t).record.twin then (if k = own then some iv else none)
      else
        let h := s.halfStart t
        let cut : Interval := if k = (s.team t).core then { iv with hi := min iv.hi h } else { iv with lo := max iv.lo h }
        if cut.lo < cut.hi then some cut else none

/-- Whether every core of a team has room for intervals (R131). -/
def roomFor (s : State) (t own : Nat) (ivs : List Interval) : Bool :=
  (s.coresOfTeam t).all fun k => (s.core k).ivals.length + (s.entriesFor t k own ivs).length ≤ 64

/-- Enters intervals into the scoreboards of a team's cores (R129). -/
def enter (s : State) (t own : Nat) (ivs : List Interval) : State :=
  (s.coresOfTeam t).foldl (fun s' k => s'.onCore k fun y => { y with ivals := y.ivals ++ s.entriesFor t k own ivs }) s

/-- Adds a job's sectors to its barrier (R198). The image of a clone keeps the barrier as it was before (R149). -/
def countJob (s : State) (j : Job) : State :=
  match j.bar with
  | none => s
  | some off =>
    let b := s.barrier j.team off
    (s.keepBarrier j.team off).putBarrier j.team off
      ({ b with sectors := b.sectors + (s.sectorsOf j).length, armed := true }.advance)

/-- Accepts a job: its intervals, footprints and barrier count (R198). Its reads follow every earlier access of its thread, whose
write-combining stores are therefore performed first (R134). -/
def acceptJob (s : State) (j : Job) : State :=
  let s := (s.drainWc j.thread).enter j.team j.core (s.jobIvals j)
  let s := s.countJob j
  (s.onCore j.core fun y => { y with jobs := y.jobs ++ [j] }).bump

/-- The job of an instruction of the current thread. -/
def newJob (s : State) (d : Desc) (c0 c1 c2 : W32) (idxa : W64) (bar : Option Nat) : Job :=
  { serial := s.serial, desc := d, c0 := c0.toInt, c1 := c1.toInt, c2 := c2.toInt, idxa := idxa, bar := bar,
    team := s.curTeam, thread := s.iss.cur, ctx := s.curCtx, view := s.curView, core := s.curCore, idx := [],
    got := [], bytes := 0, moved := [], landed := [], stopped := false, held := false, heldAt := 0, foots := [], fetchFor := none,
    cloneOf := none, keep := [] }

/-- Whether a job copies a part of the image of a clone that has not been placed, and so has no destination yet (R147, R148). -/
def awaitsClone (s : State) (j : Job) : Bool :=
  j.cloneOf.any fun e => (s.team e.1).phase != .copying && (s.team e.1).phase != .saving

/-- The jobs that a core's copy unit holds, at most 32 (R17, R198). DESIGN CHOICE (log 34): a job that copies a clone's image counts from
when its clone is placed, and waits behind the other jobs where there is no room for it. -/
def unitJobs (s : State) (k : Nat) : List Job :=
  let js := (s.core k).jobs
  let own := js.filter fun j => j.cloneOf.isNone
  own ++ ((js.filter fun j => j.cloneOf.isSome && !s.awaitsClone j).take (32 - own.length))

/-- Whether the core has room for n more jobs (R198). -/
def jobRoom (s : State) (k n : Nat) : Bool := (s.unitJobs k).length + n ≤ 32

/-- Whether a job's sectors would carry its barrier too far (R198). -/
def barOverflow (s : State) (j : Job) : Bool :=
  match j.bar with
  | none => false
  | some off => 2 ^ 32 - 1 < (s.barrier j.team off).sectors + (s.sectorsOf j).length

/-- Whether a descriptor of a team's copy names a reservation id that is free (R111). DESIGN CHOICE (log 51): a `quant` counts as a copy
there, where R197 and R437 speak of an invalid descriptor and the lower code is raised. -/
def namesFree (s : State) (t : Nat) (d : Desc) : Bool :=
  (d.kind == 0 || d.kind == 3) && 2 ≤ d.dir && ((s.team t).resv.find? d.res).isNone

/-- The trap that the barrier operand of a counted job raises: alignment, then bound (R197). -/
def barTrap (s : State) (bar : Option Nat) : Option Byte :=
  bar.bind fun off =>
    if off % 16 != 0 then some 0x11 else if s.scratchSize s.curTeam < off + 16 then some 0x13 else none

/-- The trap that a descriptor and its barrier raise once the descriptor has been read, the lowest code first (R94, R111, R197, R198,
R275). -/
def jobTrap (s : State) (bs : List Byte) (j : Job) (kind off : Nat) : Option (Byte × W64) :=
  let bar := scratchAddr (j.bar.getD 0)
  if window j.desc.gbase == .none then some (0x10, j.desc.gbase)
  else match s.barTrap j.bar with
    | some cause => some (cause, bar)
    | none =>
      if s.namesFree j.team j.desc then some (0x18, 0)
      else if !s.descOk bs j kind off then some (0x19, scratchAddr off)
      else if s.barOverflow j then some (0x1A, bar)
      else none

/-- The bytes of the current team's scratchpad that a job instruction reads: as they stood before the chain (R320). -/
def spBefore (s : State) (off n : Nat) : List Byte := tabBytes (s.iss.spSnap.getD (s.team s.curTeam).sp) off n

/-- Whether the copy budget of a context lets its die accept a job: one that has been accepted completes (R91). -/
def copyShare (s : State) (c k : Nat) : Bool := s.hasBudget c 2 (k / 96)

/-- Issues a job of the current thread: reads the descriptor as an `lds`, checks it, and accepts the job (R197, R198), unless the copy budget
of its die is spent (R91). A descriptor that cannot be read for its bound gives way to a barrier that is not aligned (R275). -/
def startJob (s : State) (kind off : Nat) (c0 c1 c2 : W32) (idxa : W64) (bar : Option Nat) : Res Unit :=
  if off % 128 = 0 ∧ s.scratchSize s.curTeam < off + 128 ∧ s.barTrap bar = some 0x11 then
    .trap 0x11 (scratchAddr (bar.getD 0)) 0 s
  else
  (s.spCheck off 128 128 .r).andThen fun _ s =>
    let bs := s.spBefore off 128
    let j := s.newJob (readDesc bs) c0 c1 c2 idxa bar
    let j := { j with foots := jobFoots j }
    match s.jobTrap bs j kind off with
    | some (cause, addr) => .trap cause addr 0 s
    | none =>
      if !s.jobRoom j.core 1 || !s.roomFor j.team j.core (s.jobIvals j) then .wait .scoreboard s
      else if !s.drainReady j.thread then .wait .sideLog s
      else if !s.copyShare j.ctx j.core then .wait .budget s
      else .ok () (s.acceptJob j)

end State

/-- The touched registers of a copy-unit instruction: descriptor, coordinates and barrier (R365). -/
def jobTouch (d a b : Reg) (nx : Bool) : List Touch :=
  regs [d] ++ [.reg a.toNat, .reg (a.toNat + 1), .reg (a.toNat + 2)] ++ (if nx then [] else regs [b])

/-- A copy, unfold or quant of the current thread (R365, R437, R460). -/
def startPlain (kind : Nat) (d a b : Reg) (m : Bool) (s : State) : Host.Outcome State Fault Refusal :=
  issue s (jobTouch d a b m) fun s =>
    s.startJob kind (s.v d).toNat (s.vn a.toNat) (s.vn (a.toNat + 1)) (s.vn (a.toNat + 2)) 0
      (if m then none else some (s.v b).toNat)

def execCopy (d a b : Reg) (m : Bool) (s : State) := startPlain 0 d a b m s
def execUnfold (d a b : Reg) (m : Bool) (s : State) := startPlain 2 d a b m s
def execQuant (d a b : Reg) (m : Bool) (s : State) := startPlain 3 d a b m s

/-- `gath` (R408): v(a+4).d is the address of the index list. -/
def execGath (d a b : Reg) (m : Bool) (s : State) : Host.Outcome State Fault Refusal :=
  issue s (jobTouch d a b m ++ [.reg (a.toNat + 4), .reg (a.toNat + 5)]) fun s =>
    s.startJob 1 (s.v d).toNat (s.vn a.toNat) (s.vn (a.toNat + 1)) (s.vn (a.toNat + 2)) (s.vdn (a.toNat + 4))
      (if m then none else some (s.v b).toNat)

/-! ## Barrier instructions (R206, R350 to R353) -/

namespace State

/-- The checks of a barrier instruction: alignment, bound and scoreboard (R352, R353). -/
def barAccess (s : State) (off : Nat) (c : IClass) : Res Barrier :=
  (s.spCheck off 16 16 c).andThen fun _ s =>
    let b := s.barrier s.curTeam off
    if b.resvd != 0 then .trap 0x1A (scratchAddr off) 0 s else .ok b s

end State

/-- `bar.init` (R206, R350). -/
def execBarInit (d a : Reg) (s : State) : Host.Outcome State Fault Refusal :=
  issue s (regs [d, a]) fun s =>
    let off := (s.v d).toNat
    let n := (s.v a).toNat
    (s.barAccess off .w).andThen fun _ s =>
      if n = 0 || 1048575 < n then .trap 0x1A (scratchAddr off) 0 s
      else .ok () (s.putBarrier s.curTeam off ⟨0, n, n, 0, false, false, 0⟩)

/-- `bar.expect` (R206, R350). -/
def execBarExpect (d a : Reg) (s : State) : Host.Outcome State Fault Refusal :=
  issue s (regs [d, a]) fun s =>
    let off := (s.v d).toNat
    let n := (s.v a).toNat
    (s.barAccess off .w).andThen fun b s =>
      if 2 ^ 32 - 1 < b.sectors + n then .trap 0x1A (scratchAddr off) 0 s
      else .ok () (s.putBarrier s.curTeam off ({ b with sectors := b.sectors + n, armed := true }.advance))

/-- `bar.arrive` (R206, R350, R351). -/
def execBarArrive (d a : Reg) (s : State) : Host.Outcome State Fault Refusal :=
  issue s (regs [d, a]) fun s =>
    let off := (s.v a).toNat
    (s.barAccess off .w).andThen fun b s =>
      if b.pending = 0 then .trap 0x1A (scratchAddr off) 0 s
      else .ok () ((s.putBarrier s.curTeam off ({ b with pending := b.pending - 1 }.advance)).setV d
        (BitVec.ofNat 32 b.phase))

/-- `bar.wait` (R206, R352). -/
def execBarWait (d a b : Reg) (m : Bool) (s : State) : Host.Outcome State Fault Refusal :=
  issue s (preds [d] m ++ regs [a, b]) fun s =>
    let off := (s.v a).toNat
    (s.barAccess off .r).andThen fun x s =>
      if x.phase = bitsAt (s.v b).toNat 0 4 then .wait .barrier (s.onThr fun t => { t with barAt := some off })
      else .ok () ((s.onThr fun t => { t with barAt := none }).setP (predNum d m) x.error)

/-- `bar.try` (R206, R352). -/
def execBarTry (d a b : Reg) (m : Bool) (s : State) : Host.Outcome State Fault Refusal :=
  issue s (preds [d] m ++ regs [a, b]) fun s =>
    (s.barAccess (s.v a).toNat .r).andThen fun x s =>
      .ok () (s.setP (predNum d m) (x.phase != bitsAt (s.v b).toNat 0 4))

/-! ## Moving the data of a job (R134, R196, R202, R203) -/

/-- What one access of a job meets: its result, a page under fault, a budget that is spent, or a cause to stop. -/
inductive Moved (α : Type) where
  | ok (a : α) (s : State)
  | hold (s : State)
  | spent (s : State)
  | stop (cause : Nat) (addr : Nat) (s : State)

/-- Goes on where an access of a job has succeeded. -/
def Moved.andThen {α β : Type} (r : Moved α) (k : α → State → Moved β) : Moved β :=
  match r with
  | .ok a s => k a s
  | .hold s => .hold s
  | .spent s => .spent s
  | .stop c a s => .stop c a s

/-- The key of a source byte in the buffer of a job, whose sources all lie in the scratchpad under DIR 3 and else in global memory; none for
FILL, and none for a local byte that the job writes to global memory, which it reads as it writes. -/
def Job.srcKey (j : Job) : Src → Option Nat
  | .global va => some va
  | .loc off => if j.desc.dir = 3 then some (2 ^ 60 + off) else none
  | .fill _ => none

namespace State

/-- The cause of a fatal fault or bad window of a job, by its kind and step (R203). DESIGN CHOICE (log 30): an address at or above 2^57, for
which R203 names a cause in step 1 of a gath alone, stops any other access with the cause of a fatal fault there. -/
def fatalCause (j : Job) (step1 : Bool) : Nat := if j.desc.kind = 1 then (if step1 then 3 else 4) else 6

/-- The agent code of a job's accesses (R283). -/
def jobAgent (j : Job) : Nat := if j.fetchFor.isSome then 3 else 2

/-- Serves one access of a job at a key, charging one 64 B unit to the memory controller, or none where the job has accessed the other
half of the unit (R90, R91). -/
def jobTurn (s : State) (j : Job) (key : Nat) (again : Bool) : Option State :=
  if !s.hasBudget j.ctx 1 (key / 2 ^ 36) then none else some (if again then s else s.charge j.ctx 1 (key / 2 ^ 36) 1)

/-- The 32-byte sector of global memory that holds an address, as a job reads it, in the issuer's view (R134, R151, R154, R203, R366). DESIGN
CHOICE (log 34): a world-shared page is none of its own for a job, whose versions R121 and R154 ask for, though R156 says that such pages never
hold any. DESIGN CHOICE (log 51): a device or strongly ordered page stops the job at the first sector of it that
the job reaches, as R203 says, and not where it only lies in the hull of the footprint between sectors that the job touches (R116). -/
def readSector (s : State) (j : Job) (step1 : Bool) (va : Nat) : Moved (List Byte) :=
  if 2 ^ 57 ≤ va then .stop (fatalCause j step1) va s
  else match s.xlat j.ctx va .read (jobAgent j) j.core j.view with
    | (.fatal, s) => .stop (fatalCause j step1) va s
    | (.hold _, s) => .hold s
    | (.ok key leaf, s) =>
      if 2 ≤ leaf.type then .stop 1 va s
      else
        let again := (span (va / 64 * 64) 64).any fun a => (j.got.find? a).isSome
        match s.jobTurn j key again with
        | none => .spent s
        | some s => .ok (s.readView j.ctx j.view leaf.prot (key - va % 32) 32) s

/-- The first byte of a list of sources whose sector a job has still to read. -/
def missing (j : Job) (srcs : List Src) : Option Nat :=
  (srcs.filterMap j.srcKey).find? fun a => (j.got.find? a).isNone

/-- A source byte of a job whose sectors have been read. -/
def srcByte (s : State) (j : Job) : Src → Byte
  | .fill b => b
  | .global va => j.got.get va 0
  | .loc off => if j.desc.dir = 3 then j.got.get (2 ^ 60 + off) 0 else (s.team j.team).sp.get off 0

/-- Whether a job has written a destination sector. -/
def wroteSector (s : State) (j : Job) (k : Nat) : Bool :=
  (s.piecesOf j).zipIdx.any fun e => e.1.ids.contains k && j.moved.contains e.2

/-- Writes the destination bytes of a job that lie in global memory, one sector, as versions of the issuer's view, on a world-shared page too
(R121, R134, R152, R154, R366; log 34). -/
def writeSector (s : State) (j : Job) (ws : List (Nat × Byte)) : Moved Unit :=
  let va := (ws.map (·.1)).headD 0
  if 2 ^ 57 ≤ va then .stop (fatalCause j false) va s
  else match s.xlat j.ctx va .write (jobAgent j) j.core j.view with
    | (.fatal, s) => .stop (fatalCause j false) va s
    | (.hold _, s) => .hold s
    | (.ok key leaf, s) =>
      let n := j.view
      if 2 ≤ leaf.type then .stop 1 va s
      else if !s.cellReady j.ctx n key then .stop 2 va s
      else match s.jobTurn j key (j.desc.kind != 1 && s.wroteSector j (va / 32 ^^^ 1)) with
        | none => .spent s
        | some s => .ok () (ws.foldl (fun s w => s.writeView j.ctx n leaf.prot (key + w.1 - va) [w.2]) (s.notePage j.ctx n va))

/-- Writes the destination bytes of a unit: the scratchpad, one sector of global memory, or the reservation. -/
def jobPut (s : State) (j : Job) (ws : List (Nat × Byte)) : Moved Unit :=
  match j.desc.dir with
  | 0 => .ok () (ws.foldl (fun s w => s.spPut j.team w.1 [w.2]) s)
  | 1 => if ws.isEmpty then .ok () s else s.writeSector j ws
  | _ => .ok () (s.onTeam j.team fun x =>
      { x with resv := x.resv.mapVals fun id r =>
          if id = j.desc.res then { r with bytes := ws.foldl (fun m w => m.set w.1 w.2) r.bytes } else r })

end State

/-- Four bytes as an FP32 value. -/
def bytesWord (bs : List Byte) : W32 := BitVec.ofNat 32 (leNat bs)

/-- Groups of four bytes as FP32 values. -/
def bytesWords : List Byte → List W32
  | a :: b :: c :: d :: bs => bytesWord [a, b, c, d] :: bytesWords bs
  | _ => []

/-- The destination bytes of block k of a quant, from its FP32 elements (R180, R183, R201). -/
def quantBytes (j : Job) (sc0 sc1 k : Nat) (xs : List W32) : List (Nat × Byte) :=
  let f := j.desc.qfmt
  let sat := bitAt j.desc.param.toNat 4
  let place (off : Nat) (bs : List Byte) := (span off bs.length).zip bs
  if isDn f then
    let (e, u, codes) := dnEncode (dnBits f) sat xs
    place (j.qPayload k) (packElems j.desc.qbits codes) ++ [(j.qScale sc0 k, e), (j.qMicro sc1 k, u)]
  else
    let emax : Int := if f = 3 then 8 else if f = 4 then 15 else 2
    let (scale, codes) := mxEncode (plainFmt f) emax sat xs
    place (j.qPayload k) (packElems j.desc.qbits codes) ++ [(j.qScale sc0 k, scale)]

namespace State

/-- The sources of a unit. -/
def pieceSrcs : Piece → List Src
  | .bytes _ ws => ws.map (·.2)
  | .block _ _ srcs => srcs.flatten

/-- The bytes that a unit writes, once its sources have been read (R196, R201). -/
def pieceBytes (s : State) (j : Job) : Piece → List (Nat × Byte)
  | .bytes _ ws => ws.map fun w => (w.1, s.srcByte j w.2)
  | .block _ k srcs => quantBytes j (s.scOf j).1 (s.scOf j).2 k (bytesWords (srcs.flatten.map (s.srcByte j)))

/-- The next access that a unit needs: a sector of its sources into the job's buffer, or its destination (R134). The flag says that the
unit has been written. -/
def movePiece (s : State) (j : Job) (p : Piece) : Moved (Bool × Job) :=
  match missing j (pieceSrcs p) with
  | some a =>
    if j.desc.dir = 3 then
      let off := (a - 2 ^ 60) / 32 * 32
      .ok (false, { j with got := tabPut j.got (2 ^ 60 + off) (s.spBytes j.team off 32) }) s
    else (s.readSector j false a).andThen fun bs s => .ok (false, { j with got := tabPut j.got (a / 32 * 32) bs }) s
  | none =>
    let ws := s.pieceBytes j p
    (s.jobPut j ws).andThen fun _ s => .ok (true, { j with bytes := j.bytes + ws.length }) s

/-- Puts a job back into its core's list. -/
def setJob (s : State) (j : Job) : State :=
  s.onCore j.core fun y => { y with jobs := y.jobs.map fun x => if x.serial = j.serial then j else x }

/-- The step of a job that an error record names (R203, R213). -/
def jobStep (j : Job) (step1 : Bool) : Nat :=
  if j.fetchFor.isSome then 1 else if j.desc.kind = 1 then (if step1 then 1 else 2) else 0

/-- Takes a job off its core, and wakes who waited for room or for its end. -/
def dropJob (s : State) (j : Job) : State :=
  let s := s.onCore j.core fun y => { y with jobs := y.jobs.filter fun x => x.serial != j.serial }
  (((s.wakeCore j.core .scoreboard).wakeTeam j.team .fence).wakeTeam j.team .convergence).wakeTeam j.team .join

/-- A job has finished: a clone's image is one copy nearer (R148). -/
def finishJob (s : State) (j : Job) : State :=
  let s := s.dropJob j
  match j.cloneOf with
  | some (t, _) => s.onTeam t fun x => { x with copies := x.copies - 1 }
  | none => s

/-- A group that waits for the acceptance of a multiply learns that one of its fetches has stopped (R213, R423). -/
def stopFetch (s : State) (j : Job) : State :=
  match (s.group (s.groupOf j.thread)).fetch with
  | some f => if j.fetchFor = some f.serial then s.onGroup (s.groupOf j.thread) fun y => { y with fetch := some { f with stopped := true } } else s
  | none => s

/-- Stops a job with a cause (R203): its record with the address of the 32-byte sector that met it, its barrier, and the multiply it fetched for. -/
def stopJob (s : State) (j : Job) (cause addr : Nat) (step1 : Bool) : State :=
  let n := (s.sectorsOf j).length - j.landed.length
  let s := s.errorRecord j.ctx 0x05 cause (j.desc.kind + 16 * jobStep j step1) (BitVec.ofNat 64 (addr / 32 * 32))
    (s.team j.team).record.seq.toNat j.core
  let s := match j.bar with
    | some off => s.barrierStop j.team off j.serial n
    | none => s
  let s := match j.fetchFor with
    | some m => s.onCore j.core fun y =>
        { y with mms := y.mms.map fun (x : Mm) => if x.serial = m then { x with abandoned := true } else x }
    | none => s
  (s.stopFetch j).dropJob j

end State

end Sys2Proof.Machine
end

