-- ==== Sys2Proof/Machine/Matrix.lean ====
section
/-! DEFINITION. The operand buffer and the matrix engine: reservations (R108 to R111, R207, R430 to R432), tile handles (R208,
R458), `mma` and `mmo` from their group checks to their result (R209 to R216, R184 to R186, R421 to R425). -/

namespace Sys2Proof.Machine

/-! ## Reservations -/

/-- The four words of a reservation record (R109). -/
def resvRecord (w0 w1 w2 : W32) (core place serial : Nat) : Resv :=
  { fmt := bitsAt w0.toNat 0 4, blk := bitsAt w0.toNat 4 2, units := bitsAt w0.toNat 8 12, krows := bitsAt w1.toNat 0 16,
    ncols := bitsAt w1.toNat 16 16, sc0 := bitsAt w2.toNat 0 16, sc1 := bitsAt w2.toNat 16 16, core := core,
    place := place, serial := serial, bytes := [] }

/-- The spans of a reservation's payload and scale regions (R207). -/
def resvSpans (r : Resv) : List (Nat × Nat) :=
  let n := r.krows * r.ncols
  let sc := n / blkLen r.blk
  (0, ceilDiv (n * fmtBits r.fmt) 8)
    :: (if r.blk = 0 then [] else [(16 * r.sc0, 16 * r.sc0 + sc)])
    ++ (if isDn r.fmt then [(16 * r.sc1, 16 * r.sc1 + sc)] else [])

/-- Whether a record is valid (R109, R207, R432). -/
def resvValid (w0 w1 w2 w3 : W32) : Bool :=
  let r := resvRecord w0 w1 w2 0 0 0
  1 ≤ r.fmt && r.fmt ≤ 8 && blkAllowed r.fmt r.blk && bitsAt w0.toNat 6 2 == 0 && bitsAt w0.toNat 20 12 == 0 && w3 == 0 &&
    1 ≤ r.units && r.units ≤ 2048 && 1 ≤ r.krows && (r.blk == 0 || r.krows % blkLen r.blk == 0) &&
    128 ≤ r.ncols && r.ncols ≤ 2048 && r.ncols % 128 == 0 && (r.blk != 0 || r.sc0 == 0) &&
    ((r.sc1 != 0) == isDn r.fmt) && (resvSpans r).all (fun e => e.2 ≤ r.units * 256) && allApart (resvSpans r)

namespace State

/-- The spans of operand-buffer units in use on a core. -/
def usedUnits (s : State) (k : Nat) : List (Nat × Nat) :=
  s.teams.flatMap fun e => (e.2.resv.filter fun r => r.2.core == k).map fun r => (r.2.place, r.2.place + r.2.units)

/-- The lowest free run of units on a core (R110): at 0 or just after a span in use. -/
def freeRun (s : State) (k n : Nat) : Option Nat :=
  let used := s.usedUnits k
  let starts := used.foldl (fun l e => insertNat e.2 l) [0]
  starts.find? fun p => p + n ≤ 2048 && used.all fun e => apart (p, p + n) e

/-- The lowest free reservation id of a team (R108). -/
def freeResvId (s : State) (t : Nat) : Option Nat := (span 0 16).find? fun i => ((s.team t).resv.find? i).isNone

end State

/-- `obres` (R109, R110, R431). -/
def execObres (d a b : Reg) (m : Bool) (s : State) : Host.Outcome State Fault Refusal :=
  issue s (regs [d] ++ [.reg a.toNat, .reg (a.toNat + 1), .reg (a.toNat + 2), .reg (a.toNat + 3)] ++ preds [b] m) fun s =>
    let w (i : Nat) := s.vn (a.toNat + i)
    if !resvValid (w 0) (w 1) (w 2) (w 3) then .trap 0x18 0 0 s
    else
      let r := resvRecord (w 0) (w 1) (w 2) s.curCore 0 s.serial
      match s.freeResvId s.curTeam, s.freeRun s.curCore r.units with
      | some id, some place =>
        let s := (s.onTeam s.curTeam fun x => { x with resv := x.resv.set id { r with place := place } }).bump
        .ok () ((s.setV d (BitVec.ofNat 32 id)).setP (predNum b m) true)
      | _, _ => .ok () ((s.setV d 0xFFFFFFFF).setP (predNum b m) false)

namespace State

/-- Whether an outstanding job, fetch, copy of a clone's image or matrix instruction names a reservation (R111, R147). -/
def resvBusy (s : State) (t id : Nat) : Bool :=
  (s.jobsOf t).any (fun j => (2 ≤ j.desc.dir && j.desc.res == id) || j.cloneOf.any fun e => e.2 == ClonePart.resv id) ||
    (s.coresOfTeam t).any fun k => (s.core k).mms.any fun m => m.team == t && m.res == id

end State

/-- `obrel` (R111, R430). -/
def execObrel (a : Reg) (s : State) : Host.Outcome State Fault Refusal :=
  issue s (regs [a]) fun s =>
    let id := (s.v a).toNat
    if (s.resvOn s.curTeam id s.curCore).isNone then .trap 0x18 0 0 s
    else if s.resvBusy s.curTeam id then .wait .scoreboard s
    else .ok () (s.onTeam s.curTeam fun x => { x with resv := x.resv.erase id })

/-! ## Tile handles (R208, R458) -/

/-- Whether A's format fits B's (R209). -/
def formatsFit (afmt fmt : Nat) : Bool := 1 ≤ afmt && afmt ≤ 8 && kdepth afmt == kdepth fmt

/-- Whether a handle's columns and rows lie in the tile (R211). -/
def tileFits (r : Resv) (noff koff : Nat) : Bool :=
  128 * noff + 128 ≤ r.ncols && 16 * koff + kdepth r.fmt ≤ r.krows && (r.blk == 0 || 16 * koff % blkLen r.blk == 0)

/-- The fields of a handle (R208). -/
def hRes (h : Nat) : Nat := bitsAt h 0 4
def hAfmt (h : Nat) : Nat := bitsAt h 4 4
def hSat (h : Nat) : Bool := bitAt h 8
def hGlb (h : Nat) : Bool := bitAt h 9
def hNoff (h : Nat) : Nat := bitsAt h 10 4
def hKoff (h : Nat) : Nat := bitsAt h 14 18
def hOlist (h : Nat) : Nat := bitsAt h 32 17
def hDesc (h : Nat) : Nat := bitsAt h 49 15

/-- `tile` (R458), its checks in the order of their codes (R275). -/
def execTile (d a b : Reg) (s : State) : Host.Outcome State Fault Refusal :=
  issue s (pair d ++ regs [a, b]) fun s =>
    let x := pairOf (s.v a) (s.v b)
    let h := x.toNat
    if hOlist h != 0 && s.scratchSize s.curTeam < 16 * hOlist h + 16 then .trap 0x13 (scratchAddr (16 * hOlist h)) 0 s
    else match s.resvOn s.curTeam (hRes h) s.curCore with
    | none => .trap 0x18 0 0 s
    | some r =>
      if !formatsFit (hAfmt h) r.fmt || !tileFits r (hNoff h) (hKoff h) then .trap 0x1B 0 0 s
      else .ok () (s.setVd d x)

/-! ## Operands of the multiply -/

/-- Payload and scale registers of A by format (R209, R422): how many from v(a), and how many from v(a+24). -/
def aRegs (fmt : Nat) : Nat × Nat :=
  match fmt with
  | 1 | 2 => (24, 0) | 3 | 4 => (24, 1) | 5 => (24, 2) | 6 => (24, 3) | 7 => (23, 5) | 8 => (24, 8) | _ => (0, 0)

/-- The registers that an arriving thread touches (R422). -/
def mmaTouch (d a b : Reg) (fmt : Nat) (latched : Bool) : List Touch :=
  regs [d] ++ pair b ++
    (if latched then [] else
      (span a.toNat (aRegs fmt).1).map Touch.reg ++ (span (a.toNat + 24) (aRegs fmt).2).map Touch.reg)

/-- A lane's registers as one number, lowest first. -/
def regsNat : List W32 → Nat
  | [] => 0
  | x :: xs => x.toNat + 2 ^ 32 * regsNat xs

/-- The value of A at row i and depth k (R210). -/
def aValue (fmt m : Nat) (rows : List (List W32)) (i k : Nat) : Num :=
  let half := kdepth fmt / 2
  let lane := rows.getD (i + m * (k / half)) []
  let kk := k % half
  let code := bitsAt (regsNat (lane.take 24)) (kk * fmtBits fmt) (fmtBits fmt)
  let stream (j : Nat) := bitsAt (regsNat (lane.drop 24)) (8 * j) 8
  if fmt ≤ 2 then elemValue fmt code none false
  else if isDn fmt then elemValue fmt code (some (stream (kk / 16))) (bitAt (stream (half / 16 + kk / 16)) (kk % 16 / 2))
  else elemValue fmt code (some (stream (kk / 32))) false

/-- A byte of a reservation: what a job has put there, or the undefined contents (R110). -/
def resvByte (r : Resv) (off : Nat) : Byte := (r.bytes.find? off).getD (Config.reservationByte r.serial off)

/-- The value of B at row k and column n of the tile (R207). -/
def bValue (r : Resv) (k n : Nat) : Num :=
  let w := fmtBits r.fmt
  let e := n * r.krows + k
  let word := (resvByte r (e * w / 8)).toNat + 256 * (resvByte r (e * w / 8 + 1)).toNat
  let code := bitsAt word (e * w % 8) w
  if r.blk = 0 then elemValue r.fmt code none false
  else
    let b := n * (r.krows / blkLen r.blk) + k / blkLen r.blk
    let u := isDn r.fmt && bitAt (resvByte r (16 * r.sc1 + b)).toNat (k % 16 / 2)
    elemValue r.fmt code (some (resvByte r (16 * r.sc0 + b)).toNat) u

/-- An outlier entry of row i inside the tile: its depth and value (R186, R216). -/
def outlierOf (m kd i : Nat) (w : Nat) : Option (Nat × Num) :=
  let row := bitsAt w 0 5
  let k := bitsAt w 5 9
  if row = i ∧ row < m ∧ k < kd ∧ bitsAt w 14 2 = 0 then some (k, bf16.decode (bitsAt w 16 16)) else none

/-- The sum of an element before it is stored: each unit of 16 products added in turn (R184, R186). -/
def mmaSum (x : Mm) (r : Resv) (m : Nat) (outs : List Nat) (i n : Nat) (old : W32) : W32 :=
  let kd := kdepth r.fmt
  let os := outs.filterMap (outlierOf m kd i)
  (span 0 (kd / 16)).foldl (fun acc j =>
    let bv (k : Nat) := bValue r (16 * x.koff + k) (128 * x.noff + n)
    let prods := (span (16 * j) 16).map fun k => (aValue x.afmt m x.rows i k).mul (bv k)
    let extra := (os.filter fun o => o.1 / 16 == j).map fun o => o.2.mul (bv o.1)
    unitAdd acc (prods ++ extra)) old

/-- One element of the result (R184 to R186): a NaN accumulator is stored as the canonical NaN, also where every unit is zero (R185). -/
def mmaElem (x : Mm) (r : Resv) (m : Nat) (outs : List Nat) (i n : Nat) (old : W32) : W32 :=
  let acc := mmaSum x r m outs i n old
  if isNanF acc then 0x7FC00000 else acc

/-! ## Acceptance (R422, R423) -/

/-- What the execution of a convergence point by its scope comes to: its threads go on, all trap, wait again, or have been
left as they are to be. -/
inductive Fired where
  | done (s : State)
  | handled (s : State)
  | trap (cause : Byte) (addr : W64) (s : State)
  | wait (w : Wait) (s : State)

/-- The hull of the bytes of B that the multiply reads (R423). -/
def bSpan (r : Resv) (noff koff : Nat) : Nat × Nat :=
  let w := fmtBits r.fmt
  let kd := kdepth r.fmt
  let n0 := 128 * noff
  let n1 := n0 + 127
  let pay := ((n0 * r.krows + 16 * koff) * w / 8, ((n1 * r.krows + 16 * koff + kd - 1) * w + w - 1) / 8 + 1)
  if r.blk = 0 then pay
  else
    let l := blkLen r.blk
    let b0 := n0 * (r.krows / l) + 16 * koff / l
    let b1 := n1 * (r.krows / l) + (16 * koff + kd - 1) / l
    State.hull ([pay, (16 * r.sc0 + b0, 16 * r.sc0 + b1 + 1)]
      ++ (if isDn r.fmt then [(16 * r.sc1 + b0, 16 * r.sc1 + b1 + 1)] else []))

namespace State

/-- A register of a thread. -/
def regOf (s : State) (i n : Nat) : W32 := (s.thread i).regs.get n 0

/-- Lane 0 of a group. -/
def lane0 (s : State) (g : Nat) : Nat := g / 16 * 1024 + g % 16 * (s.team (g / 16)).record.width

/-- The threads of a group by lane. -/
def lanes (s : State) (g : Nat) : List Nat :=
  let w := (s.team (g / 16)).record.width
  (span 0 w).map fun l => g / 16 * 1024 + g % 16 * w + l

/-- The fetch jobs of a global handle (R213): the descriptor at 128 DESC, and for copies those of the scale regions of the reservation that
the handle names. DESIGN CHOICE (log 51): the issuing thread of a fetch is lane 0, whose handle it is. -/
def fetchJobs (s : State) (i h : Nat) (r : Option Resv) : List (Nat × Job) :=
  let t := teamOf i
  let off := 128 * hDesc h
  let job (o : Nat) : Nat × Job :=
    let d := readDesc (s.spBytes t o 128)
    let d := if d.kind = 3 then
        { d with param := if hSat h then d.param ||| 16 else d.param &&& ~~~16 } else d
    let j : Job := { serial := s.serial + 1 + (o - off) / 128, desc := d, c0 := 0, c1 := 0, c2 := 0, idxa := 0, bar := none,
                     team := t, thread := i, ctx := s.ctxOf i, view := s.viewOf i, core := s.coreOf i, idx := [],
                     got := [], bytes := 0, moved := [], landed := [], stopped := false, held := false, heldAt := 0, foots := [],
                     fetchFor := some s.serial, cloneOf := none, keep := [] }
    (o, { j with foots := jobFoots j })
  let first := job off
  if first.2.desc.kind = 3 then [first]
  else first :: (if r.any fun x => x.blk != 0 then [job (off + 128)] else []) ++
    (if r.any fun x => isDn x.fmt then [job (off + 256)] else [])

/-- Whether a fetch descriptor passes R197 and R213: the first is a copy or a quant, those of the scale regions are copies. -/
def fetchOk (s : State) (h : Nat) (e : Nat × Job) : Bool :=
  let d := e.2.desc
  (d.kind == 0 || (d.kind == 3 && e.1 == 128 * hDesc h)) && 2 ≤ d.dir && d.res == hRes h &&
    s.descOk (s.spBytes e.2.team e.1 128) e.2 d.kind e.1

/-- What the checks of a complete group come to. -/
inductive MmaCheck where
  | pass (r : Resv) (fetches : List (Nat × Job)) (count : Nat)
  | trap (cause : Byte) (addr : W64)
  | stall
deriving DecidableEq, Repr

/-- The checks that concern a reservation and come last (R111, R197, R209, R211, R213): a free id, a fetch descriptor, the handle. -/
def resvChecks (s : State) (g h count : Nat) (fs : List (Nat × Job)) (r : Option Resv) : MmaCheck :=
  match r with
  | none => .trap 0x18 0
  | some r =>
    if fs.any (fun e => s.namesFree e.2.team e.2.desc) then .trap 0x18 0
    else if fs.any (fun e => !s.fetchOk h e) then .trap 0x19 (scratchAddr (128 * hDesc h))
    else if !formatsFit (hAfmt h) r.fmt || !tileFits r (hNoff h) (hKoff h) ||
        (s.group g).latch.any (fun l => l.fmt != hAfmt h) then .trap 0x1B 0
    else .pass r fs count

/-- The group checks of an `mma` or `mmo` that come before its acceptance, in the order of their cause codes (R211, R213, R216, R275,
R422). The fetch descriptors, of a fetch that has not been accepted yet, and the header of the outlier list are read as an `lds` reads them,
so that an older interval over them stalls the group (R131). DESIGN CHOICE (log 51): all 32 bits of the header's word 0 are the count. -/
def mmaChecks (s : State) (g : Nat) (outlier : Bool) (dof h : Nat) : MmaCheck :=
  let t := g / 16
  let width := (s.team t).record.width
  let a := s.scratchSize t
  let ol := 16 * hOlist h
  let c := if outlier then leNat (s.spBytes t ol 4) else 0
  let r := s.resvOn t (hRes h) (s.group g).core
  let fs := if hGlb h && (s.group g).fetch.isNone then s.fetchJobs (s.lane0 g) h r else []
  let inside := fs.filter fun e => e.1 + 128 ≤ a
  if inside.any (fun e => s.spBlocked t e.1 128 .r) then .stall
  else match inside.find? (fun e => window e.2.desc.gbase == .none) with
    | some e => .trap 0x10 e.2.desc.gbase
    | none =>
      if dof % 512 != 0 then .trap 0x11 (scratchAddr dof)
      else if a < dof + 256 * width then .trap 0x13 (scratchAddr dof)
      else if outlier && a < ol + 16 then .trap 0x13 (scratchAddr ol)
      else if inside.length < fs.length then .trap 0x13 (scratchAddr (128 * hDesc h))
      else if outlier && s.spBlocked t ol 16 .r then .stall
      else if outlier && a < ol + 16 + 4 * c then .trap 0x13 (scratchAddr ol)
      else s.resvChecks g h c fs r

/-- What an operand fetch waits for before its jobs are accepted, if anything: room for the jobs and their intervals, room in the side log
for the stores that its reads follow, a share of the copy budget (R91, R131, R134, R198, R423). -/
def fetchWait (s : State) (g : Nat) (fetches : List Job) : Option Wait :=
  let k := (s.group g).core
  if fetches.isEmpty then none
  else if !s.jobRoom k fetches.length || !s.roomFor (g / 16) k (fetches.flatMap s.jobIvals) then some .scoreboard
  else if !s.drainReady (s.lane0 g) then some .sideLog
  else if !s.copyShare (s.team (g / 16)).ctx k then some .budget
  else none

/-- The jobs of an operand fetch are accepted with their W intervals, before the instruction that uses them (R213, R423). -/
def acceptFetch (s : State) (g : Nat) (fetches : List Job) : State :=
  let k := (s.group g).core
  if fetches.isEmpty then s
  else
    let t := (s.drainWc (s.lane0 g)).enter (g / 16) k (fetches.flatMap s.jobIvals)
    let t := t.onCore k fun y => { y with jobs := y.jobs ++ fetches }
    { t.onGroup g fun y => { y with fetch := some ⟨s.serial, false⟩ } with serial := s.serial + 1 + fetches.length }

/-- The serial of the matrix instruction at which a group stands: the one that its fetch has named, or the next one. -/
def mmaSerial (s : State) (g : Nat) : Nat := match (s.group g).fetch with | some f => f.serial | none => s.serial

/-- The intervals that a matrix instruction enters: ACC over D, R over B, and R over the outlier list (R129, R130, R423). -/
def mmaIvals (s : State) (g : Nat) (outlier : Bool) (dof h count : Nat) (r : Resv) : List Interval :=
  let t := g / 16
  let k := (s.group g).core
  let ol := 16 * hOlist h
  [ival (.sp t) (dof, dof + 256 * (s.team t).record.width) .acc (s.mmaSerial g) k,
   ival (.res t (hRes h)) (bSpan r (hNoff h) (hKoff h)) .r (s.mmaSerial g) k]
    ++ (if outlier then [ival (.sp t) (ol, ol + 16 + 4 * count) .r (s.mmaSerial g) k] else [])

/-- The registers of A of every lane: those of the latch where the group holds one (R212). -/
def mmaRows (s : State) (g : Nat) (a : Reg) : List (List W32) :=
  match (s.group g).latch with
  | some l => l.rows
  | none => (s.lanes g).map fun i => (span a.toNat 32).map fun n => s.regOf i n

/-- A matrix instruction is accepted, with its intervals, once the engine and the scoreboard have room; one whose fetch has stopped meanwhile
is abandoned (R131, R212 to R214, R423). -/
def mmaAccept (s : State) (g : Nat) (outlier keep : Bool) (dof h count : Nat) (a : Reg) (r : Resv) : Fired :=
  let t := g / 16
  let k := (s.group g).core
  let ivs := s.mmaIvals g outlier dof h count r
  if 4 ≤ (s.core k).mms.length || !s.roomFor t k ivs then .wait .scoreboard s
  else
    let x : Mm := { serial := s.mmaSerial g, team := t, group := g, outlier := outlier, dof := dof, res := hRes h,
                    afmt := hAfmt h, noff := hNoff h, koff := hKoff h, olist := 16 * hOlist h, count := count,
                    rows := s.mmaRows g a, started := false, abandoned := (s.group g).fetch.any (·.stopped) }
    let s' := (s.enter t k ivs).onCore k fun y => { y with mms := y.mms ++ [x] }
    .done (s'.onGroup g fun y =>
      { y with latch := if keep then some ⟨hAfmt h, x.rows⟩ else none, mms := y.mms ++ [x.serial], fetch := none }).bump

/-- The offset of D and the handle, of lane 0 (R211). -/
def mmaDof (s : State) (g : Nat) (d : Reg) : Nat := (s.regOf (s.lane0 g) d.toNat).toNat
def mmaHandle (s : State) (g : Nat) (b : Reg) : Nat :=
  (pairOf (s.regOf (s.lane0 g) b.toNat) (s.regOf (s.lane0 g) (b.toNat + 1))).toNat

/-- Executes an `mma` or `mmo` for a complete group (R212 to R214, R423): its checks, the acceptance of its fetch, then its own. DESIGN CHOICE
(log 51): a group that waits for its own acceptance makes the checks but those of its fetch again. -/
def mmaExec (s : State) (g : Nat) (outlier keep : Bool) (d a b : Reg) : Fired :=
  match s.mmaChecks g outlier (s.mmaDof g d) (s.mmaHandle g b) with
  | .trap cause addr => .trap cause addr (s.dropFetch g)
  | .stall => .wait .scoreboard s
  | .pass r fs c =>
    match s.fetchWait g (fs.map (·.2)) with
    | some w => .wait w s
    | none => (s.acceptFetch g (fs.map (·.2))).mmaAccept g outlier keep (s.mmaDof g d) (s.mmaHandle g b) c a r

/-- Whether an older interval of a core conflicts with one of an owner's, among those that a part of it uses (R131). -/
def partBlocked (s : State) (k owner : Nat) (part : IClass → Bool) : Bool :=
  let ivs := (s.core k).ivals.zipIdx
  ivs.any fun (mine, i) => mine.owner == owner && part mine.cls &&
    ivs.any fun (o, j) => j < i && o.owner != owner && o.blocks mine.space mine.lo mine.hi mine.cls mine.engine

/-- Whether an older interval of a core conflicts with one of an owner's (R131). -/
def startBlocked (s : State) (k owner : Nat) : Bool := s.partBlocked k owner fun _ => true

/-- Whether a part of a job has to wait for an older interval in a scoreboard of its team (R131). -/
def jobBlocked (s : State) (j : Job) (part : IClass → Bool) : Bool :=
  (s.coresOfTeam j.team).any fun k => s.partBlocked k j.serial part

/-- Takes a matrix instruction off its core with its intervals, and wakes who waited for it. -/
def dropMm (s : State) (k : Nat) (x : Mm) : State :=
  let s := (s.coresOfTeam x.team).foldl (fun s k => s.onCore k fun y =>
    { y with ivals := y.ivals.filter fun iv => iv.owner != x.serial }) s
  let s := s.onCore k fun y => { y with mms := y.mms.filter fun (z : Mm) => z.serial != x.serial }
  let s := s.onGroup x.group fun y => { y with mms := y.mms.filter fun n => n != x.serial }
  ((((s.wakeCore k .scoreboard).wakeTeam x.team .scoreboard).wakeTeam x.team .fence).wakeTeam x.team .convergence).wakeTeam
    x.team .join

/-- The scratchpad after a multiply: every element of D formed once from its old value (R184, R423). -/
def mmaResult (s : State) (x : Mm) (r : Resv) : State :=
  let m := (s.team x.team).record.width / 2
  let outs := (span 0 x.count).map fun e => leNat (s.spBytes x.team (x.olist + 16 + 4 * e) 4)
  (span 0 m).foldl (fun s i => (span 0 128).foldl (fun s n =>
    let off := x.dof + 512 * i + 4 * n
    let old := BitVec.ofNat 32 (leNat (s.spBytes x.team off 4))
    s.spPut x.team off (natLe 4 (mmaElem x r m outs i n old).toNat)) s) s

end State

/-! ## The events of the engine (R214) -/

/-- `MMA_MULTIPLY_START`: the oldest instruction of a core starts once its fetches and every older conflicting interval are
gone; an abandoned one leaves (R131, R214, R423). -/
def execMmaMultiplyStart (core : Nat) (s : State) : Host.Outcome State Fault Refusal :=
  match (s.core core).mms with
  | [] => .next s
  | x :: rest =>
    if x.abandoned then .next (s.dropMm core x)
    else if x.started || (s.core core).jobs.any (fun j => j.fetchFor == some x.serial) ||
        (s.coresOfTeam x.team).any (fun k => s.startBlocked k x.serial) then .next s
    else .next (s.onCore core fun y => { y with mms := { x with started := true } :: rest })

/-- `MMA_COMPLETE`: the last adder update of the oldest started instruction; its intervals retire (R214, R423). -/
def execMmaComplete (core : Nat) (s : State) : Host.Outcome State Fault Refusal :=
  match (s.core core).mms with
  | [] => .next s
  | x :: _ =>
    if !x.started then .next s
    else match s.resvOn x.team x.res core with
      | none => .next (s.dropMm core x)
      | some r => .next ((s.mmaResult x r).dropMm core x)

/-! ## The events of jobs (R132, R134, R206) -/

namespace State

/-- The regions of a job that copies a clone's stack (R133, R147): the slot of the forking team, and the clone's once it has one. -/
def stackFoots (s : State) (j : Job) (t : Nat) : List Foot :=
  let hull (k : Nat) (w : Bool) : List Foot := (s.team k).slot.toList.map fun n =>
    ⟨s.slotBase j.ctx n, s.slotBase j.ctx n + 1024 * s.stackBytes j.ctx, w⟩
  hull j.team false ++ hull t true

/-- Whether a job has read the sources of every unit. -/
def sourcesRead (s : State) (j : Job) : Bool := (s.piecesOf j).all fun p => (missing j (pieceSrcs p)).isNone

/-- The regions in which a job has still accesses to make: a gath that has read its index list is done with that, and a job that has read all
its sources with the region that it reads (R133, R199). -/
def openFoots (s : State) (j : Job) : List Foot :=
  match j.cloneOf with
  | some (t, .stack) => s.stackFoots j t
  | some _ => []
  | none =>
  if j.desc.kind = 1 ∧ j.idx.length < j.desc.boxAt 1 then j.foots
  else if (s.piecesOf j).length ≤ j.moved.length then []
  else (if j.desc.kind = 1 then j.foots.drop 1 else j.foots).filter fun f => f.write || !s.sourcesRead j

/-- The regions that a job's next access may lie in. -/
def nextFoots (s : State) (j : Job) : List Foot :=
  match j.cloneOf with
  | some (t, .stack) => s.stackFoots j t
  | some _ => []
  | none => if j.desc.kind = 1 then if j.idx.length < j.desc.boxAt 1 then j.foots.take 1 else j.foots.drop 1 else j.foots

/-- Whether an earlier unfinished job of the die, in the same view, has still accesses to make in a region that conflicts with a
job's next access (R133, R154). -/
def footBlocked (s : State) (j : Job) : Bool :=
  let die := j.core / 96
  s.cores.any fun e => e.1 / 96 == die && e.2.jobs.any fun o =>
    o.serial < j.serial && o.view == j.view && o.ctx == j.ctx &&
      (s.openFoots o).any fun a => (s.nextFoots j).any fun b => (a.write || b.write) && a.lo < b.hi && b.lo < a.hi

/-- Whether the copy budget lets a job go on: one that has been accepted completes, and the copy of a part of a clone's image is accepted with
its first access (R91). -/
def shareOpen (s : State) (j : Job) : Bool := j.cloneOf.isNone || j.bytes != 0 || s.copyShare j.ctx j.core

/-- Whether a job may make its next access (R17, R91, R133). A job of a context that is being torn down makes none (R295). -/
def jobReady (s : State) (j : Job) : Bool :=
  (s.unitJobs j.core).any (fun o => o.serial == j.serial) && !j.held && !j.stopped && (s.ctx j.ctx).state != 4 && (s.ctx j.ctx).state != 5 && !s.footBlocked j &&
    s.shareOpen j

/-- Charges a job for the 64 B units that it has moved since it had moved a number of bytes (R90). -/
def chargeMoved (s : State) (j : Job) (before : Nat) : State :=
  s.charge j.ctx 2 (j.core / 96) (ceilDiv j.bytes 64 - ceilDiv before 64)

/-- The indices of a gath that lie in a sector of its list, from the job's next one on (R199, R409). -/
def indicesIn (j : Job) (bs : List Byte) : List Nat :=
  let iw := if j.desc.param = 1 then 8 else 4
  let a := (j.idxa.toNat + iw * j.idx.length) % 32
  let n := min ((32 - a) / iw) (j.desc.boxAt 1 - j.idx.length)
  (span 0 n).map fun i => leNat ((bs.drop (a + iw * i)).take iw)

/-- Reads the indices of a gath that lie in the next sector of its list (R199, R409). -/
def readIndices (s : State) (j : Job) : Moved (List Nat) :=
  let iw := if j.desc.param = 1 then 8 else 4
  (s.readSector j true (j.idxa.toNat + iw * j.idx.length)).andThen fun bs s => .ok (indicesIn j bs) s

/-- Whether an index of a gath stops the job before row r (R199, R409). -/
def indexStops (j : Job) (r : Nat) : Bool := j.desc.kind == 1 && j.desc.ooberr && j.desc.boundAt 1 ≤ j.idx.getD r 0

/-- The row of unit n of a gath. -/
def rowOf (s : State) (j : Job) (n : Nat) : Nat :=
  let rec go (s : State) (n : Nat) : List Nat → Nat
    | [] => 0
    | r :: rs => if n < (j.gathRow r).length then r else go s (n - (j.gathRow r).length) rs
  go s n (span 0 (j.desc.boxAt 1))

/-- The unit that a job goes on with: the rows of a gath and the blocks of a quant are handled in ascending order (R409, R437), and the
units of a copy or unfold in any (R134). -/
def nextUnit (j : Job) (n : Nat) : Nat := if j.desc.kind = 1 ∨ j.desc.kind = 3 then j.moved.length else n

/-- Whether the next access of a unit has to wait for an older interval of the scoreboard (R131): a read of the scratchpad for the job's
R interval, a write for its W interval; an access to global memory alone for none. -/
def unitBlocked (s : State) (j : Job) (p : Piece) : Bool :=
  match missing j (pieceSrcs p) with
  | some _ => j.desc.dir == 3 && s.jobBlocked j fun c => c == .r
  | none => s.jobBlocked j fun c => if j.desc.dir = 1 then c == .r else c == .w

/-- One access of a job: the next index sector of a gath whose list is not read yet, or a source sector or the destination of unit n
(R134, R199, R202, R203). DESIGN CHOICE (log 30): a record of cause 0x05 names the sector of the index in its list, not one of the row. -/
def stepJob (s : State) (j : Job) (n : Nat) : State :=
  if j.desc.kind = 1 ∧ j.idx.length < j.desc.boxAt 1 then
    match s.readIndices j with
    | .ok is s => s.setJob { j with idx := j.idx ++ is }
    | .hold s => s.setJob { j with held := true }
    | .spent s => s
    | .stop c a s => s.stopJob j c a true
  else
    let n := nextUnit j n
    if j.desc.kind = 1 && indexStops j (s.rowOf j n) then
      s.stopJob j 5 (j.idxa.toNat + (if j.desc.param = 1 then 8 else 4) * s.rowOf j n) false
    else match (s.piecesOf j)[n]? with
      | none => s
      | some p =>
        if j.moved.contains n || s.unitBlocked j p then s
        else match s.movePiece j p with
          | .ok (done, j') s => (s.setJob { j' with moved := if done then j'.moved ++ [n] else j'.moved }).chargeMoved j' j.bytes
          | .hold s => s.setJob { j with held := true, heldAt := n }
          | .spent s => s
          | .stop c a s => s.stopJob j c a false

/-- One sector of a clone's stack: the forking team's bytes as `fork` found them (R116, R147, R149). -/
def cloneStack (s : State) (j : Job) (t : Nat) : State :=
  let n := j.idx.headD 0
  let src := s.slotBase j.ctx ((s.team j.team).slot.getD 0) + 32 * n
  let dst := s.slotBase j.ctx ((s.team t).slot.getD 0) + 32 * n
  match s.readSector j false src with
  | .hold s => s.setJob { j with held := true }
  | .spent s => s
  | .stop c a s => s.stopJob j c a false
  | .ok bs s =>
    let bs := ((span src 32).zip bs).map fun e => (j.keep.find? e.1).getD e.2
    match s.xlat j.ctx dst .write 2 j.core 0 with
    | (.fatal, s) => s.stopJob j 6 dst false
    | (.hold _, s) => s.setJob { j with held := true }
    | (.ok key leaf, s) =>
      if 2 ≤ leaf.type then s.stopJob j 1 dst false
      else match s.jobTurn j key (n % 2 == 1) with
        | none => s
        | some s =>
          let j' := { j with idx := [n + 1], bytes := j.bytes + 32 }
          let s := (s.writeView j.ctx 0 leaf.prot key bs).chargeMoved j' j.bytes
          if 32 * s.stackBytes j.ctx ≤ n + 1 then s.finishJob j else s.setJob j'

/-- Whether an older job or matrix instruction of a team has still a W or ACC interval that a copy of its image waits for: the copy carries
the barrier counts as those jobs leave them (R149). -/
def imageBlocked (s : State) (j : Job) : Bool :=
  (s.ivalsOfTeam j.team).any fun iv => iv.cls != .r && iv.owner < j.serial

/-- One access of a job that copies a part of a clone's image, once the clone is placed (R90, R147 to R149). -/
def stepClone (s : State) (j : Job) (t : Nat) (part : ClonePart) : State :=
  let ends (n : Nat) (s : State) := (s.chargeMoved { j with bytes := n } 0).finishJob j
  if (s.team t).phase != .copying && (s.team t).phase != .saving then s
  else match part with
  | .scratch =>
    if s.imageBlocked j then s
    else ends (s.scratchSize j.team) (s.onTeam t fun x => { x with sp := j.keep.foldl (fun m e => m.set e.1 e.2) (s.team j.team).sp })
  | .resv id =>
    if s.imageBlocked j then s
    else match (s.team j.team).resv.find? id with
      | none => s.finishJob j
      | some r => ends (r.units * 256) (s.onTeam t fun x =>
          { x with resv := x.resv.mapVals fun i y => if i = id then { y with bytes := r.bytes, serial := r.serial } else y })
  | .stack => s.cloneStack j t

/-- The jobs of a context that wait for a page (R202). -/
def heldJobs (s : State) (c : Nat) : List Job := s.cores.flatMap fun e => e.2.jobs.filter fun j => j.ctx == c && j.held

/-- What an access of a job meets at a page that has become fatal: the cause, the address, and whether it read an index list. -/
def fatalAt (page : Nat) (step1 : Bool) {α : Type} : Moved α → Option (Nat × Nat × Bool)
  | .stop cause a _ => if a / 4096 = page then some (cause, a, step1) else none
  | _ => none

/-- What a suspended job meets at the access that it waits for when a page of its context has become fatal (R202, R203): nothing where it
waits for another page. -/
def fatalOf (s : State) (j : Job) (page : Nat) : Option (Nat × Nat × Bool) :=
  match j.cloneOf with
  | some (t, _) =>
    let at_ (k : Nat) := s.slotBase j.ctx ((s.team k).slot.getD 0) + 32 * j.idx.headD 0
    match s.readSector j false (at_ j.team) with
    | .stop c a s => fatalAt page false (.stop c a s : Moved Unit)
    | .hold _ => none
    | .ok _ _ | .spent _ => if at_ t / 4096 = page then some (6, at_ t, false) else none
  | none =>
    if j.desc.kind = 1 ∧ j.idx.length < j.desc.boxAt 1 then fatalAt page true (s.readIndices j)
    else (s.piecesOf j)[j.heldAt]?.bind fun p => fatalAt page false (s.movePiece j p)

/-- A page under fault with a fatal kind, its record written. -/
def markFatal (s : State) (c page : Nat) : State :=
  s.onCtx c fun x => { x with under := x.under.map fun u => if u.page = page then { u with kind := 0x43, recorded := true } else u }

/-- A page becomes fatal: each job that waits for it stops with its cause and its record, before the teardown (R203). -/
def failJobs (s : State) (c page : Nat) : State :=
  (s.heldJobs c).foldl (fun t j =>
    match (s.markFatal c page).fatalOf j page with
    | some (cause, a, step1) => t.stopJob j cause a step1
    | none => t) s

/-- The counted sectors of a job whose units have all been moved and that have not landed (R206). -/
def landable (s : State) (j : Job) : List Nat :=
  let ps := (s.piecesOf j).zipIdx
  (s.sectorsOf j).filter fun k =>
    !j.landed.contains k && ps.all fun e => !e.1.ids.contains k || j.moved.contains e.2

/-- Whether a job has made every access: its indices are read, its units moved, its sectors landed. -/
def jobDone (s : State) (j : Job) : Bool :=
  (j.desc.kind != 1 || j.desc.boxAt 1 ≤ j.idx.length) && (s.piecesOf j).length ≤ j.moved.length &&
    (s.sectorsOf j).length ≤ j.landed.length

/-- The address that names a destination sector in a record: in the scratchpad window, in global memory, or the offset in a reservation
(R203, R285). DESIGN CHOICE (log 30): a reservation has no generic address, so that its bytes are named by their offset alone. -/
def sectorAddr (j : Job) (k : Nat) : Nat :=
  match j.desc.dir with
  | 0 => (scratchAddr (32 * k)).toNat
  | 1 =>
    if j.desc.kind = 1 then
      let n := max 1 (j.desc.esz * j.desc.boxAt 0 / 32)
      (j.desc.gbase.toNat + j.desc.esz * (j.c0 + j.desc.strideAt 1 * j.idx.getD (k / n) 0)).toNat + 32 * (k % n)
    else 32 * k
  | _ => 32 * k

/-- One landing update of a barrier (R206): with no sector awaited it sets ERROR and stops the job with cause 0x08 (R203). -/
def land (s : State) (j : Job) (k : Nat) : State :=
  let j' := { j with landed := j.landed ++ [k] }
  match j.bar with
  | none => s.setJob j'
  | some off =>
    let b := s.barrier j.team off
    if b.sectors = 0 then (s.setJob j').stopJob j' 8 (sectorAddr j k) false
    else (s.setJob j').updateBarrier j.team off j.serial fun b => { b with sectors := b.sectors - 1 }.advance

/-- Whether a job has made every read of its source (R132). -/
def readsDone (s : State) (j : Job) : Bool :=
  (j.desc.kind != 1 || j.desc.boxAt 1 ≤ j.idx.length) &&
    if j.desc.dir = 3 then (s.piecesOf j).all fun p => (missing j (pieceSrcs p)).isNone
    else (s.piecesOf j).length ≤ j.moved.length

/-- A job of a core by serial. -/
def jobOf (s : State) (core serial : Nat) : Option Job := (s.core core).jobs.find? fun j => j.serial == serial

end State

/-- `JOB_SECTOR` (R134): a job of a core moves one unit of data. -/
def execJobSector (core job sector : Nat) (s : State) : Host.Outcome State Fault Refusal :=
  match s.jobOf core job with
  | none => .next s
  | some j =>
    if !s.jobReady j then .next s
    else match j.cloneOf with
    | some (t, part) => .next (s.stepClone j t part)
    | none =>
      let s := s.stepJob j sector
      match s.jobOf core job with
      | some j => .next (if s.jobDone j then s.finishJob j else s)
      | none => .next s

/-- `SECTOR_LAND` (R206): the next moved sector of a job lands and updates its barrier; the job ends with its last. -/
def execSectorLand (core job : Nat) (s : State) : Host.Outcome State Fault Refusal :=
  match s.jobOf core job with
  | none => .next s
  | some j =>
    match s.landable j with
    | [] => .next s
    | k :: _ =>
      let s := s.land j k
      match s.jobOf core job with
      | some j => .next (if s.jobDone j then s.finishJob j else s)
      | none => .next s

/-- `INTERVAL_RETIRE` (R132): an interval whose owner has made its accesses leaves the scoreboard. -/
def execIntervalRetire (core idx : Nat) (s : State) : Host.Outcome State Fault Refusal :=
  match (s.core core).ivals[idx]? with
  | none => .next s
  | some iv =>
    let owned := s.cores.any fun e => e.2.mms.any (fun m => m.serial == iv.owner) ||
      e.2.jobs.any fun j => j.serial == iv.owner &&
        !(j.cloneOf.isNone && iv.cls == .r && s.readsDone j)
    if owned then .next s
    else
      let s := s.onCore core fun y => { y with ivals := y.ivals.eraseIdx idx }
      .next ((s.wakeCore core .scoreboard).wake .scoreboard fun i => match iv.space with
        | .sp t => State.teamOf i == t
        | .res t _ => State.teamOf i == t)

end Sys2Proof.Machine
end

