-- ==== Sys2Proof/Machine/Ending.lean ====
section
/-! DEFINITION. The end of a team (R34, R204, R295, R296): its jobs cancelled, its cores cleared, its stack written back and its
successor block decremented. -/

namespace Sys2Proof.Machine

namespace State

/-- The address that names where a job stands: the index sector, source sector or destination sector that it would access next, or the
one that has still to land (R203). -/
def nextAddr (s : State) (j : Job) : Nat :=
  if j.desc.kind = 1 ∧ j.idx.length < j.desc.boxAt 1 then j.idxa.toNat + (if j.desc.param = 1 then 8 else 4) * j.idx.length
  else
    let ps := (s.piecesOf j).zipIdx
    match ps.find? fun e => !j.moved.contains e.2 with
    | some (p, _) =>
      match missing j (pieceSrcs p) with
      | some a => if 2 ^ 60 ≤ a then (scratchAddr (a - 2 ^ 60)).toNat else a
      | none => sectorAddr j (p.ids.headD 0)
    | none => sectorAddr j (((s.sectorsOf j).find? fun k => !j.landed.contains k).getD 0)

/-- Cancels the jobs of a team with cause 0x07 (R203, R204): each leaves a record with its kind, its step and its sector's address, unless
the context ends. DESIGN CHOICE (log 30): the copies of a clone's image are jobs of the forking team and are cancelled with them, so that
such a clone never starts. -/
def cancelJobs (s : State) (t : Nat) (records : Bool) : State :=
  let x := s.team t
  let s := (s.jobsOf t).foldl (fun s j =>
    if records then
      s.errorRecord x.ctx 0x05 0x07 (j.desc.kind + 16 * jobStep j (j.desc.kind == 1 && j.idx.length < j.desc.boxAt 1))
        (BitVec.ofNat 64 (s.nextAddr j / 32 * 32)) x.record.seq.toNat j.core
    else s) s
  (s.coresOfTeam t).foldl (fun s k => s.onCore k fun y =>
    let gone := (y.jobs.filter fun j => j.team == t).map (·.serial) ++ (y.mms.filter fun m => m.team == t).map (·.serial)
    { y with jobs := y.jobs.filter fun j => j.team != t, mms := y.mms.filter fun m => m.team != t,
             ivals := y.ivals.filter fun iv => !gone.contains iv.owner }) s

/-- Finishes the end of a team (R100, R296, R371): its dirty stack lines are written back, then its stack slot is free, and then, at a
normal end in the root view, its successor block is decremented. A page under fault holds the end. -/
def finishEnd (s : State) (t : Nat) : State :=
  let s := s.writeBackTeam t
  let x := s.team t
  let s := if x.dirty.isEmpty then s.onTeam t fun y => { y with slot := none } else s
  if !x.dirty.isEmpty then s
  else if x.killed || x.view != 0 then { s with teams := s.teams.erase t }
  else match s.decrementSuccessor t with
    | none => s.touchSuccessor t
    | some s => { s with teams := s.teams.erase t }

/-- Performs the waiting stores of a thread that ends. DESIGN CHOICE (log 14): one that finds the side log full is made later, as a unit's
store of its core (R34, R128). -/
def drainEnd (s : State) (i : Nat) : State :=
  let c := s.ctxOf i
  if s.drainReady i then s.drainWc i
  else (s.thread i).wc.foldl (fun s w =>
    if s.faulting c (w.va / 4096) then s.onCtx c fun x => { x with posts := x.posts ++ [⟨s.coreOf i, w.va, w.data⟩] }
    else s.performWc i w) s

/-- Ends a team (R34, R296): its barriers are examined, its jobs cancelled, its cores cleared, and its end finished. -/
def endTeam (s : State) (t : Nat) (killed : Bool) : State :=
  let x := s.team t
  let offs := s.examined t
  let s := s.abandonBarriers t offs
  let s := s.cancelJobs t true
  let s := if killed then s else s.updateEstimate (x.core / 96) x.ctx x.record.entry (s.runTime t)
  let s := (s.threadsOf t).foldl (fun s i => s.drainEnd i) s
  let s := (s.clearCores t).freeImage t
  let s := s.onTeam t fun x => { x with phase := .ending, killed := killed, resv := [], sp := [], image := none, drain := false }
  s.finishEnd t

/-- Drops a team whose context is torn down: no records, no write-back, no decrement (R295, R296). -/
def dropTeam (s : State) (t : Nat) : State :=
  let s := s.cancelJobs t false
  let s := (s.clearCores t).freeImage t
  { s with teams := s.teams.erase t }

/-- Finishes every team end of a context that a page held (R100, R127). -/
def retryEnds (s : State) (c : Nat) : State :=
  let ts := (s.teams.filter fun e => e.2.ctx == c && e.2.phase == .ending).map fun e => e.1
  ts.foldl (fun s t => s.finishEnd t) s

end State

end Sys2Proof.Machine
end

