-- ==== Sys2Proof/Machine/World.lean ====
section
/-! DEFINITION. Worlds: `fork` with its clones (R146 to R150, R377), `wend` and `wvr` (R159 to R161, R462), `choose` with its commit
(R122, R162 to R164, R360), abstaining and killed rivals (R160, R279), and the sweep of view ids (R165). -/

namespace Sys2Proof.Machine

namespace State

/-! ## Going on past a convergence point -/

/-- A thread that stood at a convergence point goes on with the next word, and parks when its word carried the switch marker and
a result is pending (R44, R61). -/
def pass (s : State) (i : Nat) : State :=
  s.onThread i fun t =>
    let m := (t.arrival.any fun a => a.switch) && !t.pending.isEmpty
    { t with pc := nextPc t.pc, arrival := none, wait := if m then .marker else .ready,
             waited := if m then .marker else .ready, waitCount := 0, readyAt := s.cycle }

/-- The threads of a team that stand at a convergence point. -/
def arrivedOf (s : State) (t : Nat) : List Nat := (s.liveOf t).filter fun i => (s.thread i).arrival.isSome

/-- Every arrived thread of a team goes on. -/
def passTeam (s : State) (t : Nat) : State := (s.arrivedOf t).foldl (fun s i => s.pass i) s

/-- Every arrived thread of a team waits for a reason. -/
def holdTeam (s : State) (t : Nat) (w : Wait) : State := (s.arrivedOf t).foldl (fun s i => s.parkThread i w) s

/-- The live thread of a team with the lowest tid. -/
def lowest (s : State) (t : Nat) : Nat := (s.liveOf t).headD (t * 1024)

/-! ## Views and worlds of a context -/

/-- The free view ids of a context, lowest first; none where worlds are disabled (R141, R142, R166). -/
def freeViews (s : State) (c : Nat) : List Nat :=
  if poolPages (s.ctx c) = 0 then []
  else (span 1 63).filter fun n => (s.view c n).state == .free

/-- The views of a context that have a given parent and are live or parked (R144). -/
def childViews (s : State) (c n : Nat) : List Nat :=
  (span 1 63).filter fun m => (s.view c m).parent == n && ((s.view c m).state == .live || (s.view c m).state == .parked)

/-- A world of a context. -/
def world (s : State) (c w : Nat) : Option World := (s.ctx c).worlds.find? w

def setWorld (s : State) (c w : Nat) (x : World) : State := s.onCtx c fun y => { y with worlds := y.worlds.set w x }

/-- Changes one rival of a world. -/
def onRival (s : State) (c w i : Nat) (f : Rival → Rival) : State :=
  match s.world c w with
  | none => s
  | some x => s.setWorld c w { x with rivals := x.rivals.zipIdx.map fun (r, j) => if j = i then f r else r }

/-- The rival that a team is in its innermost world. -/
def rivalOf (s : State) (t : Nat) : Option Rival :=
  match (s.team t).world with
  | none => none
  | some w => (s.world (s.team t).ctx w).bind fun x => x.rivals[(s.team t).rival]?

/-- Whether a team runs on a core. -/
def onCores (s : State) (t : Nat) : Bool := (s.team t).phase == .placed || (s.team t).phase == .draining

/-- Sets the state of a view. -/
def setViewState (s : State) (c n : Nat) (x : ViewState) : State := s.setView c n { s.view c n with state := x }

/-- Drops the side-log entries of a view, which write only that view's versions (R168), and lets who waits for room try again. -/
def dropViewLog (s : State) (c n : Nat) : State :=
  ({ s with cores := s.cores.mapVals fun _ k => { k with log := k.log.filter fun l => !(l.ctx == c && l.view == n) } }).wake
    .sideLog fun _ => true

/-- Makes a view dead: its versions, its outbox and its logged accesses are dropped (R157, R162, R165, R168). The cells of its versions and
of its outbox stay in use until the sweep (R157, R165). -/
def killView (s : State) (c n : Nat) : State :=
  if (s.view c n).state = .live ∨ (s.view c n).state = .parked then
    ((s.setView c n { s.view c n with state := .dead, outbox := [], bytes := [], reserved := 0,
                                         outCells := (s.view c n).outbox.length }).onCtx c fun y =>
      { y with sweep := y.sweep ++ [n] }).dropViewLog c n
  else s

/-! ## Fork (R146 to R150) -/

/-- The jobs that a team has issued and that access global memory (R146, R159). -/
def globalJobs (s : State) (t : Nat) : List Job := (s.jobsOf t).filter fun j => !j.foots.isEmpty

/-- The job that copies one part of a forking team's image to a clone (R147). -/
def imageJob (s : State) (t clone serial core : Nat) (part : ClonePart) : Job :=
  { serial := serial, desc := readDesc [], c0 := 0, c1 := 0, c2 := 0, idxa := 0, bar := none, team := t,
    thread := t * 1024, ctx := (s.team t).ctx, view := 0, core := core, idx := [], got := [], bytes := 0, moved := [], landed := [],
    stopped := false, held := false, heldAt := 0, foots := [], fetchFor := none, cloneOf := some (clone, part),
    keep := if part = .stack then (s.team t).dirty else [] }

/-- The image jobs of one clone, each with the interval that it enters (R147, R149). -/
def imageJobs (s : State) (t clone : Nat) (serial : Nat) : List (Job × List Interval) :=
  let x := s.team t
  let scratch := s.imageJob t clone serial x.core .scratch
  let rs := x.resv.zipIdx.map fun (e, k) =>
    let j := s.imageJob t clone (serial + 2 + k) e.2.core (.resv e.1)
    (j, [(⟨.res t e.1, 0, e.2.units * 256, .r, j.serial, e.2.core⟩ : Interval)])
  let stack := if s.stackBytes x.ctx = 0 then [] else [(s.imageJob t clone (serial + 1) x.core .stack, [])]
  (scratch, [⟨.sp t, 0, s.scratchSize t, .r, serial, x.core⟩]) :: rs ++ stack

/-- The scoreboard entries that jobs with their intervals take in a core. -/
def entriesOf (s : State) (t k : Nat) (js : List (Job × List Interval)) : List Interval :=
  js.flatMap fun e => s.entriesFor t k e.1.core e.2

/-- Creates one clone of a team as a rival (R146 to R148). -/
def makeClone (s : State) (t clone view j world : Nat) (d : Reg) (copies : Nat) : State :=
  let x := s.team t
  let y : Team := { x with
    die := x.core / 96, core := noCore, slot := none, phase := .waiting, view := view, rival := j, world := some world,
    sp := [], dirty := [], startedAt := s.cycle, firstQueued := s.cycle, firstInLine := none, blocking := false,
    transit := false, clone := true,
    copies := copies, resv := x.resv.mapVals fun _ r => { r with core := noCore + (r.core - x.core), bytes := [] } }
  let s := s.setTeam clone y
  let s := (s.threadsOf t).foldl (fun s i =>
    let th := s.thread i
    s.setThread (clone * 1024 + tidOf i)
      { th with pc := if th.live then nextPc th.pc else th.pc, wait := .ready, waited := .ready, waitCount := 0,
                readyAt := s.cycle, arrival := none, wc := [], barAt := none,
                regs := if th.live then th.regs.set d.toNat (BitVec.ofNat 32 j) else th.regs }) s
  (s.groupsOf t).foldl (fun s g =>
    s.setGroup (clone * 16 + g % 16) { s.group g with core := noCore, mms := [], blocks := [] }) s

/-- Executes `fork` for a team whose live threads have all arrived (R146, R149, R150, R166). -/
def forkExec (s : State) (t n : Nat) (d : Reg) : Fired :=
  let x := s.team t
  let c := x.ctx
  let ids := (s.freeViews c).take n
  if (s.liveOf t).any (fun i => !(s.thread i).pending.isEmpty) || !(s.globalJobs t).isEmpty then .wait .convergence s
  else if 3 ≤ (s.view c x.view).depth then .trap 0x20 0 s
  else if (s.rivalOf t).any fun r => r.verdict.isSome then .trap 0x21 0 s
  else if ids.length < n then .trap 0x23 0 s
  else
    let per := 2 + x.resv.length
    let w := s.serial
    let clones := (span 1 (n - 1)).map fun j => (j, s.serial + j)
    let js := clones.flatMap fun (j, id) => s.imageJobs t id (s.serial + n + (j - 1) * per)
    if (s.coresOfTeam t).any fun k => 64 < (s.core k).ivals.length + (s.entriesOf t k js).length then
      .wait .scoreboard s
    else
      let rivals := (ids.zipIdx).map fun (v, j) =>
        ({ team := if j = 0 then t else s.serial + j, view := v, verdict := none, parked := false, abstained := false,
           chosen := none } : Rival)
      let s' := (ids.zipIdx).foldl (fun s' (v, j) => s'.setView c v
        { View.free with state := .live, parent := x.view, depth := (s.view c x.view).depth + 1, rival := j,
                         nriv := n - 1 }) s
      let s' := s'.setWorld c w ⟨rivals, false, x.rival, x.world⟩
      let s' := clones.foldl (fun s' (j, id) => s'.makeClone t id (ids.getD j 0) j w d
        (s.imageJobs t id 0).length) s'
      let s' := (s.coresOfTeam t).foldl (fun s' k => s'.onCore k fun y =>
        { y with ivals := y.ivals ++ s.entriesOf t k js }) s'
      let s' := js.foldl (fun s' e => s'.onCore e.1.core fun y => { y with jobs := y.jobs ++ [e.1] }) s'
      let s' := s'.onTeam t fun y => { y with view := ids.getD 0 0, rival := 0, world := some w }
      let s' := (s'.liveOf t).foldl (fun s' i => s'.onThread i fun th => th.setReg d.toNat 0) s'
      .done { s' with serial := s.serial + n + (n - 1) * per }

/-! ## Join (R159 to R161) -/

/-- Whether a rival still has accesses that `wend` and `choose` wait for (R159). -/
def undrained (s : State) (t : Nat) : Bool :=
  !(s.globalJobs t).isEmpty || (s.threadsOf t).any (fun i => !(s.thread i).wc.isEmpty) ||
    s.cores.any fun e => e.2.log.any fun l => l.team == t

/-- Resumes the parked rivals of a world when every rival is parked or has abstained (R159, R167). -/
def tryJoin (s : State) (c w : Nat) : State :=
  match s.world c w with
  | none => s
  | some x =>
    if x.resumed || !x.rivals.all (fun r => r.abstained || (r.parked && s.onCores r.team)) ||
        x.rivals.all (fun r => r.abstained) then s
    else
      let go := x.rivals.filter fun r => r.parked && !r.abstained
      let s := s.setWorld c w { x with resumed := true, rivals := x.rivals.map fun r => { r with parked := false } }
      go.foldl (fun s r => (s.setViewState c r.view .live).passTeam r.team) s

/-- Executes `wend` for a rival whose live threads have all arrived (R159). -/
def wendExec (s : State) (t : Nat) (a : Reg) : Fired :=
  let x := s.team t
  match x.world, s.rivalOf t with
  | some w, some r =>
    if r.parked then .handled ((s.holdTeam t .join).tryJoin x.ctx w)
    else if r.verdict.isSome then .trap 0x21 0 s
    else if s.undrained t then .wait .join s
    else
      let v := s.regOf (s.lowest t) a.toNat
      let s := s.onRival x.ctx w x.rival fun r => { r with verdict := some v, parked := true }
      .handled (((s.setViewState x.ctx x.view .parked).holdTeam t .join).tryJoin x.ctx w)
  | _, _ => .trap 0x21 0 s

/-- The world of a team, once its join has resumed. -/
def resumedWorld (s : State) (t : Nat) : Option World :=
  match (s.team t).world with
  | none => none
  | some w => (s.world (s.team t).ctx w).filter fun x => x.resumed

end State

/-- `wvr` (R161). -/
def execWvr (d a : Reg) (s : State) : Host.Outcome State Fault Refusal :=
  issue s (regs [d, a]) fun s =>
    match s.resumedWorld s.curTeam with
    | none => .trap 0x21 0 0 s
    | some x => .ok () (s.setV d (((x.rivals[(s.v a).toNat]?).bind fun r => r.verdict).getD 0xFFFFFFFF))

namespace State

/-! ## Choose (R162 to R164) -/

/-- What the winner's view wrote becomes the parent's, in one event (R122), on a protected page as a protected access (R307). -/
def commitView (s : State) (c n : Nat) : State :=
  let v := s.view c n
  let s := s.setView c n { v with state := .merged, bytes := [] }
  if v.parent = 0 then v.bytes.foldl (fun s e => s.pageWrite c (v.prots.contains (e.1 / 4096)) e.1 [e.2]) s
  else
    let p := s.view c v.parent
    s.setView c v.parent { p with bytes := v.bytes.foldl (fun m e => m.set e.1 e.2) p.bytes,
                                  pages := v.pages.foldl (fun l g => insertNat g l) p.pages,
                                  prots := v.prots.foldl (fun l g => insertNat g l) p.prots }

/-- Whether the commit of a view has to wait: for a page that the view has written and that is under fault, where a logged store whose
place is earlier has still to be replayed, or for a logged access of its own (R122, R127, R168). -/
def commitHeld (s : State) (c n : Nat) : Bool :=
  (s.view c n).pages.any (fun p => (s.ctx c).under.any fun u => u.page == p) ||
    s.cores.any fun e => e.2.log.any fun l => l.ctx == c && l.view == n

/-- The winner goes on as the forked team in the parent view; its outbox runs, or moves to the parent (R157, R158, R163). DESIGN CHOICE
(log 34): the parent's outbox may come to hold more than the 1,024 entries that R144 counts to and R166 allows an issue, for R157 appends
them and names no other outcome. -/
def promote (s : State) (c t view : Nat) (x : World) : State :=
  let v := s.view c view
  let s := s.onTeam t fun y =>
    { y with view := v.parent, rival := if x.outerWorld.isSome then x.outerRival else 0, world := x.outerWorld }
  let s := match x.outerWorld with
    | some ow => s.onRival c ow x.outerRival fun r => { r with team := t }
    | none => s
  if v.parent ≠ 0 then
    let s := s.setView c view { v with outbox := [] }
    let p := s.view c v.parent
    (s.setView c v.parent { p with outbox := p.outbox ++ v.outbox }).passTeam t
  else if v.outbox.isEmpty then s.passTeam t
  else (s.onCtx c fun y => { y with runs := y.runs ++ [⟨view, t, (s.team t).core / 96, false⟩] }).holdTeam t .join

/-- The commit of a world to one of its rivals (R162, R163). -/
def commitWorld (s : State) (c w idx : Nat) (x : World) : State :=
  match x.rivals[idx]? with
  | none => s
  | some win =>
    let s := s.commitView c win.view
    let s := s.onCtx c fun y => { y with sweep := y.sweep ++ [win.view], worlds := y.worlds.erase w }
    let losers := (x.rivals.zipIdx.filter fun e => e.2 != idx).map fun e => e.1
    let s := losers.foldl (fun s r => s.killView c r.view) s
    let s := (losers.filter fun r => !r.abstained).foldl (fun s r => s.endTeam r.team true) s
    s.promote c win.team win.view x

/-- The disagreement of a world: its arrived threads trap, and every rival arrives anew (R162, R164). -/
def disagree (s : State) (c w : Nat) (x : World) : State :=
  let s := s.setWorld c w { x with rivals := x.rivals.map fun r => { r with chosen := none } }
  (x.rivals.filter fun r => !r.abstained).foldl (fun s r =>
    (s.arrivedOf r.team).foldl (fun s i => s.raiseAt i 0x22 0 0) s) s

/-- Decides a world once every rival that has not abstained has arrived at its `choose` (R162, R167), and no page under fault holds the
commit (R127). -/
def tryChoose (s : State) (c w : Nat) : State :=
  match s.world c w with
  | none => s
  | some x =>
    let a := x.rivals.filter fun r => !r.abstained
    match a with
    | [] => s
    | r0 :: _ =>
      if !x.resumed || a.any (fun r => r.chosen.isNone || !s.onCores r.team) then s
      else
        let idx := (r0.chosen.getD 0).toNat
        if a.any (fun r => r.chosen != r0.chosen) || (x.rivals[idx]?).all (fun r => r.abstained) then s.disagree c w x
        else if (x.rivals[idx]?).any (fun r => s.commitHeld c r.view) then s
        else s.commitWorld c w idx x

/-- Executes `choose` for a rival whose live threads have all arrived (R162). A winner whose outbox still runs waits for it, and
goes on when it has run (R158). DESIGN CHOICE (log 34): a finished run stays noted with its team until the team stands at a `choose`, so
that a winner whose handler never returns to its own takes its next one as done. -/
def chooseExec (s : State) (t : Nat) (a : Reg) : Fired :=
  let x := s.team t
  match (s.ctx x.ctx).runs.find? fun r => r.team == t with
  | some r =>
    if r.finished then
      .done (s.onCtx x.ctx fun y => { y with runs := y.runs.filter fun q => q.team != t })
    else .wait .join s
  | none =>
    match x.world, s.resumedWorld t with
    | some w, some _ =>
      if s.undrained t then .wait .join s
      else
        let v := s.regOf (s.lowest t) a.toNat
        let s := s.onRival x.ctx w x.rival fun r => { r with chosen := some v }
        .handled ((s.holdTeam t .join).tryChoose x.ctx w)
    | _, _ => .trap 0x21 0 s

/-! ## Abstaining, killing and ending rivals (R160, R164, R279) -/

/-- A rival abstains; its view stays live, or is live again, until the world ends (R160). When every rival of its world has, every view of the world dies and the forked team ends as killed, so that
it abstains from the enclosing world (R160, R164). The first argument bounds the nesting (R141). -/
def abstain : Nat → State → Nat → Nat → Nat → State
  | 0, s, _, _, _ => s
  | fuel + 1, s, c, w, i =>
    let s := s.onRival c w i fun r => { r with abstained := true, parked := false, chosen := none }
    match s.world c w with
    | none => s
    | some x =>
      let s := match x.rivals[i]? with
        | some r => if (s.view c r.view).state = ViewState.parked then s.setViewState c r.view .live else s
        | none => s
      if x.rivals.all fun r => r.abstained then
        let s := x.rivals.foldl (fun s r => s.killView c r.view) s
        let s := s.onCtx c fun y => { y with worlds := y.worlds.erase w }
        match x.outerWorld with
        | some ow => abstain fuel s c ow x.outerRival
        | none => s
      else if x.resumed then s.tryChoose c w
      else s.tryJoin c w

/-- Drops the jobs that copy an image to a clone that will not start. -/
def dropImages (s : State) (t : Nat) : State :=
  { s with cores := s.cores.mapVals fun _ k =>
      { k with jobs := k.jobs.filter fun j => !(j.cloneOf.any fun e => e.1 == t) } }

/-- Ends a team, which abstains from its world when it is a rival (R34, R160, R296). -/
def endRival (s : State) (t : Nat) (killed : Bool) : State :=
  let x := s.team t
  let s := (s.endTeam t killed).dropImages t
  match x.world with
  | none => s
  | some w => abstain 5 s x.ctx w x.rival

/-- Whether a view is another, or lies below it. -/
def below (s : State) (c : Nat) : Nat → Nat → Nat → Bool
  | 0, _, _ => false
  | fuel + 1, n, anc => n == anc || (n != 0 && below s c fuel (s.view c n).parent anc)

/-- Kills the teams of every rival of a world, with the worlds that they have forked (R279). -/
def killWorld (s : State) (c w : Nat) : State :=
  match s.world c w with
  | none => s
  | some x =>
    let ts := (s.teams.filter fun e => e.2.ctx == c && e.2.view != 0 &&
      x.rivals.any fun r => s.below c 4 e.2.view r.view).map fun e => e.1
    ts.foldl (fun s t => if (s.teams.find? t).isSome then s.endRival t true else s) s

/-- A kill through `sr.kill` (R276, R279): 1 kills the thread's team, 2 every rival of its innermost world, or in the root view
its team. -/
def killFor (s : State) (t x : Nat) : State :=
  match x, (s.team t).world with
  | 1, _ => s.endRival t true
  | 2, some w => s.killWorld (s.team t).ctx w
  | 2, none => s.endRival t true
  | _, _ => s

/-- A thread that leaves a join wait by a trap: the `wend` or `choose` that it waits at is not performed (R293). -/
def unjoin (s : State) (t : Nat) : State :=
  let x := s.team t
  match x.world, s.rivalOf t with
  | some w, some r =>
    if r.parked then
      (s.onRival x.ctx w x.rival fun r => { r with parked := false, verdict := none }).setViewState x.ctx x.view .live
    else s.onRival x.ctx w x.rival fun r => { r with chosen := none }
  | _, _ => s

end State

/-! ## The sweep (R165) -/

namespace State

/-- Charges the folding of merged versions into the base lines or into versions of the parent: for each line one 64 B unit read and one
written at the line's home (R90, R165). A version that becomes the parent's as it is moves nothing. -/
def chargeFold (s : State) (c n : Nat) : State :=
  let v := s.view c n
  let folded := v.lines.filter fun k => v.parent = 0 || (s.view c v.parent).lines.contains k
  if v.state = .merged then folded.foldl (fun s k => s.charge c 1 (64 * k / 2 ^ 36) 2) s else s

/-- Frees the first swept view id: the cells of a merged view go to its parent's versions where the parent has none (R165). An
outbox that still runs keeps its cells. -/
def sweepView (s : State) (c n : Nat) : State :=
  let s := s.chargeFold c n
  let v := s.view c n
  let s := if v.state = .merged ∧ v.parent ≠ 0 then
      s.setView c v.parent { s.view c v.parent with
        lines := v.lines.foldl (fun l k => insertNat k l) (s.view c v.parent).lines }
    else s
  s.onCtx c fun y => { y with views := y.views.set n .free, sweep := y.sweep.drop 1 }

end State

/-- `VIEW_SWEEP` (R165): the background sweep of a context handles the id that left the live and parked states first. DESIGN CHOICE (log
34): one whose outbox still runs is held, with every id behind it, until its last entry has run, beyond the time that R165 names. -/
def execViewSweep (ctx : Nat) (s : State) : Host.Outcome State Fault Refusal :=
  match (s.ctx ctx).sweep with
  | [] => .next s
  | n :: _ => if (s.view ctx n).outbox.isEmpty then .next (s.sweepView ctx n) else .next s

/-- `CLONE_START` (R148): a placed clone whose image has been copied starts; one that drains for a pre-emption goes on to drain (R286). -/
def execCloneStart (team : Nat) (s : State) : Host.Outcome State Fault Refusal :=
  if (s.team team).phase = .copying ∧ (s.team team).copies = 0 then
    .next (s.onTeam team fun x =>
      { x with phase := if x.drain then .draining else .placed, drain := false, startedAt := s.cycle })
  else .next s

end Sys2Proof.Machine
end

