-- ==== Sys2Proof/Machine/Converge.lean ====
section
/-! DEFINITION. Convergence points (R44 to R49, R486): arrival with its checks, the illegal and partial cases, and the instructions
that execute once for their scope: `gbar`, `tbar`, `vote`, `shfl`, `redux`, `mma`, `mmo`, `fork`, `wend`, `choose`. -/

namespace Sys2Proof.Machine

/-- Whether a convergence point has team scope (R44). -/
def teamScope : Instr → Bool
  | .tbar | .fork _ _ | .wend _ | .choose _ => true
  | _ => false

/-- Whether an instruction is `mma` or `mmo` (R48). -/
def isMatrix : Instr → Bool
  | .mma _ _ _ _ | .mmo _ _ _ _ => true
  | _ => false

namespace State

/-- The live threads of a convergence point's scope. -/
def scopeOf (s : State) (i : Nat) (op : Instr) : List Nat :=
  if teamScope op then s.liveOf (teamOf i) else s.liveOfGroup (s.groupOf i)

/-- A trap of the whole scope, precisely in every live thread (R486). DESIGN CHOICE (log 30): a register claim whose waiting threads leave
by it stays filed (R47, R55). DESIGN CHOICE (log 30): a thread that has raised a trap of its own and waits for its delivery takes that one
alone (R277). -/
def trapAll (s : State) (is : List Nat) (cause : Byte) (addr : W64) : State :=
  is.foldl (fun s i => if (s.thread i).trapDue.isSome then s else s.raiseAt i cause addr 0) s

/-- A predicate of each lane of a group; an exited lane reads 0 (R461). -/
def lanePreds (s : State) (g n : Nat) : List Bool :=
  (s.lanes g).map fun i => (s.thread i).live && (s.thread i).preds.getLsbD n

/-- A register of each lane of a group; an exited lane reads 0 (R442, R449). -/
def laneRegs (s : State) (g n : Nat) : List W32 :=
  (s.lanes g).map fun i => if (s.thread i).live then s.regOf i n else 0

/-- Files a result of variable latency in each live thread of a group, by lane (R59, R60). -/
def replyAll (s : State) (g : Nat) (f : Nat → Reply) : State :=
  (s.liveOfGroup g).foldl (fun s i => s.onThread i fun t => { t with pending := t.pending ++ [f i] }) s

/-- `vote.ballot` (R461): at G = 64 the mask goes to a pair, and an odd d is illegal. -/
def ballotExec (s : State) (g : Nat) (d a : Reg) : Fired :=
  let mask := ballot (s.lanePreds g a.toNat)
  if (s.team (g / 16)).record.width = 64 then
    if d.toNat % 2 != 0 then .trap 0x01 0 s
    else .done (s.replyAll g fun _ => ⟨[(d.toNat, BitVec.ofNat 32 mask), (d.toNat + 1, BitVec.ofNat 32 (mask / 2 ^ 32))], []⟩)
  else .done (s.replyAll g fun _ => ⟨[(d.toNat, BitVec.ofNat 32 mask)], []⟩)

/-- The lane that `shfl` reads for a lane, and whether it is a live lane (R449). -/
def shflValue (vals : List W32) (m : Bool) (lane : Nat) (sel : W32) : W32 :=
  let j := bitsAt sel.toNat 0 6
  vals.getD (if m then lane ^^^ j else j) 0

/-- `shfl` (R449): every read comes before any write. -/
def shflExec (s : State) (g : Nat) (d a b : Reg) (m : Bool) : Fired :=
  let vals := s.laneRegs g a.toNat
  .done (s.replyAll g fun i => ⟨[(d.toNat, shflValue vals m (s.laneOf i) (s.regOf i b.toNat))], []⟩)

/-- What a convergence point does once for its scope (R44). -/
def perform (s : State) (i : Nat) (op : Instr) : Fired :=
  let g := s.groupOf i
  let t := teamOf i
  match op with
  | .gbar | .tbar => .done s
  | .voteAny d a =>
    let x := Sys2Proof.Machine.voteAny (s.lanePreds g a.toNat)
    .done (s.replyAll g fun _ => ⟨[], [(d.toNat, x)]⟩)
  | .voteAll d a =>
    let x := Sys2Proof.Machine.voteAll (s.lanePreds g a.toNat)
    .done (s.replyAll g fun _ => ⟨[], [(d.toNat, x)]⟩)
  | .voteBallot d a => s.ballotExec g d a
  | .shfl d a b m => s.shflExec g d a b m
  | .redux o d a =>
    let x := Sys2Proof.Machine.redux o (s.laneRegs g a.toNat)
    .done (s.replyAll g fun _ => ⟨[(d.toNat, x)], []⟩)
  | .mma d a b m => s.mmaExec g false m d a b
  | .mmo d a b m => s.mmaExec g true m d a b
  | .fork d n => s.forkExec t n.toNat d
  | .wend a => s.wendExec t a
  | .choose a => s.chooseExec t a
  | _ => .done s

/-- The cores on which the groups of a scope issue their bundles, one for each group (R39, R91). -/
def firingCores (s : State) (is : List Nat) : List Nat := (dedupNat (is.map s.groupOf)).map fun g => (s.group g).core

/-- Charges the issue budget for the bundle of each group of a scope (R39, R90, R424). -/
def chargeFiring (s : State) (c : Nat) (ks : List Nat) : State := ks.foldl (fun s k => s.charge c 0 k 1) s

/-- Executes a convergence point for its scope, as one bundle of each group: the threads go on, trap, or wait again. A spent share of the
issue budget holds them (R91). -/
def fire (s : State) (i : Nat) (op : Instr) : State :=
  let is := s.scopeOf i op
  let c := s.ctxOf i
  let ks := s.firingCores is
  if !ks.all (s.hasBudget c 0) then is.foldl (fun s i => s.parkThread i .budget) s
  else match s.perform i op with
    | .done s => is.foldl (fun s i => s.pass i) (s.chargeFiring c ks)
    | .handled s => s.chargeFiring c ks
    | .trap cause addr s => (s.chargeFiring c ks).trapAll is cause addr
    | .wait w s => is.foldl (fun s i => s.parkThread i w) s

/-- The program counters at which threads wait. -/
def waitPcs (s : State) (is : List Nat) : List Nat :=
  dedupNat ((is.filter fun i => (s.thread i).arrival.isSome).map fun i => (s.thread i).pc.toNat)

/-- The waiting threads at team-scope points. -/
def teamWaiters (s : State) (t : Nat) : List Nat :=
  (s.arrivedOf t).filter fun i => (s.thread i).arrival.any fun a => teamScope a.instr

/-- The live threads that take an illegal-convergence trap: those not stopped at a breakpoint (R47, R58). -/
def unstopped (s : State) (is : List Nat) : List Nat := is.filter fun i => (s.thread i).wait != .breakpoint

/-- Whether a thread of a group has exited (R48). -/
def partialGroup (s : State) (g : Nat) : Bool :=
  (s.liveOfGroup g).length < (s.team (g / 16)).record.width

/-- Whether a thread has arrived where another waits: at the same program counter (R44, R45). -/
def metAt (s : State) (i j : Nat) : Bool := (s.thread j).arrival.isSome && (s.thread j).pc == (s.thread i).pc

/-- What an arrival brings about: the illegal-convergence trap, the partial-group trap, or the execution of the point when every
live thread of its scope has arrived there (R44, R47, R48), the lower code first (R275). -/
def meet (s : State) (i : Nat) (op : Instr) : State :=
  let g := s.groupOf i
  let t := teamOf i
  if 1 < (s.waitPcs (s.liveOfGroup g)).length then s.trapAll (s.unstopped (s.liveOfGroup g)) 0x05 0
  else if 1 < (s.waitPcs (s.teamWaiters t)).length then s.trapAll (s.unstopped (s.liveOf t)) 0x05 0
  else if isMatrix op && s.partialGroup g then
    s.trapAll ((s.liveOfGroup g).filter fun i => (s.thread i).arrival.isSome) 0x06 0
  else if (s.scopeOf i op).all (s.metAt i) then s.fire i op
  else s

/-- A thread arrives at a convergence point. -/
def arrive (s : State) (op : Instr) : State :=
  let i := s.iss.cur
  let w := if s.thr.arrival.isSome then s.thr.waited else .convergence
  let s := (s.onThread i fun t => { t with arrival := some ⟨op, s.iss.switch⟩, chained := false }).parkThread i w
  let s := { s with iss := { s.iss with out := .waiting } }
  s.meet i op

/-- After a thread has exited, the points at which others wait are looked at again (R44, R48, R371). -/
def remeet (s : State) (t : Nat) : State :=
  (s.arrivedOf t).foldl (fun s i =>
    match (s.thread i).arrival with
    | some a => s.meet i a.instr
    | none => s) s

end State

/-- Executes a convergence point in the current thread: its register checks, then its arrival (R49, R486). -/
def converge (s : State) (ts : List Touch) (op : Instr) : Host.Outcome State Fault Refusal :=
  issue s ts fun s => if s.thr.mode != 0 then .trap 0x05 0 0 s else .ok () (s.arrive op)

/-- `gbar` (R411). -/
def execGbar (s : State) : Host.Outcome State Fault Refusal := converge s [] .gbar

/-- `tbar` (R457). -/
def execTbar (s : State) : Host.Outcome State Fault Refusal := converge s [] .tbar

/-- `vote.any` and `vote.all` (R461): their predicates lie in p0 to p63. -/
def execVoteAny (d a : Reg) (s : State) : Host.Outcome State Fault Refusal :=
  converge s (preds [d, a] false) (.voteAny d a)
def execVoteAll (d a : Reg) (s : State) : Host.Outcome State Fault Refusal :=
  converge s (preds [d, a] false) (.voteAll d a)

/-- `vote.ballot` (R461). -/
def execVoteBallot (d a : Reg) (s : State) : Host.Outcome State Fault Refusal :=
  converge s ((if s.widthOf s.iss.cur = 64 ∧ d.toNat % 2 = 0 then pair d else regs [d]) ++ preds [a] false) (.voteBallot d a)

/-- `shfl` (R449). -/
def execShfl (d a b : Reg) (m : Bool) (s : State) : Host.Outcome State Fault Refusal :=
  converge s (regs [d, a, b]) (.shfl d a b m)

/-- `redux` (R442). -/
def execRedux (op : ReduxOp) (d a : Reg) (s : State) : Host.Outcome State Fault Refusal :=
  converge s (regs [d, a]) (.redux op d a)

/-- The registers that an arriving thread touches, by the AFMT of the handle that lane 0 holds then: those of other lanes are ignored (R211,
R422). DEDUCED (log 51). -/
def matrixTouch (s : State) (d a b : Reg) : List Touch :=
  mmaTouch d a b (hAfmt (s.regOf (s.lane0 (s.groupOf s.iss.cur)) b.toNat).toNat) (s.group (s.groupOf s.iss.cur)).latch.isSome

/-- `mma` (R421). -/
def execMma (d a b : Reg) (m : Bool) (s : State) : Host.Outcome State Fault Refusal :=
  converge s (matrixTouch s d a b) (.mma d a b m)

/-- `mmo` (R425). -/
def execMmo (d a b : Reg) (m : Bool) (s : State) : Host.Outcome State Fault Refusal :=
  converge s (matrixTouch s d a b) (.mmo d a b m)

/-- `fork` (R377). -/
def execFork (d : Reg) (n : BitVec 13) (s : State) : Host.Outcome State Fault Refusal := converge s (regs [d]) (.fork d n)

/-- `wend` (R462). -/
def execWend (a : Reg) (s : State) : Host.Outcome State Fault Refusal := converge s (regs [a]) (.wend a)

/-- `choose` (R360). -/
def execChoose (a : Reg) (s : State) : Host.Outcome State Fault Refusal := converge s (regs [a]) (.choose a)

end Sys2Proof.Machine
end

