-- ==== Sys2Proof/Machine/Control.lean ====
section
/-! DEFINITION. The CTL pipe but for convergence points and barriers: transfers (R356, R358, R359, R446, R447), `brk` and `trap`
(R357, R459), `exit` (R34, R371), `yield` (R464), `rgive` and `rclaim` (R54 to R56, R439), and `nop`. -/

namespace Sys2Proof.Machine

/-- `nop` (R429). -/
def execNop (s : State) : Host.Outcome State Fault Refusal := issueTo s [] id

/-! ## Transfers -/

namespace State

/-- The current thread continues at an address after every word of its chain (R320). -/
def goto (s : State) (a : W64) : State := { s with iss := { s.iss with npc := a } }

/-- The checks of a register-indirect target (R318, R358). -/
def checkTarget (s : State) (a : W64) : Res Unit := s.checkGlobal a 4

/-- A call (R359): the return address goes to the top of the private stack, below those of the calls around it. -/
def callTo (s : State) (target : W64) : Res Unit :=
  let c := s.opnd.depth
  let size := s.stackBytes s.curCtx
  if size < 8 * (c + 1) then .trap 0x12 0 0 s
  else (s.putPriv (size - 8 * (c + 1)) (natLe 8 s.iss.after.toNat)).andThen fun _ s =>
    .ok () ((s.onThr fun t => { t with depth := c + 1 }).goto target)

end State

/-- The target of an FB word (R318, R356). -/
def branchTarget (word : W64) (off : BitVec 19) : W64 := (word + sext64 off * 4) &&& 0x1FFFFFFFFFFFFFF

/-- `br` (R356). -/
def execBr (off : BitVec 19) (s : State) : Host.Outcome State Fault Refusal :=
  issueTo s [] fun s => s.goto (branchTarget s.iss.word off)

/-- `brx` (R358). -/
def execBrx (a : Reg) (s : State) : Host.Outcome State Fault Refusal :=
  issue s (pair a) fun s => (s.checkTarget (s.vd a)).andThen fun _ s => .ok () (s.goto (s.vd a))

/-- `call` to a label (R359). -/
def execCall (off : BitVec 19) (s : State) : Host.Outcome State Fault Refusal :=
  issue s [] fun s => s.callTo (branchTarget s.iss.word off)

/-- `call` through a register (R359). -/
def execCallReg (a : Reg) (s : State) : Host.Outcome State Fault Refusal :=
  issue s (pair a) fun s => (s.checkTarget (s.vd a)).andThen fun _ s => s.callTo (s.vd a)

/-- `ret` (R446). -/
def execRet (s : State) : Host.Outcome State Fault Refusal :=
  issue s [] fun s =>
    let c := s.opnd.depth
    if c = 0 then .trap 0x01 0 0 s
    else (s.privPiecesRead (privAddr (s.stackBytes s.curCtx - 8 * c)) (privPieces (s.stackBytes s.curCtx - 8 * c) 8)).andThen fun bs s =>
      let ra := BitVec.ofNat 64 (leNat bs)
      (s.checkTarget ra).andThen fun _ s => .ok () ((s.onThr fun t => { t with depth := c - 1 }).goto ra)

/-- `rfe` (R278, R447). -/
def execRfe (s : State) : Host.Outcome State Fault Refusal :=
  issue s [] fun s =>
    match State.returnPoint s.opnd with
    | none => .trap 0x01 0 0 s
    | some (m, pc) => (s.checkTarget pc).andThen fun _ s => .ok () (s.returnFrom m pc)

/-- `brk` (R357). -/
def execBrk (_ : BitVec 13) (s : State) : Host.Outcome State Fault Refusal := issue s [] fun s => .trap 0x07 0 0 s

/-- `trap` (R459). -/
def execTrap (imm : BitVec 13) (s : State) : Host.Outcome State Fault Refusal :=
  issue s [] fun s => .trap 0x08 0 (imm.zeroExtend 32) s

/-! ## Exit (R34, R371) -/

namespace State

/-- Cancels the matrix instructions of a group that ends, with their fetches, each with the address of its sector (R203, R296, R424). -/
def cancelMms (s : State) (g : Nat) : State :=
  let k := (s.group g).core
  let gone := (s.core k).mms.filter fun m => m.group == g
  gone.foldl (fun s m =>
    let fetches := (s.core k).jobs.filter fun j => j.fetchFor == some m.serial
    let s := fetches.foldl (fun s j => s.stopJob j 7 (s.nextAddr j) false) s
    s.dropMm k m) s

/-- Ends a group: its registers, latch, claim and active-set slot are released (R34, R212, R483). -/
def endGroup (s : State) (g : Nat) : State :=
  let k := (s.group g).core
  let s := s.cancelMms g
  let s := s.onCore k fun y =>
    { y with claims := y.claims.filter fun c => c.group != g,
             slots := (y.slots.filter fun e => e.2.incoming.getD e.2.group != g) }
  { s with groups := s.groups.erase g }

/-- Ends a thread, and with it its group and team when it is their last (R34, R371). -/
def exitThread (s : State) (i : Nat) : State :=
  let g := s.groupOf i
  let t := teamOf i
  let s := s.onThread i fun th =>
    { th with live := false, regs := [], pending := [], trapDue := none, arrival := none, wait := .ready,
              waited := .ready, waitCount := 0, barAt := none }
  if (s.liveOf t).isEmpty then s.endRival t false
  else if (s.liveOfGroup g).isEmpty then (s.endGroup g).remeet t
  else (s.lowerCount g).remeet t

end State

/-- `exit` (R371). -/
def execExit (s : State) : Host.Outcome State Fault Refusal :=
  issue s [] fun s => .gone (s.exitThread s.iss.cur)

/-! ## The active set and `yield` (R37, R464) -/

namespace State

/-- The group that a slot holds and that may issue: none during an exchange (R40). -/
def activeGroup (x : ActSlot) : Option Nat := if x.incoming.isSome then none else some x.group

/-- The groups of the active set of a core that may issue. -/
def activeGroups (s : State) (k : Nat) : List Nat := (s.core k).slots.filterMap fun e => activeGroup e.2

/-- Whether a thread's wait is over and its team runs: it may issue when its group is active (R37, R38). -/
def canIssue (s : State) (i : Nat) : Bool :=
  let t := s.thread i
  t.live && t.wait == .ready && t.trapDue.isNone && s.onCores (teamOf i)

/-- The ready threads of a core's active set (R38). -/
def readyOn (s : State) (k : Nat) : List Nat :=
  (s.activeGroups k).flatMap fun g => (s.liveOfGroup g).filter fun i => s.canIssue i

end State

/-- `yield` (R464). DEDUCED (log 47): the threads of its own bundle issue in that cycle, and none of them is awaited. -/
def execYield (s : State) : Host.Outcome State Fault Refusal :=
  issueTo s [] fun s =>
    let others := (s.readyOn s.curCore).filter fun i => i != s.iss.cur && !s.iss.bundle.contains i
    s.onThr fun t => { t with wait := .pause, waited := .pause, waitCount := 0, yieldUntil := s.cycle + 64,
                              yieldSet := others }

/-- `YIELD_RESUME` (R464): 64 cycles have passed, or every live thread that was ready has issued. A thread whose `yield` carries the switch
marker then parks while a result is pending (R61). -/
def execYieldResume (thread : Nat) (s : State) : Host.Outcome State Fault Refusal :=
  let t := s.thread thread
  if t.wait = .pause ∧ (t.yieldUntil ≤ s.cycle ∨ t.yieldSet.all (fun i => !(s.thread i).live) = true) then
    if t.marked && !t.pending.isEmpty then .next (s.parkThread thread .marker) else .next (s.wakeThread thread)
  else .next s

/-! ## Registers given back and claimed (R54, R55, R439) -/

/-- Lowers a thread's limit: registers from n upward are lost (R54). -/
def Thread.giveTo (t : Thread) (n : Nat) : Thread :=
  { t with limit := n, regs := t.regs.filter fun e => e.1 < n,
           pending := t.pending.map fun r => { r with regs := r.regs.filter fun w => w.1 < n } }

/-- Raises a thread's limit: the registers that it regains read as zero (R55). -/
def Thread.claimTo (t : Thread) (n : Nat) : Thread :=
  { t with limit := n, regs := t.regs.filter fun e => e.1 < t.limit }

/-- `rgive` (R54). -/
def execRgive (imm : BitVec 13) (s : State) : Host.Outcome State Fault Refusal :=
  issueTo s [] fun s =>
    if s.opnd.limit ≤ imm.toNat then s
    else (s.onThr fun t => t.giveTo imm.toNat).lowerCount (s.groupOf s.iss.cur)

namespace State

/-- Files or raises a group's claim (R55). -/
def fileClaim (s : State) (g n : Nat) : State :=
  s.onCore (s.group g).core fun k =>
    { k with claims :=
        if k.claims.any fun c => c.group == g then
          k.claims.map fun (c : Claim) => if c.group = g then { c with n := max c.n n } else c
        else k.claims ++ [⟨g, n⟩] }

end State

/-- `rclaim` (R55). -/
def execRclaim (imm : BitVec 13) (s : State) : Host.Outcome State Fault Refusal :=
  issue s [] fun s =>
    let n := imm.toNat
    let g := s.groupOf s.iss.cur
    if n ≤ (s.group g).count then
      if n < s.opnd.limit then .ok () ((s.onThr fun t => t.giveTo n).lowerCount g)
      else .ok () (s.onThr fun t => t.claimTo n)
    else .wait .claim ((s.onThr fun t => { t with claimN := n }).fileClaim g n)

/-- `RCLAIM_GRANT` (R55): the oldest claim of a core is granted when the free pool holds all of it. -/
def execRclaimGrant (core : Nat) (s : State) : Host.Outcome State Fault Refusal :=
  match (s.core core).claims with
  | [] => .next s
  | c :: rest =>
    let w := (s.team (c.group / 16)).record.width
    if s.freeRegs core < w * (c.n - (s.group c.group).count) then .next s
    else
      let s := s.onCore core fun k => { k with claims := rest }
      let s := s.onGroup c.group fun g => { g with count := max g.count c.n }
      let waiters := (s.liveOfGroup c.group).filter fun i => (s.thread i).wait == .claim
      .next (waiters.foldl (fun s i => (s.onThread i fun t => t.claimTo t.claimN).wakeThread i) s)

end Sys2Proof.Machine
end

