-- ==== Sys2Proof/Machine/Special.lean ====
section
/-! DEFINITION. Special registers: `srd` and `swr` for every number of R93, R124, R145 and R276, by mode (R31, R98, R279, R452, R453). -/

namespace Sys2Proof.Machine

namespace State

/-- The role code of the current group (R52). -/
def roleOf (s : State) (i : Nat) : W32 :=
  BitVec.ofNat 32 (bitsAt (s.team (teamOf i)).record.roles.toNat (2 * s.gidxOf i) 2)

/-- An identifier or launch constant of the current thread: the registers 0x000 to 0x020 (R31, R93). -/
def srIdent (s : State) (n : Nat) : Option W32 :=
  let i := s.iss.cur
  let x := s.team s.curTeam
  match n with
  | 0x000 => some (BitVec.ofNat 32 (s.laneOf i))
  | 0x001 => some (BitVec.ofNat 32 (s.gidxOf i))
  | 0x002 => some (BitVec.ofNat 32 (tidOf i))
  | 0x003 => some (BitVec.ofNat 32 x.record.width)
  | 0x004 => some (BitVec.ofNat 32 x.record.groups)
  | 0x005 => some x.tx
  | 0x006 => some x.ty
  | 0x007 => some x.tz
  | 0x008 => some (s.roleOf i)
  | 0x009 => some (BitVec.ofNat 32 x.rival)
  | 0x00A => some (BitVec.ofNat 32 s.curCore)
  | 0x00B => some (BitVec.ofNat 32 x.ctx)
  | 0x00C => some (BitVec.ofNat 32 x.view)
  | 0x00D => some (BitVec.ofNat 32 (s.scratchSize s.curTeam))
  | 0x020 => some s.opnd.stklim
  | _ => if 0x010 ≤ n ∧ n ≤ 0x01F then some (s.opnd.consts.get (n - 0x010) 0) else none

/-- A trap register that every mode may read (R276). -/
def srUser (s : State) (n : Nat) : Option W32 :=
  let t := s.opnd
  match n with
  | 0x108 => some (loHalf t.udvec)
  | 0x109 => some (hiHalf t.udvec)
  | 0x10A => some ((t.udmask &&& (s.ctx s.curCtx).deleg.extractLsb' 0 3).zeroExtend 32)
  | 0x10B => some t.ucause
  | 0x10C => some (loHalf t.uepc)
  | 0x10D => some (hiHalf t.uepc)
  | 0x10E => some (loHalf t.uaddr)
  | 0x10F => some (hiHalf t.uaddr)
  | 0x110 => some t.uinfo
  | 0x111 => some (t.mode.zeroExtend 32)
  | _ => none

/-- A trap register that only the supervisor handler may read; `sr.kill` reads as zero (R276). -/
def srSuper (s : State) (n : Nat) : Option W32 :=
  let t := s.opnd
  let vec := (s.ctx s.curCtx).tvec &&& 0x1FFFFFFFFFFFFFF
  match n with
  | 0x100 => some (loHalf vec)
  | 0x101 => some (hiHalf vec)
  | 0x102 => some t.tcause
  | 0x103 => some (loHalf t.tepc)
  | 0x104 => some (hiHalf t.tepc)
  | 0x105 => some (loHalf t.taddr)
  | 0x106 => some (hiHalf t.taddr)
  | 0x107 => some t.tinfo
  | 0x112 => some 0
  | _ => none

/-- A register of fixed latency as the current thread reads it in its mode. -/
def srFixed (s : State) (n : Nat) : Option W32 :=
  (s.srIdent n).orElse fun _ => (s.srUser n).orElse fun _ => if s.opnd.mode = 2 then s.srSuper n else none

/-- A register of variable latency that reads state: the cycle counter and the free view ids (R93, R145). -/
def srVariable (s : State) (n : Nat) : Option W32 :=
  match n with
  | 0x030 => some (BitVec.ofNat 32 s.cycle)
  | 0x031 => some (BitVec.ofNat 32 (s.cycle / 2 ^ 32))
  | 0x150 => some (BitVec.ofNat 32 (s.freeViews s.curCtx).length)
  | _ => none

/-- Reads a lease counter: the events since it was last read are a free value (R124). -/
def readLease (s : State) (n : Nat) : Option (W32 × State) :=
  let ev := Config.leaseEvents s.free
  let k := s.core s.curCore
  match n with
  | 0x140 => some (k.lsrenew + ev, (s.setCore s.curCore { k with lsrenew := k.lsrenew + ev }).draw)
  | 0x141 => some (k.lsstale + ev, (s.setCore s.curCore { k with lsstale := k.lsstale + ev }).draw)
  | 0x142 => some (k.wsbump + ev, (s.setCore s.curCore { k with wsbump := k.wsbump + ev }).draw)
  | _ => none

/-- Whether the current thread may read a special register in its mode (R276, R452). -/
def srReadable (s : State) (n : Nat) : Bool :=
  (s.srFixed n).isSome || (s.srVariable n).isSome || (s.readLease n).isSome

/-- The effect of a legal `srd`. -/
def readSpecial (s : State) (d : Reg) (n : Nat) : State :=
  match s.srFixed n, s.srVariable n, s.readLease n with
  | some x, _, _ => s.setV d x
  | none, some x, _ => s.laterV d x
  | none, none, some (x, s) => s.laterV d x
  | none, none, none => s

end State

/-- An instruction whose legality shows before its register checks (R275): the illegal-instruction trap, or the rest. -/
def issueLegal (s : State) (legal : Bool) (ts : List Touch) (k : State → Res Unit) : Host.Outcome State Fault Refusal :=
  if legal then issue s ts k else issue s [] fun s => .trap 0x01 0 0 s

/-- `srd` (R452). -/
def execSrd (d : Reg) (imm : BitVec 13) (s : State) : Host.Outcome State Fault Refusal :=
  issueLegal s (s.srReadable imm.toNat) (regs [d]) fun s => .ok () (s.readSpecial d imm.toNat)

/-- Replaces half of a pair. -/
def setLo (x : W64) (w : W32) : W64 := pairOf w (hiHalf x)
def setHi (x : W64) (w : W32) : W64 := pairOf (loHalf x) w

/-- A `swr` to a user trap register, allowed in any mode (R276). -/
def Thread.swrUser (t : Thread) (n : Nat) (x : W32) : Option Thread :=
  match n with
  | 0x108 => some { t with udvec := setLo t.udvec x }
  | 0x109 => some { t with udvec := setHi t.udvec (x &&& 0x1FFFFFF) }
  | 0x10A => some { t with udmask := x.extractLsb' 0 3 }
  | 0x10B => some { t with ucause := x &&& 0xFF }
  | 0x10C => some { t with uepc := setLo t.uepc x }
  | 0x10D => some { t with uepc := setHi t.uepc x }
  | 0x10E => some { t with uaddr := setLo t.uaddr x }
  | 0x10F => some { t with uaddr := setHi t.uaddr x }
  | 0x110 => some { t with uinfo := x }
  | _ => none

/-- A `swr` to a supervisor trap register (R276). -/
def Thread.swrSuper (t : Thread) (n : Nat) (x : W32) : Option Thread :=
  match n with
  | 0x102 => some { t with tcause := x &&& 0x7FF }
  | 0x103 => some { t with tepc := setLo t.tepc x }
  | 0x104 => some { t with tepc := setHi t.tepc x }
  | 0x105 => some { t with taddr := setLo t.taddr x }
  | 0x106 => some { t with taddr := setHi t.taddr x }
  | 0x107 => some { t with tinfo := x }
  | _ => none

namespace State

/-- A `swr` to a lease counter sets the count (R124). -/
def swrLease (s : State) (n : Nat) (x : W32) : Option State :=
  let k := s.core s.curCore
  match n with
  | 0x140 => some (s.setCore s.curCore { k with lsrenew := x })
  | 0x141 => some (s.setCore s.curCore { k with lsstale := x })
  | 0x142 => some (s.setCore s.curCore { k with wsbump := x })
  | _ => none

/-- Whether the current thread may write a special register in its mode (R276, R453). -/
def srWritable (s : State) (n : Nat) : Bool :=
  n == 0x020 || (s.thr.swrUser n 0).isSome ||
    (s.opnd.mode == 2 && (n == 0x112 || (s.thr.swrSuper n 0).isSome || (s.swrLease n 0).isSome))

/-- A write that only the supervisor handler may make. -/
def swrSystem (s : State) (n : Nat) (x : W32) : Res Unit :=
  if n = 0x112 then
    let s := s.killFor s.curTeam x.toNat
    if s.thr.live then .ok () s else .gone s
  else match s.thr.swrSuper n x, s.swrLease n x with
    | some t, _ => .ok () (s.onThr fun _ => t)
    | none, some s => .ok () s
    | none, none => .ok () s

end State

/-- `swr` (R98, R276, R279, R452, R453). -/
def execSwr (d : Reg) (imm : BitVec 13) (s : State) : Host.Outcome State Fault Refusal :=
  let n := imm.toNat
  issueLegal s (s.srWritable n) (regs [d]) fun s =>
    let x := s.v d
    if n = 0x020 then
      if x.toNat % 4 = 0 ∧ x.toNat ≤ s.stackBytes s.curCtx then .ok () (s.onThr fun t => { t with stklim := x })
      else .trap 0x01 0 0 s
    else match s.thr.swrUser n x with
      | some t => .ok () (s.onThr fun _ => t)
      | none => s.swrSystem n x

end Sys2Proof.Machine
end

