-- ==== Sys2Proof/Machine/Device.lean ====
section
/-! DEFINITION. What the module's own units do in the root view of a context: their accesses to global memory, counters and the
firing of triggers (R225 to R229), start requests (R220, R223), completion records (R224), and remote enqueues at their target
and at their sender (R87 to R89, R444, R445). -/

namespace Sys2Proof.Machine

/-- For whom a unit acts: the context, the core or processor that stands as the source, the thread, and the tag of error
records (R285). -/
structure Who where
  ctx : Nat
  core : Nat
  thread : Nat
  tag : Nat
deriving DecidableEq, Repr

/-- The die of an agent's core. -/
def Who.die (w : Who) : Nat := w.core / 96

/-- The spans of an access within pages. -/
def pagePieces : Nat → Nat → Nat → List (Nat × Nat)
  | 0, _, _ => []
  | fuel + 1, va, n =>
    let m := min n (4096 - va % 4096)
    if n = 0 then [] else (va, m) :: pagePieces fuel (va + m) (n - m)

namespace State

/-- The current thread as an agent. -/
def who (s : State) : Who := ⟨s.curCtx, s.curCore, s.iss.cur, (s.team s.curTeam).record.seq.toNat⟩

/-! ## Accesses of a unit in the root view (R219, R283) -/

/-- Translates for a unit's access of n bytes, and charges it to the HBM budget of the home (R90, R91). -/
def devPage (s : State) (c va n : Nat) (want : Want) (agent source : Nat) (normal : Bool) : Res (Nat × TlbEntry) :=
  match s.xlat c va want agent source 0 with
  | (.fatal, s) => .gone s
  | (.hold _, s) => .wait .translation s
  | (.ok key leaf, s) =>
    if normal && leaf.type != 0 then .trap 0x14 (BitVec.ofNat 64 va) 0 s
    else match s.memTurn c key n with
      | some s => .ok (key, leaf) s
      | none => .wait .budget s

/-- A load within a page. -/
def devLoad (s : State) (c va n agent source : Nat) (normal : Bool) : Res (List Byte) :=
  (s.devPage c va n .read agent source normal).andThen fun e s => .ok (s.pageRead c e.2.prot e.1 n) s

/-- A load of a thread's unit within a page, after the thread's earlier accesses: its own waiting write-combining stores are found on a page
of that type, and performed first on a strongly ordered one (R116, R137). -/
def whoLoad (s : State) (w : Who) (va n : Nat) : Res (List Byte) :=
  (s.devPage w.ctx va n .read 0 w.core false).andThen fun e s =>
    let bs (s : State) := s.pageRead w.ctx e.2.prot e.1 n
    match e.2.type with
    | 1 => .ok (overlayWc (s.thread w.thread).wc e.1 (bs s)) s
    | 3 => (s.drained w.thread).andThen fun _ s => .ok (bs s) s
    | _ => .ok (bs s) s

/-- A store within a page. -/
def devStore (s : State) (c va : Nat) (bs : List Byte) (agent source : Nat) (normal : Bool) : Res Unit :=
  (s.devPage c va bs.length .write agent source normal).andThen fun e s => .ok () (s.writeView c 0 e.2.prot e.1 bs)

/-- A load of pieces in order. -/
def devLoads (s : State) (c agent source : Nat) (normal : Bool) : List (Nat × Nat) → Res (List Byte)
  | [] => .ok [] s
  | (va, n) :: ps =>
    (s.devLoad c va n agent source normal).andThen fun bs s =>
      (devLoads s c agent source normal ps).andThen fun cs s => .ok (bs ++ cs) s

/-- A load that may cross pages. -/
def devSpan (s : State) (c va n agent source : Nat) (normal : Bool) : Res (List Byte) :=
  s.devLoads c agent source normal (pagePieces (n / 4096 + 2) va n)

end State

/-- The number that stands for no team, in a log entry that a unit of the module has made. -/
def noTeam : Nat := 2 ^ 64

/-- An entry of the side log to which a part of an enqueue's payload adds: the next bytes of one 64 B line (R128). -/
def LogEntry.takes (e : LogEntry) (c va n enq : Nat) : Bool :=
  e.ctx == c && e.enq == some enq &&
    match e.op with
    | .store d => e.va.toNat + d.length == va && e.va.toNat / 64 == (va + n - 1) / 64
    | _ => false

/-- An entry with further bytes. -/
def LogEntry.add (e : LogEntry) (bs : List Byte) : LogEntry :=
  match e.op with
  | .store d => { e with op := .store (d ++ bs) }
  | _ => e

namespace State

/-- Puts a unit's store into the side log of a core while its page is under fault: one entry for each 64 B line of an operation, and
none where the log is full (R88, R126, R128). -/
def logStore (s : State) (c core va : Nat) (bs : List Byte) (enq : Option Nat) : Option State :=
  let log := (s.core core).log
  match (log.zipIdx.find? fun e => enq.any (e.1.takes c va bs.length)) with
  | some (e, i) => some (s.onCore core fun k => { k with log := log.set i (e.add bs) })
  | none =>
    if 256 ≤ logEntries log then none
    else some (s.logTo core ⟨c, 0, BitVec.ofNat 64 va, .store bs, noTeam, 0, false, enq, 0, none, []⟩)

/-- What a unit's store comes to: made or logged, to be tried again for want of room or budget, or met by a fatal fault. -/
inductive Posted where
  | done (s : State)
  | later (s : State)
  | fatal (s : State)

/-- A store that a unit makes in a context: into memory, or into the side log while the page is under fault (R88, R91, R128). -/
def tryPost (s : State) (c core va : Nat) (bs : List Byte) (enq : Option Nat) : Posted :=
  if 2 ^ 57 ≤ va then .fatal s
  else match s.newRequest.xlat c va .write 0 core 0 with
    | (.fatal, s) => .fatal s
    | (.hold _, s) => match s.logStore c core va bs enq with
      | some s => .done s
      | none => .later s
    | (.ok key leaf, s) => match s.memTurn c key bs.length with
      | some s => .done (s.writeView c 0 leaf.prot key bs)
      | none => .later s

/-- A store that a unit makes for nobody who waits, behind those that it has still to make. -/
def devPost (s : State) (c core va : Nat) (bs : List Byte) : State :=
  let wait (s : State) := s.onCtx c fun x => { x with posts := x.posts ++ [⟨core, va, bs⟩] }
  if !(s.ctx c).posts.isEmpty then wait s
  else match s.tryPost c core va bs none with
    | .done s => s
    | .later s => wait s
    | .fatal s => s

/-- The stores that units have still to make for a context are tried again, in order. -/
def retryPosts (s : State) (c : Nat) : State :=
  let ps := (s.ctx c).posts
  ps.foldl (fun s p => s.devPost c p.core p.va p.data) (s.onCtx c fun x => { x with posts := [] })

/-! ## Completion records (R224) -/

/-- Bytes 4 to 255 of a completion record. -/
def completionBytes (status : Nat) (flags : BitVec 16) (contrib omits : W32) (hist : Tab W32) : List Byte :=
  natLe 2 status ++ natLe 2 flags.toNat ++ natLe 4 contrib.toNat ++ natLe 4 omits.toNat ++ natLe 48 0
    ++ (span 0 40).flatMap (fun b => natLe 4 (hist.get b 0).toNat) ++ natLe 32 0

/-- Writes a completion record: every byte from 4 on, and then DONE, one more than it was (R224). -/
def writeCompletion (s : State) (c comp agent source : Nat) (body : List Byte) : Res Unit :=
  (s.devPage c comp 256 .write agent source false).andThen fun e s =>
    let old := leNat (s.pageRead c e.2.prot e.1 4)
    .ok () ((s.writeView c 0 e.2.prot (e.1 + 4) body).writeView c 0 e.2.prot e.1 (natLe 4 (old + 1)))

/-! ## Start requests (R220, R221, R223) -/

/-- The addresses of a start are in the global window and aligned: the cause of the first that is not, lowest code first
(R220, R367). -/
def startCause (img arg comp : W64) : Option (Byte × W64) :=
  if !isGlobal img then some (0x10, img)
  else if !isGlobal arg then some (0x10, arg)
  else if !isGlobal comp then some (0x10, comp)
  else if img.toNat % 8 != 0 then some (0x11, img)
  else if arg.toNat % 64 != 0 then some (0x11, arg)
  else if comp.toNat % 256 != 0 then some (0x11, comp)
  else none

/-- Whether a processor serves a context (R90). -/
def serves (s : State) (c p : Nat) : Bool := (s.ctx c).bal.toNat.testBit (32 + p)

/-- Takes a start request to its processor's queue, or ends it at once with a completion record (R221, R223). -/
def startTo (s : State) (r : StartReq) : Res Unit :=
  let bad (s : State) := s.writeCompletion r.ctx r.comp.toNat 0 r.source (completionBytes 2 0 0 0 [])
  if r.bad then bad s
  else (s.devLoad r.ctx r.arg.toNat 8 0 r.source false).andThen fun bs s =>
    let h := leNat bs
    let p := bitsAt h 16 5
    if 2 ^ 21 ≤ h || !s.serves r.ctx p then bad s
    else if 256 ≤ (s.fab p).queue.length then .wait .startQueue s
    else .ok () (s.onFab p fun f => { f with queue := f.queue ++ [{ r with coll := BitVec.ofNat 16 h }] })

/-- Keeps a request whose header faults, in issue order (R220). -/
def holdStart (s : State) (r : StartReq) : State := s.onCtx r.ctx fun x => { x with starts := x.starts ++ [r] }

/-- Whether a request of the same thread is held, behind which a request has to stay (R220). -/
def startBehind (s : State) (r : StartReq) : Bool := (s.ctx r.ctx).starts.any fun q => !q.fired && q.thread == r.thread

/-- Starts a collective for a thread: a request behind a held one of the same thread is held too (R220). What the processor reads follows
every earlier access of the thread, whose write-combining stores are therefore performed first. -/
def startFor (s : State) (r : StartReq) : Res Unit :=
  (s.drained r.thread).andThen fun _ s =>
  if s.startBehind r then .ok () (s.holdStart r)
  else match s.startTo r with
    | .wait .translation s => .ok () (s.holdStart r)
    | x => x

/-! ## Counters and triggers (R225 to R229) -/

/-- The cause of a completion record's address that a firing cannot use (R226). -/
def compCause (comp : W64) : Option Byte :=
  if !isGlobal comp then some 0x10 else if comp.toNat % 256 != 0 then some 0x11 else none

/-- The processor's first reads of a firing, of its argument header, image header and completion record, then its start request
(R223, R229). A page that faults makes it wait. -/
def fireTo (s : State) (r : StartReq) : Res Unit :=
  if r.bad then s.startTo r
  else match s.devLoad r.ctx r.arg.toNat 8 0 r.source false with
  | .wait w s => .wait w s
  | .gone s => .gone s
  | .trap _ _ _ s => s.startTo r
  | .ok bs s =>
    let p := bitsAt (leNat bs) 16 5
    if 2 ^ 21 ≤ leNat bs || !s.serves r.ctx p then s.startTo r
    else match (s.devLoad r.ctx r.img.toNat 8 4 p false).andThen
      (fun _ s => s.devPage r.ctx r.comp.toNat 0 .write 4 p false) with
    | .wait w s => .wait w s
    | .gone s => .gone s
    | .trap _ _ _ s => s.startTo r
    | .ok _ s => s.startTo r

/-- Puts a firing into a list in the order of firing: behind every earlier one (R229). -/
def insertFiring (r : StartReq) : List StartReq → List StartReq
  | [] => [r]
  | q :: qs => if r.order < q.order then r :: q :: qs else q :: insertFiring r qs

/-- Puts a firing on the context's deferred-fire list: a new one goes to its tail, and one that was held before it is deferred keeps its
place before the later ones (R229). -/
def deferFire (s : State) (r : StartReq) : State := s.onCtx r.ctx fun x => { x with deferred := insertFiring r x.deferred }

/-- A firing becomes a start request: deferred while a page faults (R229), held alone while the start queue is full (R223), or held with
the later ones behind it while a budget is spent (R91, R228). -/
def fireNow (s : State) (r : StartReq) : State :=
  match s.newRequest.fireTo r with
  | .ok _ s => s
  | .wait .translation s => s.deferFire r
  | .wait .budget s => s.holdStart { r with spent := true }
  | .wait _ s => s.holdStart { r with spent := false }
  | .trap _ _ _ s => s
  | .gone s => s

/-- Whether an earlier firing of the context is held by a spent budget (R91, R228). -/
def behindSpent (s : State) (r : StartReq) : Bool := (s.ctx r.ctx).starts.any fun q => q.spent && q.order < r.order

/-- Whether an earlier firing of the context is deferred (R229). -/
def behindDeferred (s : State) (r : StartReq) : Bool := (s.ctx r.ctx).deferred.any fun q => q.order < r.order

/-- Issues the start request of a firing: behind earlier ones that a spent budget holds, or deferred behind earlier ones or while the context
is not resident (R228, R229). -/
def fireRequest (s : State) (r : StartReq) : State :=
  if s.behindSpent r then s.holdStart { r with spent := true }
  else if (s.ctx r.ctx).state != 1 || s.behindDeferred r then s.deferFire r
  else s.fireNow r

/-- Tries the held requests of a context again, keeping each thread's order (R220); a firing that a full queue holds holds nothing but itself
(R223), and one that has to be deferred by now keeps its place before the later firings (R229; log 35). -/
def retryList (s : State) (c : Nat) (blocked : List Nat) : List StartReq → State
  | [] => s
  | r :: rs =>
    if r.fired then (s.fireRequest r).retryList c blocked rs
    else if blocked.contains r.thread then (s.holdStart r).retryList c blocked rs
    else match s.newRequest.startTo r with
      | .ok _ s => s.retryList c blocked rs
      | .wait _ s => (s.holdStart r).retryList c (r.thread :: blocked) rs
      | .trap _ _ _ s => s.retryList c blocked rs
      | .gone s => s

/-- Tries the held requests of a context again (R220). -/
def retryStarts (s : State) (c : Nat) : State :=
  let rs := (s.ctx c).starts
  (s.onCtx c fun x => { x with starts := [] }).retryList c [] rs

/-- A trigger fires (R226, R228): an action whose completion record cannot be written leaves an error record, any other becomes a
start request, which ends with status 2 when the action fails its checks. -/
def fireTrigger (s : State) (c die : Nat) (t : Trigger) : State :=
  match compCause t.comp with
  | some cause => s.errorRecord c 0x0B cause.toNat 0 t.comp 0 (96 * die)
  | none => s.bump.fireRequest
      ⟨c, t.img, t.arg, t.comp, 0, 96 * die, true, t.resvd != 0 || (startCause t.img t.arg t.comp).isSome, false, 0, s.serial⟩

/-- Whether a trigger comes before another in the order of firing (R228). -/
def firesBefore (a b : Trigger) : Bool :=
  a.threshold.toNat < b.threshold.toNat || (a.threshold == b.threshold && a.order < b.order)

/-- Puts a trigger into the order of firing. -/
def insertTrigger (t : Nat × Trigger) : List (Nat × Trigger) → List (Nat × Trigger)
  | [] => [t]
  | u :: us => if firesBefore t.2 u.2 then t :: u :: us else u :: insertTrigger t us

/-- The triggers that a `cinc` from one value to another satisfies, in the order of firing (R227, R228). -/
def satisfied (s : State) (c key old sum : Nat) : List (Nat × Trigger) :=
  ((s.ctx c).trigs.filter fun e => e.2.key == key && old < e.2.threshold.toNat && e.2.threshold.toNat ≤ sum).foldr
    insertTrigger []

/-- Frees a trigger's id. -/
def dropTrigger (s : State) (c id : Nat) : State := s.onCtx c fun x => { x with trigs := x.trigs.erase id }

/-- A `cinc` at the counter's home (R225, R228, R361). -/
def cincAt (s : State) (w : Who) (key : Nat) (prot : Bool) (va : W64) (d : W32) : State :=
  let c := w.ctx
  let old := leNat (s.pageRead c prot key 8)
  let sum := old + d.toNat
  let s' := s.writeView c 0 prot key (natLe 8 sum)
  if 2 ^ 64 ≤ sum then s'.errorRecord c 0x07 0 0 va w.tag w.core
  else (s.satisfied c key old sum).foldl (fun s e => (s.dropTrigger c e.1).fireTrigger c (key / 2 ^ 36) e.2) s'

/-- A `cinc` of an agent on a normal page (R225). -/
def cincFor (s : State) (w : Who) (va : W64) (d : W32) (agent source : Nat) : Res Unit :=
  (s.devPage w.ctx va.toNat 8 .write agent source true).andThen fun e s => .ok () (s.cincAt w e.1 e.2.prot va d)

/-- The lowest free trigger id of a context (R226). -/
def freeTrigger (s : State) (c : Nat) : Option Nat := (span 0 4096).find? fun i => ((s.ctx c).trigs.find? i).isNone

/-- Arms a trigger on a counter (R226, R227, R346): its id, or none where every id is in use. -/
def armFor (s : State) (w : Who) (ctr t act : W64) : Res (Option Nat) :=
  (s.devPage w.ctx ctr.toNat 8 .read 0 w.core true).andThen fun e s =>
  (s.whoLoad w act.toNat 32).andThen fun bs s =>
    let at_ (off : Nat) : W64 := BitVec.ofNat 64 (leNat ((bs.drop off).take 8))
    match s.freeTrigger w.ctx with
    | none => .ok none s
    | some id =>
      let x : Trigger := { ctr := ctr, key := e.1, threshold := t, img := at_ 0, arg := at_ 8, comp := at_ 16,
                           resvd := at_ 24, order := s.serial }
      if t.toNat ≤ leNat (s.pageRead w.ctx e.2.prot e.1 8) then
        .ok (some id) (s.bump.fireTrigger w.ctx (e.1 / 2 ^ 36) x)
      else .ok (some id) ((s.onCtx w.ctx fun y => { y with trigs := y.trigs.set id x }).bump)

/-- Removes an armed trigger (R227, R370): whether it was armed. -/
def disarmFor (s : State) (w : Who) (id : Nat) : Res Bool :=
  match (s.ctx w.ctx).trigs.find? id with
  | none => .ok false s
  | some t => (s.devPage w.ctx t.ctr.toNat 8 .read 0 w.core false).andThen fun _ s => .ok true (s.dropTrigger w.ctx id)

/-! ## Records that the device accepts (R86) -/

/-- Reads a task record and accepts it at the queue engine of the issuing die (R86, R451). The read follows every earlier access of its
thread, whose write-combining stores are therefore performed first. -/
def spawnFor (s : State) (w : Who) (rec_ : W64) : Res Unit :=
  (s.drained w.thread).andThen fun _ s => (s.devLoad w.ctx rec_.toNat 64 0 w.core true).andThen fun bs s =>
    .ok () (s.acceptRecord w.ctx rec_ bs 1 none (fun _ => w.die) w.core)

/-! ## Futures (R84) -/

/-- A swap of a future: whether it was not full; a walk takes the detached list (R84). -/
def fwriteFor (s : State) (w : Who) (f x : W64) : Res Bool :=
  (s.devPage w.ctx f.toNat 8 .write 0 w.core true).andThen fun e s =>
    let old := leNat (s.pageRead w.ctx e.2.prot e.1 8)
    match old / 2 ^ 62 with
    | 1 => .ok false s
    | 3 => .trap 0x1C f 0 s
    | st =>
      let v := x.toNat % 2 ^ 62
      let s := s.writeView w.ctx 0 e.2.prot e.1 (natLe 8 (2 ^ 62 + v))
      if st = 2 then
        .ok true (s.onCtx w.ctx fun y =>
          { y with walks := y.walks ++ [⟨BitVec.ofNat 64 (old % 2 ^ 62), BitVec.ofNat 64 v, w.die, w.core⟩] })
      else .ok true s

/-! ## Remote enqueues (R87 to R89, R443 to R445) -/

/-- The parts of a payload: naturally aligned, up to 8 bytes, in ascending address order (R445). -/
def payloadParts : Nat → Nat → List Byte → List (Nat × List Byte)
  | 0, _, _ => []
  | fuel + 1, va, bs =>
    if bs.isEmpty then []
    else
      let n := if va % 8 = 0 ∧ 8 ≤ bs.length then 8 else if va % 4 = 0 ∧ 4 ≤ bs.length then 4
        else if va % 2 = 0 ∧ 2 ≤ bs.length then 2 else 1
      (va, bs.take n) :: payloadParts fuel (va + n) (bs.drop n)

/-- Writes parts of a payload in the target context (R88): logged parts wait for their replay, and a fatal fault stops the write. It
answers the parts that have to be tried again, or none after a fatal fault. -/
def writePayload (s : State) (c core enq : Nat) : List (Nat × List Byte) → Option (List (Nat × List Byte)) × State
  | [] => (some [], s)
  | (va, bs) :: ps =>
    match s.tryPost c core va bs (some enq) with
    | .done s => writePayload s c core enq ps
    | .later s => (some ((va, bs) :: ps), s)
    | .fatal s => (none, s)

/-- Whether side-log entries of an enqueue are still to be replayed. -/
def enqLogged (s : State) (enq : Nat) : Bool := s.cores.any fun e => e.2.log.any fun l => l.enq == some enq

/-- The end of an enqueue at its target: the record is accepted under R73, or refused with an error record (R88, R89). The code
answers the sender. -/
def acceptEnqueue (s : State) (c : Nat) (e : RemoteIn) : Nat × State :=
  if recordValid e.msg.record then
    (1, s.acceptRecord c 0 e.msg.record 2 none (s.dealDie c (recordSeq e.msg.record)) e.core)
  else
    let s := s.acceptRecord c 0 e.msg.record 2 none (fun _ => 0) e.core
    (0x82, s.errorRecord c 0x04 0x82 0 0 (recordSeq e.msg.record) e.core)

/-- Stores the code of an enqueue into its ack word, if it has one (R89). -/
def storeAck (s : State) (c core : Nat) (ack : Option W64) (code : Nat) : State :=
  match ack with
  | none => s
  | some a => s.devPost c core a.toNat (natLe 8 code)

/-- The error record of an enqueue whose payload met a fatal fault (R88, R89). -/
def payloadFailed (s : State) (c : Nat) (e : RemoteIn) : State :=
  s.errorRecord c 0x04 0x80 0 e.msg.target (recordSeq e.msg.record) e.core

/-- What going on with an enqueue at its target comes to: it still waits, or it has ended with a code (R88, R89). -/
def goOnEnqueue (s : State) (c : Nat) (e : RemoteIn) : Option RemoteIn × Nat × State :=
  match s.writePayload c e.core e.serial e.parts with
  | (none, s) => (none, 0x80, s.payloadFailed c e)
  | (some ps, s) =>
    if !ps.isEmpty || s.enqLogged e.serial then (some { e with parts := ps }, 0, s)
    else let (code, s) := s.acceptEnqueue c e; (none, code, s)

/-- Goes on with an enqueue that is looped back into its own context (R445). -/
def goOnLoop (s : State) (c : Nat) (e : RemoteIn) : State :=
  match s.goOnEnqueue c e with
  | (some e, _, s) => s.onCtx c fun x => { x with loops := x.loops ++ [e] }
  | (none, code, s) => s.storeAck c e.core e.ack code

/-- A remote enqueue that is looped back into its own context (R445). -/
def loopEnqueue (s : State) (c core : Nat) (ack : Option W64) (msg : Enqueue) : State :=
  s.bump.goOnLoop c ⟨s.serial, msg, ack, core, payloadParts 4096 msg.target.toNat msg.payload⟩

/-- Goes on with the looped enqueues of a context, in their order. -/
def retryLoops (s : State) (c : Nat) : State :=
  let es := (s.ctx c).loops
  es.foldl (fun s e => s.goOnLoop c e) (s.onCtx c fun x => { x with loops := [] })

/-- An entry of a station table (R233). -/
structure Station where
  slot : Nat
  fd : Nat
  valid : Bool
  self : Bool
  clean : Bool
deriving DecidableEq, Repr

/-- Reads a station-table entry (R233). -/
def readStation (x : Nat) : Station := ⟨bitsAt x 0 13, bitsAt x 13 2, bitAt x 15, bitAt x 16, x / 2 ^ 17 == 0⟩

/-- The address of a station's entry (R233). -/
def stationVa (s : State) (c st : Nat) : Nat := (s.ctx c).station.toNat / 4096 * 4096 + 4 * st

/-- The processor that serves a session (R485), and its ports whose links are up (R19, R244). -/
def servingProc (fd slot : Nat) : Nat := 8 * fd + slot / 1024
def upPorts (s : State) (fd slot : Nat) : List Nat :=
  (span (4 * servingProc fd slot) 4).filter fun p => !s.portsDown.contains p

/-- The packets after which a key, and the cycles after which it, must not be used (R247). -/
def keyPackets : Nat := 2 ^ 32
def keyCycles : Nat := 3600 * 1250000000

/-- Whether the next packet of a session must go under the next key (R247). -/
def keySpent (s : State) (k : SessKey) : Bool := keyPackets ≤ k.sent + 1 || keyCycles ≤ s.cycle - k.since

/-- The older key of a session is no longer accepted 10 s after the first packet under the newer one (R247). -/
def discardOld (cycle : Nat) (x : Session) : Session :=
  match x.firstNew with
  | none => x
  | some t =>
    if cycle < t + 12500000000 then x
    else if x.old.isSome then { x with old := none, firstNew := none }
    else { x with stale := x.next.isSome, firstNew := none }

/-- The next key becomes the current one; the current one is kept for what still arrives under it (R247). -/
def switchKey (s : State) (fd slot : Nat) : State :=
  s.onSession fd slot fun y =>
    let x := discardOld s.cycle y
    match x.next with
    | some k => { x with old := if x.stale then none else x.key, key := some k, next := none, stale := false }
    | none => x

/-- A session fails (R248): its unsent packets are dropped, those held under R241 are to be folded, and slots that wait for a receive, an
answer or a fold look again. A send that has been answered LATE before keeps the fold that it has. DESIGN CHOICE (log 50): the enqueues
that it has sent and that have no answer are given up, and their slots are free; the answers that it has not sent are dropped. -/
def markFailed (s : State) (fd slot : Nat) : State :=
  let s := s.onSession fd slot fun x =>
    { x with failed := true, offer := none, unacked := [], pend := [], outs := x.outs.filter fun o => !o.sent }
  { s with fabs := s.fabs.mapVals fun _ f =>
      let due := f.retained.filter fun r => r.sess == some (fd, slot)
      { f with
        retained := f.retained.map fun r => if r.sess = some (fd, slot) then { r with folding := some (r.folding.getD true) } else r
        slots := f.slots.mapVals fun i x =>
          if x.wait = .receive ∨ ((x.wait = .send ∨ x.wait = .memory) ∧ due.any fun r => r.slot == i) then { x with wait := .ready }
          else x } }

/-- Makes a session ready for its next packet (R247, R248): where its key is spent the next one takes over, or the session fails. -/
def readyKey (s : State) (fd slot : Nat) : State :=
  let x := s.session fd slot
  if x.failed || !x.key.any s.keySpent then s
  else if x.next.isSome then s.switchKey fd slot
  else s.markFailed fd slot

/-- The GCM nonce of a key's next packet (R245, R247): the salt of the sending direction, then the counter of the epoch. -/
def gcmNonce (k : SessKey) : List Byte := (k.material.drop (if k.offerer then 32 else 36)).take 4 ++ natLe 8 k.sent

/-- What a packet leaves under: the key, whose counter it takes, and a port. Which of the ports whose links are up it takes is left open
(R244). -/
def stamp (s : State) (fd slot : Nat) (k : SessKey) : (List Byte × Nat) × State :=
  let ports := s.upPorts fd slot
  ((gcmNonce k, ports.getD (Config.choice s.free % max 1 ports.length) 0),
    s.draw.onSession fd slot fun x => { x with key := some { k with sent := k.sent + 1 } })

/-- Something leaves a session under a key: its counter is taken and its port chosen, and it names the low bit of the EPOCH (R244, R247). -/
def emitUnder (s : State) (fd slot : Nat) (k : SessKey) (o : Outgoing) : State :=
  let (e, s) := s.stamp fd slot k
  let bit := bitAt k.epoch 0
  s.emit (.sealed fd slot k.epoch e.1 e.2 (match o with
    | .packet serial pkt => .packet serial { pkt with keyBit := bit, psn := serial }
    | .answer late pkt => .answer late { pkt with keyBit := bit }
    | .enqueue serial msg => .enqueue serial { msg with keyBit := bit }
    | .enqueueAnswer psn code => .enqueueAnswer psn code))

/-- Units of the fabric budget that a packet takes: header and payload in 64 B units (R90, R91). DESIGN CHOICE (log 45): the headers count
as the 48 bytes of R230. -/
def fabricUnits (n : Nat) : Nat := ceilDiv (48 + n) 64

/-- The bytes of an enqueue that travel: the record and the payload (R87). -/
def enqueueBytes (msg : Enqueue) : Nat := msg.record.length + msg.payload.length

/-- Why an enqueue cannot leave its session now: no free slot, no key or port, or no budget (R87, R91, R247). -/
def outWait (s : State) (fd slot : Nat) (o : RemoteOut) : Option Wait :=
  let x := s.session fd slot
  if x.key.isNone || x.failed || (s.upPorts fd slot).isEmpty || 64 ≤ (x.outs.filter fun q => q.sent).length then some .remoteSlot
  else if !s.hasBudget o.ctx 3 (servingProc fd slot) then some .budget
  else none

/-- An enqueue leaves under the current key, with the next transport number of its session; the thread that waits for it goes on (R243,
R247, R444). -/
def sendOut (s : State) (fd slot : Nat) (o : RemoteOut) : State :=
  match (s.session fd slot).key with
  | none => s
  | some k =>
    let msg := { o.msg with psn := (s.session fd slot).enqNext }
    let s := (s.charge o.ctx 3 (servingProc fd slot) (fabricUnits (enqueueBytes msg))).emitUnder fd slot k (.enqueue o.serial msg)
    let s := s.onSession fd slot fun x => { x with enqNext := x.enqNext + 1, outs := x.outs.map fun q =>
      if q.serial = o.serial then { q with msg := msg, sent := true, thread := none } else q }
    match o.thread with
    | some i => (s.onThread i fun t => { t with left := true }).wakeThread i
    | none => s

/-- Sends the enqueues of a list in order, up to the first that cannot leave (R87, R247). -/
def sendOuts (s : State) (fd slot : Nat) : List RemoteOut → State
  | [] => s
  | o :: os =>
    let s := s.readyKey fd slot
    if (s.outWait fd slot o).isSome then s else (s.sendOut fd slot o).sendOuts fd slot os

/-- Sends the enqueues of a session that have not left (R87, R247). -/
def flushOuts (s : State) (fd slot : Nat) : State :=
  s.sendOuts fd slot ((s.session fd slot).outs.filter fun o => !o.sent)

/-- Where an enqueue stands that a thread waits for (R444). -/
def waitingOut (s : State) (i : Nat) : Option (Nat × RemoteOut) :=
  s.sessions.findSome? fun e => (e.2.outs.find? fun o => !o.sent && o.thread == some i).map fun o => (e.1, o)

/-- Puts an enqueue into its session, and sends it when it can leave. The thread waits until it has left (R87, R444); an entry of an
outbox is tried again (R158). -/
def putOut (s : State) (w : Who) (fd slot : Nat) (ack : Option W64) (msg : Enqueue) (waits : Bool) : Res Unit :=
  let o : RemoteOut := ⟨s.serial, w.ctx, w.core, ack, msg, false, if waits then some w.thread else none⟩
  let t := (s.bump.onSession fd slot fun x => { x with outs := x.outs ++ [o] }).flushOuts fd slot
  if (t.session fd slot).outs.any fun q => q.serial == o.serial && q.sent then
    .ok () (if waits then t.onThread w.thread fun h => { h with left := false } else t)
  else
    let r := (t.outWait fd slot o).getD .remoteSlot
    if waits then .wait r (t.onTeam (teamOf w.thread) fun x => { x with external := true })
    else .wait r (t.onSession fd slot fun x => { x with outs := x.outs.filter fun q => q.serial != o.serial })

/-- Sends a remote enqueue through its station (R87, R445): looped back, answered here, or into a slot of its session. DESIGN CHOICE (log
34): where the station's entry lies outside the global window, nothing is sent and no code is stored. -/
def sendEnqueue (s : State) (w : Who) (st : Nat) (ack : Option W64) (rec_ : W64) (msg : Enqueue) (waits : Bool) : Res Unit :=
  let va := s.stationVa w.ctx st
  if 2 ^ 57 ≤ va then .ok () s
  else (s.devLoad w.ctx va 4 0 w.core false).andThen fun bs s =>
    let e := readStation (leNat bs)
    if !e.clean || !(e.valid || e.self) then
      .ok () ((s.errorRecord w.ctx 0x04 0x83 0 rec_ w.tag w.core).storeAck w.ctx w.core ack 0x83)
    else if e.self then .ok () (s.loopEnqueue w.ctx w.core ack msg)
    else s.putOut w e.fd e.slot ack msg waits

/-- The page of an ack word must be normal (R444). -/
def checkAck (s : State) (w : Who) (ack : Option W64) : Res Unit :=
  match ack with
  | none => .ok () s
  | some a => (s.devPage w.ctx a.toNat 0 .write 0 w.core true).andThen fun _ s => .ok () s

/-- `renq` for an agent, whose loads follow the thread's earlier accesses (R87, R444). -/
def renqFor (s : State) (w : Who) (rec_ : W64) (st : Nat) (ack : Option W64) (waits : Bool) : Res Unit :=
  (s.checkAck w ack).andThen fun _ s =>
  (s.drained w.thread).andThen fun _ s =>
  (s.devLoad w.ctx rec_.toNat 64 0 w.core true).andThen fun bs s =>
    s.sendEnqueue w st ack rec_ ⟨bs, [], 0, false, ack.isSome, false, 0⟩ waits

/-- `wenq` for an agent, whose loads follow the thread's earlier accesses (R87, R444). -/
def wenqFor (s : State) (w : Who) (pay target rec_ : W64) (len st : Nat) (ack : Option W64) (waits : Bool) : Res Unit :=
  (s.checkAck w ack).andThen fun _ s =>
  (s.drained w.thread).andThen fun _ s =>
  (s.devLoad w.ctx rec_.toNat 64 0 w.core true).andThen fun bs s =>
  (s.devSpan w.ctx pay.toNat len 0 w.core true).andThen fun data s =>
    s.sendEnqueue w st ack rec_ ⟨bs, data, target, true, ack.isSome, false, 0⟩ waits

/-- An enqueue of the current thread: one that has left lets it go on, one that is still here makes it wait, and else it is made
(R444). -/
def onceOut (s : State) (k : State → Res Unit) : Res Unit :=
  if s.thr.left then .ok () (s.onThr fun t => { t with left := false })
  else match s.waitingOut s.iss.cur with
    | none => k s
    | some (at_, o) =>
      let s := s.flushOuts (at_ / 8192) (at_ % 8192)
      if s.thr.left then .ok () (s.onThr fun t => { t with left := false })
      else .wait ((s.outWait (at_ / 8192) (at_ % 8192) o).getD .remoteSlot) s

end State

end Sys2Proof.Machine
end

