-- ==== Sys2Proof/Machine/Future.lean ====
section
/-! DEFINITION. Instructions over the module's units: futures (R81 to R85, R378 to R380), counters and triggers (R346, R347,
R361, R370), `cstart` (R367), `spawn` (R451), remote enqueues (R443, R444), fences (R136, R374); and the events of walks
(R84), outbox runs (R158) and write-combining stores (R137). -/

namespace Sys2Proof.Machine

namespace State

/-- The memory type of the page of an address for a read, and the page's faults: the page must be normal (R116). -/
def normalPage (s : State) (a : W64) (w : Want) : Res (Nat × TlbEntry) :=
  match s.xlatThread a.toNat w with
  | (.fatal, s) => .gone s
  | (.hold _, s) => .wait .translation s
  | (.ok key leaf, s) => if leaf.type != 0 then .trap 0x14 a 0 s else .ok (key, leaf) s

/-- The memory-type trap of an access to a page whose translation answers and which is not normal: it comes before every wait for a
translation (R116, R275). -/
def pageTrap (s : State) (a : W64) (w : Want) : Option (Byte × W64) :=
  match s.normalPage a w with
  | .trap cause addr _ _ => some (cause, addr)
  | _ => none

/-- Charges an access of n bytes to the memory controllers of a key's home, or waits for the next period (R91). -/
def hbmOr (s : State) (key n : Nat) : Res Unit :=
  match s.hbm key n with
  | some s => .ok () s
  | none => .wait .budget s

/-- Queues an operation in the current view's outbox, with the team marked as having gone outside (R155, R286). -/
def queueOp (s : State) (op : OutOp) (a : W64) : Res Unit := s.markExternal.outboxPush op a

/-! ## Futures -/

/-- The cells that `fread` needs when it links X to F in a view: a version of each line, or an outbox entry (R152, R155). -/
def linkCells (s : State) (n kf kx : Nat) (queued : Bool) : Nat :=
  b2n (s.needsCell s.curCtx n kf) +
    (if queued then 1 else if kx / 64 = kf / 64 then 0 else b2n (s.needsCell s.curCtx n kx))

/-- The read-modify-write of `fread` on the value old of F (R83): the value of a full future, which asks nothing of X's home, or none once
X stands at the head of its list. -/
def freadAt (s : State) (f x : W64) (pf px : Nat × TlbEntry) (old : Nat) : Res (Option W64) :=
  let c := s.curCtx
  let n := s.curView
  if old / 2 ^ 62 = 1 then .ok (some (BitVec.ofNat 64 (old % 2 ^ 62))) s
  else
    let next := natLe 8 (if old / 2 ^ 62 = 2 then old % 2 ^ 62 else 0)
    let queued := n != 0 && px.2.wshared
    if n != 0 && s.poolCells c < s.usedCells c + s.linkCells n pf.1 px.1 queued then .trap 0x23 f 0 s
    else
      (if queued then s.outboxPush (.store x next) x
       else (s.hbmOr px.1 8).andThen fun _ s => .ok () ((s.notePage c n x.toNat).writeView c n px.2.prot px.1 next)).andThen fun _ s =>
        .ok none ((s.notePage c n f.toNat).writeView c n pf.2.prot pf.1 (natLe 8 (2 ^ 63 + x.toNat)))

/-- `fread` once F's page answers (R378, R379): the traps that F's page and F's value give, then X's translation, then the access. -/
def freadFrom (s : State) (f x : W64) (pf : Nat × TlbEntry) : Res (Option W64) :=
  if s.curView != 0 && pf.2.wshared then .trap 0x15 f 0 s
  else (s.hbmOr pf.1 8).andThen fun _ s =>
    let old := leNat (s.readView s.curCtx s.curView pf.2.prot pf.1 8)
    if old / 2 ^ 62 = 3 then .trap 0x1C f 0 s
    else (s.normalPage x .write).andThen fun px s => s.freadAt f x pf px old

/-- `fread` after the checks of its registers (R378, R379): every trap comes before a wait for a translation, the lowest code first
(R275). -/
def fread (s : State) (f x : W64) : Res (Option W64) :=
  (require s (isGlobal f) 0x10 f).andThen fun _ s =>
  (require s (isGlobal x) 0x10 x).andThen fun _ s =>
  (require s (f.toNat % 8 == 0) 0x11 f).andThen fun _ s =>
  (require s (x.toNat % 128 == 0) 0x11 x).andThen fun _ s =>
    match (s.pageTrap f .write).or (s.pageTrap x .write) with
    | some (cause, a) => .trap cause a 0 s
    | none => (s.normalPage f .write).andThen fun pf s => s.freadFrom f x pf

/-- `fwrite` after the checks of its registers (R380): whether it filled the future. In a non-root view it is queued after the checks of
R379 that concern F, which DEDUCED (log 34) are made at issue: the world-access trap could not arise when the entry runs in the root. -/
def fwrite (s : State) (f x : W64) : Res Bool :=
  (s.checkGlobal f 8).andThen fun _ s =>
    if s.curView != 0 then
      (s.normalPage f .write).andThen fun pf s =>
        if pf.2.wshared then .trap 0x15 f 0 s
        else (s.outboxPush (.fwrite f x) f).andThen fun _ s => .ok true s
    else s.fwriteFor s.who f x

end State

/-- `fread` (R378). -/
def execFread (d a b : Reg) (s : State) : Host.Outcome State Fault Refusal :=
  issue s (pair d ++ pair a ++ [.reg (a.toNat + 2), .reg (a.toNat + 3)] ++ preds [b] false) fun s =>
    (s.fread (s.vd a) (s.vdn (a.toNat + 2))).andThen fun r s =>
      let x := r.getD 0
      .ok () (s.later [(d.toNat, loHalf x), (d.toNat + 1, hiHalf x)] [(b.toNat, r.isSome)])

/-- `fwrite` (R380). -/
def execFwrite (d a b : Reg) (m : Bool) (s : State) : Host.Outcome State Fault Refusal :=
  issue s (preds [d] m ++ pair a ++ pair b) fun s =>
    (s.fwrite (s.vd a) (s.vd b)).andThen fun ok s => .ok () (s.markExternal.later [] [(predNum d m, ok)])

/-! ## Counters, triggers, collectives and spawns -/

namespace State

/-- `arm` after the checks of its registers (R346, R347): the id, or all ones with the predicate. -/
def arm (s : State) (ctr t act : W64) : Res (W32 × Bool) :=
  (require s (isGlobal ctr) 0x10 ctr).andThen fun _ s =>
  (require s (isGlobal act) 0x10 act).andThen fun _ s =>
  (require s (ctr.toNat % 8 == 0) 0x11 ctr).andThen fun _ s =>
  (require s (act.toNat % 32 == 0) 0x11 act).andThen fun _ s =>
    if s.curView != 0 then (s.queueOp (.arm ctr t act) ctr).andThen fun _ s => .ok (0xFFFFFFFF, true) s
    else (s.armFor s.who ctr t act).andThen fun id s =>
      .ok (match id with | some i => (BitVec.ofNat 32 i, true) | none => (0xFFFFFFFF, false)) s.markExternal

/-- `disarm` (R370): whether the trigger was armed. DEDUCED (log 51): it names no address, so that the view-exhaustion fault of a queued one
reports 0 (R166, R276). -/
def disarm (s : State) (id : Nat) : Res Bool :=
  if s.curView != 0 then (s.queueOp (.disarm id) 0).andThen fun _ s => .ok true s
  else (s.disarmFor s.who id).andThen fun b s => .ok b s.markExternal

/-- A `cinc` of the current thread on a page that answers (R361, R126). -/
def cincRoot (s : State) (a : W64) (d : W32) : Res Unit :=
  match s.xlatThread a.toNat .write with
  | (.fatal, s) => .gone s
  | (.hold recorded, s) => if recorded then s.logPush a.toNat (.cinc d) else .wait .translation s
  | (.ok key leaf, s) =>
    if leaf.type != 0 then .trap 0x14 a 0 s
    else (s.hbmOr key 8).andThen fun _ s => .ok () (s.cincAt s.who key leaf.prot a d)

/-- `cinc` after the checks of its registers (R361). -/
def cinc (s : State) (a : W64) (d : W32) : Res Unit :=
  (s.checkGlobal a 8).andThen fun _ s =>
    if s.curView != 0 then s.queueOp (.cinc a d) a else s.markExternal.cincRoot a d

/-- `cstart` after the checks of its registers (R220, R367). -/
def cstart (s : State) (img arg comp : W64) : Res Unit :=
  match startCause img arg comp with
  | some (cause, a) => .trap cause a 0 s
  | none =>
    if s.curView != 0 then s.queueOp (.cstart img arg comp) img
    else (s.startFor ⟨s.curCtx, img, arg, comp, s.iss.cur, s.curCore, false, false, false, 0, 0⟩).andThen fun _ s => .ok () s.markExternal

/-- `spawn` after the checks of its registers (R451). -/
def spawn (s : State) (a : W64) : Res Unit :=
  (s.checkGlobal a 64).andThen fun _ s =>
    if s.curView != 0 then s.queueOp (.spawn a) a
    else (s.spawnFor s.who a).andThen fun _ s => .ok () s.markExternal

end State

/-- `arm` (R346). -/
def execArm (d a b : Reg) (m : Bool) (s : State) : Host.Outcome State Fault Refusal :=
  issue s (regs [d] ++ (span a.toNat 6).map Touch.reg ++ preds [b] m) fun s =>
    (s.arm (s.vd a) (s.vdn (a.toNat + 2)) (s.vdn (a.toNat + 4))).andThen fun r s =>
      .ok () ((s.setV d r.1).setP (predNum b m) r.2)

/-- `disarm` (R370). -/
def execDisarm (d a : Reg) (s : State) : Host.Outcome State Fault Refusal :=
  issue s (preds [d] false ++ regs [a]) fun s =>
    (s.disarm (s.v a).toNat).andThen fun b s => .ok () (s.setP d.toNat b)

/-- `cinc` (R361). -/
def execCinc (a b : Reg) (s : State) : Host.Outcome State Fault Refusal :=
  issue s (pair a ++ regs [b]) fun s => s.cinc (s.vd a) (s.v b)

/-- `cstart` (R367). -/
def execCstart (d a b : Reg) (s : State) : Host.Outcome State Fault Refusal :=
  issue s (pair d ++ pair a ++ pair b) fun s => s.cstart (s.vd d) (s.vd a) (s.vd b)

/-- `spawn` (R451). -/
def execSpawn (a : Reg) (s : State) : Host.Outcome State Fault Refusal :=
  issue s (pair a) fun s => s.spawn (s.vd a)

/-! ## Remote enqueues (R443, R444) -/

namespace State

/-- The address checks of a remote enqueue: every window before every alignment (R275, R444). -/
def checkEnqueue (s : State) (globals : List W64) (rec_ : W64) (ack : Option W64) : Res Unit :=
  match (globals ++ ack.toList).find? fun a => !isGlobal a with
  | some a => .trap 0x10 a 0 s
  | none =>
    if rec_.toNat % 64 != 0 then .trap 0x11 rec_ 0 s
    else match ack.filter fun a => a.toNat % 8 != 0 with
      | some a => .trap 0x11 a 0 s
      | none => .ok () s

/-- The pages of a remote enqueue that are not normal, looked at before its descriptor (R275, R444). -/
def checkPages (s : State) : List (W64 × Want) → Res Unit
  | [] => .ok () s
  | (a, w) :: as => (s.normalPage a w).andThen fun _ s => checkPages s as

/-- The last checks of a remote enqueue, in the order of their codes: a page that is not normal, then the descriptor (R275, R444). An
invalid descriptor traps before any translation is waited for. -/
def checkRest (s : State) (pages : List (W64 × Want)) (bad : Bool) (rec_ : W64) : Res Unit :=
  match pages.findSome? fun p => s.pageTrap p.1 p.2 with
  | some (cause, a) => .trap cause a 0 s
  | none => if bad then .trap 0x19 rec_ 0 s else s.checkPages pages

/-- The pages of a payload, and the first one where its length is none. -/
def payloadPages (pay : W64) (len : Nat) : List (W64 × Want) :=
  (pagePieces 3 pay.toNat (max 1 (min len 4096))).map fun e => (BitVec.ofNat 64 e.1, .read)

/-- The ack word of a remote enqueue. -/
def ackOf (s : State) (d : Reg) (m : Bool) : Option W64 := if m then some (s.vd d) else none

/-- `renq` after the checks of its registers (R444). -/
def renq (s : State) (rec_ : W64) (st : W32) (ack : Option W64) : Res Unit :=
  (s.checkEnqueue [rec_] rec_ ack).andThen fun _ s =>
    if s.curView != 0 then
      if st.toNat ≥ 2 ^ 16 then .trap 0x19 rec_ 0 s else s.queueOp (.renq rec_ st.toNat ack) rec_
    else s.onceOut fun s =>
      (s.checkRest ((rec_, .read) :: ack.toList.map fun a => (a, .write)) (st.toNat ≥ 2 ^ 16) rec_).andThen fun _ s =>
        (s.renqFor s.who rec_ st.toNat ack true).andThen fun _ s => .ok () s.markExternal

/-- `wenq` after the checks of its registers (R444). -/
def wenq (s : State) (pay target rec_ : W64) (len st : W32) (ack : Option W64) : Res Unit :=
  let bad := len.toNat = 0 || 4096 < len.toNat || st.toNat ≥ 2 ^ 16
  (s.checkEnqueue [pay, target, rec_] rec_ ack).andThen fun _ s =>
    if s.curView != 0 then
      if bad then .trap 0x19 rec_ 0 s
      else s.queueOp (.wenq pay target rec_ len.toNat st.toNat ack) rec_
    else s.onceOut fun s =>
      (s.checkRest ((rec_, .read) :: payloadPages pay len.toNat ++ ack.toList.map fun a => (a, .write)) bad rec_).andThen fun _ s =>
        (s.wenqFor s.who pay target rec_ len.toNat st.toNat ack true).andThen fun _ s => .ok () s.markExternal

end State

/-- `renq` (R443). -/
def execRenq (d a : Reg) (m : Bool) (s : State) : Host.Outcome State Fault Refusal :=
  issue s ((if m then pair d else []) ++ (span a.toNat 3).map Touch.reg) fun s =>
    s.renq (s.vd a) (s.vn (a.toNat + 2)) (s.ackOf d m)

/-- `wenq` (R443). -/
def execWenq (d a : Reg) (m : Bool) (s : State) : Host.Outcome State Fault Refusal :=
  issue s ((if m then pair d else []) ++ (span a.toNat 8).map Touch.reg) fun s =>
    s.wenq (s.vd a) (s.vdn (a.toNat + 2)) (s.vdn (a.toNat + 4)) (s.vn (a.toNat + 6)) (s.vn (a.toNat + 7)) (s.ackOf d m)

/-! ## Fences (R136, R374) -/

namespace State

/-- Whether `fence.e` of the current thread must wait: one of its jobs, or a matrix instruction of its group, is outstanding. -/
def enginesBusy (s : State) : Bool :=
  (s.jobsOf s.curTeam).any (fun j => j.thread == s.iss.cur && j.cloneOf.isNone) ||
    !(s.group (s.groupOf s.iss.cur)).mms.isEmpty

/-- Whether `fence.w` of the current thread must wait: a write-combining store is not yet performed. -/
def storesBusy (s : State) : Bool := !s.thr.wc.isEmpty

end State

/-- `fence` (R374). -/
def execFence (s : State) : Host.Outcome State Fault Refusal :=
  issue s [] fun s => if s.enginesBusy || s.storesBusy then .wait .fence s else .ok () s

/-- `fence.e` (R374). -/
def execFenceE (s : State) : Host.Outcome State Fault Refusal :=
  issue s [] fun s => if s.enginesBusy then .wait .fence s else .ok () s

/-- `fence.w` (R374). -/
def execFenceW (s : State) : Host.Outcome State Fault Refusal :=
  issue s [] fun s => if s.storesBusy then .wait .fence s else .ok () s

/-! ## Write-combining stores (R137) -/

/-- The stores that may be performed next: those that no earlier one meets. -/
def nextStores : List WcStore → List WcStore
  | [] => []
  | w :: ws => w :: (nextStores ws).filter fun x => !spansMeet w.key w.data.length x.key x.data.length

namespace State

/-- The stores of a thread that may be performed now: one whose page has come under fault waits on while the side log is full (R128). -/
def readyStores (s : State) (i : Nat) : List WcStore :=
  (nextStores (s.thread i).wc).filter fun w =>
    !s.faulting (s.ctxOf i) (w.va / 4096) || s.logFits (s.coreOf i) [s.wcEntry i w]

end State

/-- `STORE_PERFORMED` (R137): one write-combining store of a thread is performed at its home; which one is left open. -/
def execStorePerformed (thread : Nat) (s : State) : Host.Outcome State Fault Refusal :=
  let ws := s.readyStores thread
  match ws[Config.choice s.free % max 1 ws.length]? with
  | none => .next s
  | some w =>
    let s := (s.performWc thread w).draw.onThread thread fun t => { t with wc := t.wc.erase w }
    .next (((s.wake .fence fun i => i == thread).wakeTeam (State.teamOf thread) .join))

/-! ## Walks of detached lists (R84) -/

namespace State

/-- Ends a walk. -/
def endWalk (s : State) (c i : Nat) : State := s.onCtx c fun x => { x with walks := x.walks.eraseIdx i }

/-- A walk goes on with the next record, or ends (R84). -/
def nextWalk (s : State) (c i : Nat) (w : FWalk) (next : W64) : State :=
  if next = 0 then s.endWalk c i else s.onCtx c fun x => { x with walks := x.walks.set i { w with next := next } }

/-- A dropped continuation: its error record (R84). -/
def dropContinuation (s : State) (c : Nat) (w : FWalk) (cause : Nat) (rec_ : List Byte) : State :=
  s.errorRecord c 0x03 cause 0 w.next (recordSeq rec_) w.core

/-- One record of a walk (R82, R84): the value goes to SLOT, then the continuation is accepted. DESIGN CHOICE (log 34): a record's own
address outside the global window, or not a multiple of 128, is none of the three cases of R84; it leaves a record of type 0x03 as they
do, and the walk ends there. DEDUCED (log 34): the accesses of a walk carry AGENT 5, "walker" (R283). -/
def stepWalk (s : State) (c i : Nat) (w : FWalk) : State :=
  if !isGlobal w.next || w.next.toNat % 128 != 0 then
    (s.dropContinuation c w (if isGlobal w.next then 0x11 else 0x10) []).endWalk c i
  else match s.devLoad c w.next.toNat 128 5 w.core false with
    | .trap _ _ _ s => s
    | .wait _ s => s
    | .gone s => s.endWalk c i
    | .ok bs s =>
      let next := BitVec.ofNat 64 (leNat (bs.take 8))
      let slot : W64 := BitVec.ofNat 64 (leNat ((bs.drop 8).take 8))
      let rec_ := (bs.drop 64).take 64
      if !isGlobal slot then (s.dropContinuation c w 0x10 rec_).nextWalk c i w next
      else if slot.toNat % 8 != 0 then (s.dropContinuation c w 0x11 rec_).nextWalk c i w next
      else match s.devStore c slot.toNat (natLe 8 w.value.toNat) 5 w.core false with
        | .trap _ _ _ s => s
        | .wait _ s => s
        | .gone s => (s.dropContinuation c w 0 rec_).nextWalk c i w next
        | .ok _ s => (s.acceptRecord c (w.next + 64) rec_ 3 none (fun _ => w.die) w.core).nextWalk c i w next

/-- A page becomes fatal: a walk whose store of SLOT waits for it drops that continuation with its record (R84). -/
def failWalk (s : State) (c page : Nat) (w : FWalk) : State :=
  match s.devLoad c w.next.toNat 128 5 w.core false with
  | .ok bs _ =>
    let slot := leNat ((bs.drop 8).take 8)
    if isGlobal w.next && w.next.toNat % 128 = 0 && slot < 2 ^ 57 && slot % 8 = 0 && slot / 4096 = page
    then s.dropContinuation c w 0 ((bs.drop 64).take 64) else s
  | _ => s

end State

/-- `FUTURE_WALK` (R84): a walk of a context makes its next record's store and spawn; which walk is left open. The walks of a
context that ends are dropped without records (R380). -/
def execFutureWalk (ctx : Nat) (s : State) : Host.Outcome State Fault Refusal :=
  let x := s.ctx ctx
  if x.state = 0 ∨ x.state = 4 ∨ x.state = 5 then .next (s.onCtx ctx fun x => { x with walks := [] })
  else
    let i := Config.choice s.free % max 1 x.walks.length
    match x.walks[i]? with
    | none => .next s
    | some w => .next (s.draw.stepWalk ctx i w)

/-! ## Outboxes that run (R157, R158) -/

namespace State

/-- A queued reduction in the root (R155, R441): its operation, its width, the address and the operand. -/
def redFor (s : State) (w : Who) (op : AtomOp) (w64 : Bool) (va x : W64) : Res Unit :=
  (s.devPage w.ctx va.toNat (atomWidth w64) .write 0 w.core false).andThen fun e s =>
    if e.2.type = 1 then .trap 0x14 va 0 s
    else
      let n := atomWidth w64
      let old := leNat (s.pageRead w.ctx e.2.prot e.1 n)
      .ok () (s.writeView w.ctx 0 e.2.prot e.1 (natLe n (atomNew op n old x.toNat x.toNat 0)))

/-- A queued start (R158, R220): a header on a page under fault, or an earlier start of the thread that is held, makes the entry wait. -/
def runStart (s : State) (r : StartReq) : Res Unit :=
  (s.drained r.thread).andThen fun _ s => if s.startBehind r then .wait .translation s else s.startTo r

/-- Runs one entry as the winner's lowest live thread would issue it, in the root (R157). -/
def runOp (s : State) (w : Who) : OutOp → Res Unit
  | .cstart img arg comp => s.runStart ⟨w.ctx, img, arg, comp, w.thread, w.core, false, false, false, 0, 0⟩
  | .renq rec_ st ack => s.renqFor w rec_ st ack false
  | .wenq pay target rec_ len st ack => s.wenqFor w pay target rec_ len st ack false
  | .spawn rec_ => s.spawnFor w rec_
  | .arm ctr t act => (s.armFor w ctr t act).andThen fun _ s => .ok () s
  | .disarm id => (s.disarmFor w id).andThen fun _ s => .ok () s
  | .cinc ctr d => s.cincFor w ctr d 0 w.core
  | .fwrite f x => (s.fwriteFor w f x).andThen fun _ s => .ok () s
  | .store va data => s.devStore w.ctx va.toNat data 0 w.core false
  | .red op w64 va x => s.redFor w op w64 va x

/-- The winner of an outbox run as an agent (R157, R158). DESIGN CHOICE (log 34): the run of a winner that has been killed meanwhile goes on,
and what it then leaves carries the TAG 0 and the first core of its die. -/
def winner (s : State) (c : Nat) (r : OutRun) : Who :=
  let k := (s.team r.team).core
  ⟨c, if k = noCore then 96 * r.die else k, s.lowest r.team, (s.team r.team).record.seq.toNat⟩

/-- Takes the head entry off a view's outbox. -/
def popOutbox (s : State) (c n : Nat) : State := s.setView c n { s.view c n with outbox := (s.view c n).outbox.drop 1 }

/-- Ends a run whose last entry has run: the winner's threads go on past `choose` (R158), once they stand on their cores outside a handler. -/
def endRun (s : State) (c : Nat) (r : OutRun) : State :=
  let drop (s : State) := s.onCtx c fun x => { x with runs := x.runs.filter fun q => q.team != r.team }
  if (s.teams.find? r.team).isNone then drop s
  else if s.onCores r.team && (s.liveOf r.team).all (fun i => (s.thread i).arrival.isSome) then (drop s).passTeam r.team
  else s.onCtx c fun x => { x with runs := x.runs.map fun q => if q.team = r.team then { q with finished := true } else q }

/-- Runs the head entry of an outbox (R158). Its cell is read first, and charged (R90): one whose die has no share of the budget left waits
(R91). DESIGN CHOICE (log 19): the cell's place is taken as the last one in use. -/
def stepRun (s : State) (c : Nat) (r : OutRun) : State :=
  match if r.finished then [] else (s.view c r.view).outbox with
  | [] => s.endRun c r
  | op :: _ =>
    let w := s.winner c r
    let s := match s.memTurn c (physKey (s.ctxDies c) (s.nextCell c - 128)) 128 with
      | none => s
      | some s => match s.runOp w op with
        | .ok _ s => s.popOutbox c r.view
        | .trap cause a _ s => (s.errorRecord c 0x0A cause.toNat 0 a w.tag w.core).popOutbox c r.view
        | .wait _ s => s
        | .gone s => s
    if (s.view c r.view).outbox.isEmpty then s.endRun c r else s

end State

/-- `OUTBOX_ENTRY` (R158): the next entry of an outbox that a context runs; which of several runs is left open. DESIGN CHOICE (log 34): it
runs also while the context is switched out. -/
def execOutboxEntry (ctx : Nat) (s : State) : Host.Outcome State Fault Refusal :=
  let rs := (s.ctx ctx).runs
  match rs[Config.choice s.free % max 1 rs.length]? with
  | none => .next s
  | some r => .next (s.draw.stepRun ctx r)

end Sys2Proof.Machine
end

