-- ==== Sys2Proof/Machine/Fabric.lean ====
section
/-! DEFINITION. The packet engine and matcher of the fabric processors: payload codes (R257), a processor's accesses (R219), its
station id (R233, R234), sends through sessions (R247, R248), arrivals (R232), matching (R236, R240, R399), folds (R241, R267), and the
end of a collective (R388). -/

namespace Sys2Proof

/-! ## Payload codes (R257, R262) -/

/-- The bytes of a block of 32 elements, and the whole blocks of a chunk slot (R257). -/
def PayCode.blockBytes : PayCode → Nat
  | .fp32 => 128 | .bf16 => 64 | .s1 => 6 | .t3 => 9 | .q8 => 32
def PayCode.slotBlocks : PayCode → Nat
  | .fp32 => 32 | .bf16 => 64 | .s1 => 682 | .t3 => 455 | .q8 => 128

/-- The elements of a chunk slot (R257). -/
def PayCode.slotElems (c : PayCode) : Nat := 32 * c.slotBlocks

/-- The payload code of a header byte or field (R230). -/
def PayCode.ofNat? (n : Nat) : Option PayCode :=
  match n with
  | 0 => some .fp32 | 1 => some .bf16 | 2 => some .s1 | 3 => some .t3 | 4 => some .q8 | _ => none

/-- The number of a payload code (R230). -/
def PayCode.toNat : PayCode → Nat
  | .fp32 => 0 | .bf16 => 1 | .s1 => 2 | .t3 => 3 | .q8 => 4

end Sys2Proof

namespace Sys2Proof.Machine

/-- BF16 values as FP32. -/
def bytesHalves : List Byte → List W32
  | a :: b :: bs => ofBf16 (leNat [a, b]) :: bytesHalves bs
  | _ => []

/-- The 32 values of a block (R189, R191, R193, R262). -/
def decodeBlock (c : PayCode) (scale : Byte) (bs : List Byte) : List W32 :=
  match c with
  | .fp32 => bytesWords bs
  | .bf16 => bytesHalves bs
  | .s1 => s1Decode bs
  | .t3 => t3Decode bs
  | .q8 => bs.map (qDecode scale)

/-- The exact values of a block: those of an agreed-scale code need not be FP32 values (R192, R193, R262). -/
def decodeValues (c : PayCode) (scale : Byte) (bs : List Byte) : List Num :=
  match c with
  | .q8 => bs.map (qValue scale)
  | .fp32 | .bf16 | .s1 | .t3 => (decodeBlock c scale bs).map valueOf

/-- The bytes of FP32 values. -/
def wordsBytes (xs : List W32) : List Byte := xs.flatMap fun x => natLe 4 x.toNat

/-- The code of 32 values (R189, R190, R193, R257). -/
def encodeBlock (c : PayCode) (scale : Byte) (xs : List W32) : List Byte :=
  match c with
  | .fp32 => wordsBytes xs
  | .bf16 => xs.flatMap fun x => natLe 2 (toBf16 x)
  | .s1 => s1Encode xs
  | .t3 => t3Encode xs
  | .q8 => xs.map (qEncode scale)

/-- Whether a block holds an invalid code (R191). -/
def blockInvalid (c : PayCode) (bs : List Byte) : Bool := c == .t3 && t3Invalid bs

/-- Bytes cut into blocks. -/
def blocksOf (w : Nat) (bs : List Byte) : Nat → List (List Byte)
  | 0 => []
  | n + 1 => bs.take w :: blocksOf w (bs.drop w) n

/-- The exact values of a payload's whole blocks. -/
def decodePayload (c : PayCode) (scale : Byte) (bs : List Byte) : List Num :=
  (blocksOf c.blockBytes bs (bs.length / c.blockBytes)).flatMap (decodeValues c scale)

/-! ## Accesses of a processor (R219, R382) -/

/-- What a step of a collective comes to: it goes on, waits, or ends the collective with a status. -/
inductive FRes (α : Type) where
  | ok (a : α) (s : State)
  | wait (w : SlotWait) (s : State)
  | stop (status : Nat) (s : State)

namespace FRes

/-- Goes on where nothing has stopped the instruction. -/
def andThen {α β : Type} (r : FRes α) (k : α → State → FRes β) : FRes β :=
  match r with
  | .ok a s => k a s
  | .wait w s => .wait w s
  | .stop st s => .stop st s

/-- The outcome of a unit's access as a processor sees it (R219, R382). -/
def ofRes {α : Type} : Res α → FRes α
  | .ok a s => .ok a s
  | .trap _ _ _ s => .stop 8 s
  | .wait .budget s => .wait .budget s
  | .wait _ s => .wait .memory s
  | .gone s => .stop 5 s

end FRes

/-- A translated part of an access: key, length, leaf. -/
abbrev Part := Nat × Nat × TlbEntry

namespace State

/-- Translates the parts of an access of a processor. -/
def fabParts (s : State) (c p : Nat) (w : Want) : List (Nat × Nat) → FRes (List Part)
  | [] => .ok [] s
  | (va, n) :: ps =>
    (FRes.ofRes (s.devPage c va n w 4 p false)).andThen fun e s =>
      (fabParts s c p w ps).andThen fun es s => .ok ((e.1, n, e.2) :: es) s

/-- Translates a span: outside the global window or misaligned it ends the collective (R382). -/
def fabSpan (s : State) (c p va n align : Nat) (w : Want) : FRes (List Part) :=
  if 2 ^ 57 < va + n || va % align != 0 then .stop 8 s else s.fabParts c p w (pagePieces (n / 4096 + 2) va n)

/-- Reads the bytes of translated parts. -/
def readParts (s : State) (c : Nat) (ps : List Part) : List Byte := ps.flatMap fun e => s.pageRead c e.2.2.prot e.1 e.2.1

/-- Writes bytes to translated parts, in ascending order. -/
def writeParts (s : State) (c : Nat) (bs : List Byte) : List Part → State
  | [] => s
  | (key, n, leaf) :: ps => (s.writeView c 0 leaf.prot key (bs.take n)).writeParts c (bs.drop n) ps

/-! ## Slots -/

/-- A collective slot of a processor, if one runs there. -/
def fslot (s : State) (p i : Nat) : Option FSlot := (s.fab p).slots.find? i

def setFSlot (s : State) (p i : Nat) (x : FSlot) : State := s.onFab p fun f => { f with slots := f.slots.set i x }

/-- Changes a slot that runs. -/
def onFSlot (s : State) (p i : Nat) (f : FSlot → FSlot) : State :=
  match s.fslot p i with
  | some x => s.setFSlot p i (f x)
  | none => s

/-- Changes every running slot. -/
def onSlots (s : State) (f : Nat → Nat → FSlot → FSlot) : State :=
  { s with fabs := s.fabs.mapVals fun p x => { x with slots := x.slots.mapVals fun i y => f p i y } }

/-- Makes every slot of a context ready that waits for a reason. -/
def wakeSlots (s : State) (c : Nat) (w : SlotWait) : State :=
  s.onSlots fun _ _ x => if x.ctx = c ∧ x.wait = w then { x with wait := .ready } else x

/-- Counts events of a processor (R238). -/
def countDrop (s : State) (p : Nat) : State := s.onFab p fun f => { f with drop := f.drop + 1 }
def countRefuse (s : State) (p : Nat) : State := s.onFab p fun f => { f with refuse := f.refuse + 1 }
def countLate (s : State) (p : Nat) : State := s.onFab p fun f => { f with late := f.late + 1 }

end State

/-- Counts one sum of the adder in a slot's histogram (R242). -/
def FSlot.countSum (x : FSlot) (v : W32) : FSlot :=
  let b := histBin v
  let n := x.hist.get b 0
  if n = 0xFFFFFFFF then { x with flags := x.flags ||| 8 } else { x with hist := x.hist.set b (n + 1) }

/-- Counts the sums of an array where the histogram is enabled. -/
def FSlot.countSums (x : FSlot) (on : Bool) (vs : List W32) : FSlot :=
  if x.histOn && on then vs.foldl FSlot.countSum x else x

namespace State

/-! ## Stations (R233, R234) -/

/-- The first entry of a page's entries that names a processor by SELF. -/
def selfIn (p : Nat) : Nat → Nat → List Byte → Option Nat
  | 0, _, _ => none
  | fuel + 1, st, bs =>
    let e := readStation (leNat (bs.take 4))
    if e.self && e.slot % 32 == p then some st else selfIn p fuel (st + 1) (bs.drop 4)

/-- Looks through the pages of the station table from a page on. -/
def ownFrom (s : State) (c p : Nat) : Nat → Nat → FRes (Option Nat)
  | 0, _ => .ok none s
  | fuel + 1, page =>
    (FRes.ofRes (s.devLoad c (s.stationVa c (1024 * page)) 4096 4 p false)).andThen fun bs s =>
      match selfIn p 1024 (1024 * page) bs with
      | some st => .ok (some st) s
      | none => ownFrom s c p fuel (page + 1)

/-- A processor's own station id in a context (R234). DESIGN CHOICE (log 34): of a station table that reaches 2^57 the entries there are read
by the low 57 bits of their addresses. -/
def ownStation (s : State) (c p : Nat) : FRes (Option Nat) := s.ownFrom c p 64 0

/-- Reads a station's entry for a processor (R233). DESIGN CHOICE (log 34): an entry at or above 2^57 lies outside the global window, which ends
a send with status 8 and leaves an arrival unanswered (R382). -/
def stationOf (s : State) (c p st : Nat) : FRes Station :=
  let va := s.stationVa c st
  if 2 ^ 57 ≤ va then .stop 8 s
  else (FRes.ofRes (s.devLoad c va 4 4 p false)).andThen fun bs s => .ok (readStation (leNat bs)) s

/-! ## Retained sends and folds (R241, R267) -/

/-- The processor that keeps a retained send, with the send. -/
def retainedOf (s : State) (serial : Nat) : Option (Nat × Retained) :=
  s.fabs.findSome? fun e => (e.2.retained.find? fun r => r.serial == serial).map fun r => (e.1, r)

/-- A retained send is answered: its slot may end now. -/
def dropRetained (s : State) (p : Nat) (r : Retained) : State :=
  let s := s.onFab p fun f => { f with retained := f.retained.filter fun q => q.serial != r.serial }
  s.onFSlot p r.slot fun x => if x.wait = .send ∨ x.wait = .memory then { x with wait := .ready } else x

/-- A fold is due: it falls between two instructions of its slot, and waits for its page (R256, R267). -/
def dueFold (s : State) (p : Nat) (r : Retained) (unconfirmed : Bool) : State :=
  s.onFab p fun f => { f with retained := f.retained.map fun q =>
    if q.serial = r.serial then { q with folding := some unconfirmed } else q }

/-- The invalid codes of a payload are reported: a record for each, and INVCODE (R191, R224). -/
def reportCodes (s : State) (p i : Nat) (x : FSlot) (addr : W64) (code : PayCode) (bs : List Byte) : State :=
  let bad := (blocksOf code.blockBytes bs (bs.length / code.blockBytes)).countP (blockInvalid code)
  if bad = 0 then s
  else ((span 0 bad).foldl (fun s _ => s.errorRecord x.ctx 0x08 0 0 addr x.coll.toNat p) s).onFSlot p i fun x =>
    { x with flags := x.flags ||| 16 }

/-- Whether a fold's region does not lie in the global window, or is not aligned: an access that ends the collective (R382). -/
def foldBad (r : Retained) : Bool :=
  2 ^ 57 < r.residual.toNat + 4 * (decodePayload r.code r.scale r.payload).length || r.residual.toNat % 4 != 0

/-- The packet's values go back into the region that encoded it (R241, R267), between two instructions of the slot; a page under fault
leaves the fold due, and so does a region outside the global window, which ends the collective in the slot's turn (R382). -/
def foldRetained (s : State) (p : Nat) (r : Retained) (unconfirmed : Bool) : State :=
  match s.fslot p r.slot with
  | none => s.dropRetained p r
  | some x =>
    if x.prog != 0 && x.ending.isNone then s.dueFold p r unconfirmed
    else
      let vals := decodePayload r.code r.scale r.payload
      match s.newRequest.fabSpan x.ctx p r.residual.toNat (4 * vals.length) 4 .write with
      | .ok ps s =>
        let old := bytesWords (s.readParts x.ctx ps)
        let s := s.writeParts x.ctx (wordsBytes ((old.zip vals).map fun (a, b) => sumRne (valueOf a) b)) ps
        let s := s.reportCodes p r.slot x r.residual r.code r.payload
        let s := s.onFab p fun f => { f with fold := f.fold + 1 }
        (s.onFSlot p r.slot fun x => if unconfirmed then { x with flags := x.flags ||| 4 } else x).dropRetained p r
      | .wait _ s => s.dueFold p r unconfirmed
      | .stop _ s =>
        if foldBad r then
          (s.dueFold p r unconfirmed).onFSlot p r.slot fun x => { x with wait := if x.wait = .switchedOut then x.wait else .ready }
        else s.dropRetained p r

/-- The folds that are due for a slot are tried. -/
def foldSlot (s : State) (p i : Nat) : State :=
  (s.fab p).retained.foldl (fun s r =>
    match r.folding with
    | some u => if r.slot = i then s.foldRetained p r u else s
    | none => s) s

/-- Whether a fold is still due for a slot. -/
def foldsDue (s : State) (p i : Nat) : Bool := (s.fab p).retained.any fun r => r.slot == i && r.folding.isSome

/-- Whether a fold of a slot is due that cannot be made. -/
def foldsBad (s : State) (p i : Nat) : Bool := (s.fab p).retained.any fun r => r.slot == i && r.folding.isSome && foldBad r

/-- Discards the folds of a slot that cannot be made. -/
def dropBad (s : State) (p i : Nat) : State :=
  s.onFab p fun f => { f with retained := f.retained.filter fun r => !(r.slot == i && r.folding.isSome && foldBad r) }

/-- The folds that are due for the slots of a context are tried. -/
def retryFolds (s : State) (c : Nat) : State :=
  s.fabs.foldl (fun s e => e.2.slots.foldl (fun s x => if x.2.ctx = c then s.foldSlot e.1 x.1 else s) s) s

/-- An answer to a retained send by its serial (R241). -/
def answerRetained (s : State) (serial : Nat) (late : Bool) : State :=
  match s.retainedOf serial with
  | none => s
  | some (p, r) => if late then s.foldRetained p r false else s.dropRetained p r

/-! ## Sessions (R244 to R248, R485) -/

/-- Whether a session has failed or is not enabled, so that nothing can be sent through it (R248, R306). -/
def sessDead (s : State) (fd slot : Nat) : Bool := (s.session fd slot).failed || !(s.session fd slot).en

/-- The sends that are held for a session are folded (R241, R248); one that has been answered LATE before keeps its own fold. -/
def foldSession (s : State) (fd slot : Nat) : State :=
  s.fabs.foldl (fun s' e => e.2.retained.foldl (fun s' r =>
    if r.sess = some (fd, slot) then s'.foldRetained e.1 r (r.folding.getD true) else s') s') s

/-- A session fails (R248): its unsent packets are dropped, those held under R241 are folded, and slots in `fx.wait` look again. -/
def failSession (s : State) (fd slot : Nat) : State := (s.markFailed fd slot).foldSession fd slot

end State

/-- Whether something that leaves a session is an answer, which the serving processor sends of itself (R241, R485). -/
def Outgoing.isAnswer : Outgoing → Bool
  | .packet .. | .enqueue .. => false
  | .answer .. | .enqueueAnswer .. => true

namespace State

/-- Units of the fabric budget that a packet takes (R90, R91). -/
def packetUnits (pkt : Packet) : Nat := fabricUnits pkt.payload.length

/-- Whether a processor may send for a context now (R91). -/
def mayPost (s : State) (c p : Nat) : Bool := s.hasBudget c 3 p

/-- Something leaves a session whose key is fresh, when it has a key and a port whose link is up, or waits. An answer leaves at the charge of
a packet without payload, and waits for the budget too; a packet is kept until the transport has its answer (R90, R91, R244, R247). -/
def transmit (s : State) (fd slot : Nat) (o : Outgoing) : State :=
  let x := s.session fd slot
  let c := x.ctx.toNat
  let p := servingProc fd slot
  match x.key with
  | some k =>
    if (s.upPorts fd slot).isEmpty || (o.isAnswer && !s.mayPost c p) then s.onSession fd slot fun x => { x with pend := x.pend ++ [o] }
    else
      let s := match o with
        | .packet serial pkt =>
          s.onSession fd slot fun x => { x with unacked := x.unacked.filter (fun q : Nat × Packet => q.1 != serial) ++ [(serial, pkt)] }
        | .enqueue .. => s
        | .answer .. | .enqueueAnswer .. => s.charge c 3 p (fabricUnits 0)
      s.emitUnder fd slot k o
  | none => s.onSession fd slot fun x => { x with pend := x.pend ++ [o] }

/-- Sends something on a session: under the next key where the current one is spent; a session that has none fails, and one that has failed
sends nothing (R247, R248). -/
def sendOn (s : State) (fd slot : Nat) (o : Outgoing) : State :=
  let t := s.readyKey fd slot
  if t.sessDead fd slot then (if s.sessDead fd slot then t else t.foldSession fd slot) else t.transmit fd slot o

/-- Answers a packet over its session, which remembers the answer for a packet sent again (R243, R247). -/
def reply (s : State) (fd slot : Nat) (late : Bool) (pkt : Packet) : State :=
  (s.onSession fd slot fun x => { x with seen := x.seen.set pkt.psn (some late) }).sendOn fd slot (.answer late pkt)

/-- Answers an arrival: over its session, or to the local send that was looped back (R240, R247). -/
def answer (s : State) (p : Nat) (sess : Option (Nat × Nat)) (retained : Option Nat) (pkt : Packet) (late : Bool) : State :=
  let s := if late then s.countLate p else s
  match sess, retained with
  | some (fd, slot), _ => s.reply fd slot late pkt
  | none, some n => s.answerRetained n late
  | none, none => s

/-! ## Keys and the matcher (R236, R240, R399) -/

/-- The key of an arrival: COLL, BUCKET, STEP of the popped waypoint, SRC (R236). -/
def keyOf (c : Nat) (pkt : Packet) (wp : W32) : ClosedKey := ⟨c, pkt.coll, pkt.bucket, bitsAt wp.toNat 20 4, pkt.src⟩

/-- The key of a posted receive. -/
def recvKey (c : Nat) (r : Recv) : ClosedKey := ⟨c, r.coll, r.bucket, r.step, r.src⟩

/-- The open receives of a processor with a key: slot, place in its list, and serial. -/
def openFor (s : State) (p : Nat) (k : ClosedKey) : List (Nat × Nat × Nat) :=
  (s.fab p).slots.flatMap fun e =>
    if e.2.ctx != k.ctx || e.2.ending.isSome then []
    else e.2.recvs.zipIdx.filterMap fun (r, j) =>
      if r.openR && !r.met && recvKey e.2.ctx r == k then some (e.1, j, r.serial) else none

/-- The oldest of a list of receives. -/
def oldest : List (Nat × Nat × Nat) → Option (Nat × Nat × Nat)
  | [] => none
  | x :: xs =>
    match oldest xs with
    | some y => if x.2.2 ≤ y.2.2 then some x else some y
    | none => some x

/-- The action of a waypoint (R231). -/
def actionOf (wp : W32) : Nat := bitsAt wp.toNat 16 4

end State

/-- What taking an arrival comes to: taken, with a packet to forward; refused with LATE, perhaps counted as dropped; held by a
page under fault; or the collective ends with status 8 (R382). -/
inductive Taken where
  | done (s : State) (fwd : Option Packet)
  | late (drop : Bool)
  | hold (s : State)
  | ends (s : State)

namespace State

/-- Adds a payload into a receive's partial buffer (R262): the lower station's value is the first operand. -/
def takeAdd (s : State) (p i : Nat) (x : FSlot) (r : Recv) (h : Held) (code : PayCode) (n : Nat) : FRes Unit :=
  let first := h.packet.chunk.toNat * code.slotElems
  (s.fabSpan x.ctx p (r.buf.toNat + 4 * first) (4 * n) 4 .write).andThen fun ps s =>
    let old := bytesWords (s.readParts x.ctx ps)
    let bs := h.packet.payload.take h.packet.len.toNat
    let vals := decodePayload code x.scale bs
    let sums := (old.zip vals).map fun (a, v) => if h.packet.src.toNat < x.station.toNat then sumRne v (valueOf a) else sumRne (valueOf a) v
    let s := s.reportCodes p i x r.buf code bs
    let s := s.writeParts x.ctx (wordsBytes sums) ps
    .ok () (s.onFSlot p i fun x => x.countSums (!bitAt h.wp.toNat 24) sums)

/-- The bytes that a receive has taken, and those of its segment's image (R398). -/
def takenBytes (r : Recv) : Nat := (r.taken.map (·.2)).sum
def needBytes (r : Recv) : Nat := r.count / 32 * r.code.blockBytes

/-- A receive has taken a chunk: it is met with its last byte (R398, R399). -/
def markTaken (s : State) (p i j : Nat) (r : Recv) (chunk len : Nat) (signals : Bool) : State :=
  let r' := { r with taken := r.taken ++ [(chunk, len)], signals := r.signals || signals }
  let met := needBytes r' ≤ takenBytes r'
  s.onFSlot p i fun x =>
    { x with recvs := x.recvs.set j { r' with met := met },
             contrib := if met then x.contrib ||| BitVec.twoPow 32 r.step else x.contrib,
             wait := if met ∧ x.wait = .receive then .ready else x.wait }

/-- Whether an arrival brings about the signal of its receive: it meets the byte count, and it or an earlier packet is a
deliver-and-signal (R232, R398). -/
def signalsNow (r : Recv) (h : Held) : Bool :=
  (actionOf h.wp == 4 || r.signals) && needBytes r ≤ takenBytes r + h.packet.len.toNat

/-- The `cinc` of a deliver-and-signal whose receive is met (R232, R398). -/
def signalFor (s : State) (p : Nat) (x : FSlot) (r : Recv) (h : Held) : FRes Unit :=
  match r.sig with
  | some ctr => if signalsNow r h then FRes.ofRes (s.cincFor ⟨x.ctx, p, 0, x.coll.toNat⟩ ctr 1 4 p) else .ok () s
  | none => .ok () s

/-- Whether the counter that a receive may signal is reachable now, so that the buffer writes and the signal go together. -/
def signalReady (s : State) (p : Nat) (x : FSlot) (r : Recv) (h : Held) : FRes Unit :=
  match r.sig with
  | some ctr =>
    if signalsNow r h then (FRes.ofRes (s.devPage x.ctx ctr.toNat 0 .write 4 p true)).andThen fun _ s => .ok () s
    else .ok () s
  | none => .ok () s

/-- A receive takes an arrival (R232, R262, R399). -/
def take (s : State) (p i j : Nat) (x : FSlot) (r : Recv) (h : Held) : Taken :=
  match PayCode.ofNat? h.packet.code.toNat with
  | none => .late true
  | some code =>
    let act := actionOf h.wp
    let len := h.packet.len.toNat
    let n := len / code.blockBytes * 32
    let chunk := h.packet.chunk.toNat
    if (act == 1 || act == 2) == r.deliver || r.count < chunk * code.slotElems + n then .late true
    else if r.taken.any fun e => e.1 == chunk then .late false
    else
      let s := s.newRequest
      let res : FRes Unit :=
        if r.deliver then
          (s.signalReady p x r h).andThen fun _ s =>
          (s.fabSpan x.ctx p (r.buf.toNat + 4096 * chunk) len 1 .write).andThen fun ps s =>
            (s.writeParts x.ctx (h.packet.payload.take len) ps).signalFor p x r h
        else s.takeAdd p i x r h code n
      match res with
      | .ok _ s => .done (s.markTaken p i j r chunk len (act == 4)) (if act = 5 ∧ h.packet.nwp ≠ 0 then some h.packet else none)
      | .wait _ s => .hold s
      | .stop st s => if st = 8 then .ends s else .hold s

/-- A key closes on a processor: packets held for it are answered LATE (R240). -/
def closeKey (s : State) (c p : Nat) (k : ClosedKey) : State :=
  let s := s.onFab p fun f => { f with closed := if f.closed.contains k then f.closed else f.closed ++ [k] }
  let hs := (s.ctx c).held.filter fun h => h.proc == p && keyOf c h.packet h.wp == k
  let s := s.onCtx c fun y => { y with held := y.held.filter fun h => !(h.proc == p && keyOf c h.packet h.wp == k) }
  hs.foldl (fun s h => s.answer p h.sess h.retained h.packet true) s

/-! ## The end of a collective (R388) -/

/-- Withdraws the open receives of a slot and closes their keys (R388 step 1). -/
def withdraw (s : State) (p i : Nat) : State :=
  match s.fslot p i with
  | none => s
  | some x =>
    let keys := (x.recvs.filter fun r => r.openR && !r.met).map (recvKey x.ctx)
    let s := s.setFSlot p i { x with recvs := [] }
    keys.foldl (fun s k => s.closeKey x.ctx p k) s

/-- The address of a residual-table entry (R251). -/
def residVa (s : State) (c id : Nat) : Nat := (s.ctx c).resid.toNat / 4096 * 4096 + 16 * id

/-- Releases the objects that a slot holds (R253, R388 step 3). -/
def releaseObjs (s : State) (p i c : Nat) : List HeldObj → FRes Unit
  | [] => .ok () s
  | o :: os =>
    (s.fabSpan c p (s.residVa c o.id) 16 16 .write).andThen fun ps s =>
      let e := leNat (s.readParts c ps)
      let s := s.writeParts c (natLe 16 (putBits e 97 1 0)) ps
      (s.onFSlot p i fun x => { x with objs := os }).releaseObjs p i c os

/-- Frees a slot. -/
def freeFSlot (s : State) (p i : Nat) : State :=
  s.onFab p fun f => { f with slots := f.slots.erase i, retained := f.retained.filter fun r => r.slot != i }

/-- Whether a slot stands still because its context does not run (R249, R250): while the context is switched out, between two instructions,
an `fx.end` under way being none; anywhere once the context ends. -/
def slotStopped (s : State) (x : FSlot) : Bool :=
  let st := (s.ctx x.ctx).state
  st != 1 && ((x.prog == 0 && x.ending.isNone) || (st != 2 && st != 3))

/-- A slot waits; its count starts again when the reason changes (R292). -/
def waitFSlot (s : State) (p i : Nat) (w : SlotWait) : State :=
  s.onFSlot p i fun x => { x with wait := w, waited := w, waitCount := if x.waited = w then x.waitCount else 0 }

/-- Goes on with the end of a collective, once its folds have been made: its objects, then its completion record (R253, R388). -/
def closeSlot (s : State) (p i st : Nat) (x : FSlot) : State :=
  match s.newRequest.releaseObjs p i x.ctx x.objs with
  | .wait w s => s.waitFSlot p i w
  | .stop _ s => s.freeFSlot p i
  | .ok _ s =>
    match FRes.ofRes (s.writeCompletion x.ctx x.comp.toNat 4 p (completionBytes st x.flags x.contrib x.omits x.hist)) with
    | .wait w s => s.waitFSlot p i w
    | .stop _ s => s.freeFSlot p i
    | .ok _ s => s.freeFSlot p i

/-- Goes on with the end of a collective: its retained sends with the folds that are due, its objects, its completion record (R241, R253,
R388). A fold that cannot be made turns a good end into one with status 8 (R382). -/
def finishSlot (s : State) (p i : Nat) : State :=
  let s := s.foldSlot p i
  let s := if s.foldsBad p i then
      (s.dropBad p i).onFSlot p i fun x => { x with ending := x.ending.map fun st => if st = 0 then 8 else st }
    else s
  match s.fslot p i with
  | none => s
  | some x =>
    match x.ending with
    | none => s
    | some st =>
      if s.foldsDue p i then s.waitFSlot p i .memory
      else if st = 0 && (s.fab p).retained.any (fun r => r.slot == i) then s.waitFSlot p i .send
      else s.closeSlot p i st x

/-- A collective ends with a status (R388): on an error its retained sends are discarded, except those whose fold is due. -/
def beginEnd (s : State) (p i st : Nat) : State :=
  let s := s.withdraw p i
  let s := if st = 0 then s else s.onFab p fun f =>
    { f with retained := f.retained.filter fun r => r.slot != i || r.folding.isSome }
  (s.onFSlot p i fun x => { x with ending := some st }).finishSlot p i

/-- The deadline of an open receive has passed (R239, R240): the receive closes under quorum, and else its collective ends. -/
def lapse (s : State) (p i j : Nat) : State :=
  match s.fslot p i with
  | none => s
  | some x =>
    match x.recvs[j]? with
    | none => s
    | some r =>
      if r.met || !r.openR || x.ending.isSome || !(r.deadline.any fun d => d < s.cycle) then s
      else if x.quorum then
        let s := s.setFSlot p i { x with
          recvs := x.recvs.set j { r with openR := false }, omits := x.omits ||| BitVec.twoPow 32 r.step,
          flags := x.flags ||| 2, wait := if x.wait = .receive then .ready else x.wait }
        s.closeKey x.ctx p (recvKey x.ctx r)
      else s.beginEnd p i 1

/-- The open receives of a slot whose deadline has passed are closed, or end its collective (R240). -/
def lapseSlot (s : State) (p i : Nat) (x : FSlot) : State := (span 0 x.recvs.length).foldl (fun s j => s.lapse p i j) s

/-- The open receives of a key whose deadline has passed are closed, or end their collectives (R240). -/
def lapseKey (s : State) (p : Nat) (k : ClosedKey) : State := (s.openFor p k).foldl (fun s e => s.lapse p e.1 e.2.1) s

/-! ## Arrivals (R232, R235 to R237) -/

/-- The arrivals that a context may still hold (R235). -/
def caravRoom (s : State) (c : Nat) : Bool := (s.ctx c).held.length < bitsAt (s.ctx c).caravsz.toNat 0 24

/-- What an arrival comes to: handled, with packets to forward, or not acknowledged. -/
inductive Arrived where
  | done (s : State) (fwds : List Fwd)
  | refused (s : State)

/-- Charges the writing, or the reading, of a held arrival in the caravanserai (R90, R235). DESIGN CHOICE (log 10): it lies in the granule
of its place among those held. -/
def chargeHeld (s : State) (c place : Nat) (pkt : Packet) : State :=
  s.chargeRegion c ((s.ctx c).carav.toNat / 4096 * 4096 + 4096 * place) (packetUnits pkt)

/-- Holds an arrival in the caravanserai, or refuses it for want of room (R235 to R237). -/
def holdArrival (s : State) (h : Held) (c : Nat) : Arrived :=
  if s.caravRoom c then
    .done ((s.chargeHeld c (s.ctx c).held.length h.packet).onCtx c fun x => { x with held := x.held ++ [h] }) []
  else .refused (s.countRefuse h.proc)

/-- Matches an arrival (R236, R240, R249): LATE for a closed key, else to the oldest receive, behind what is already held. -/
def matchHeld (s : State) (c : Nat) (h : Held) : Arrived :=
  let k := keyOf c h.packet h.wp
  let s := s.lapseKey h.proc k
  if (s.fab h.proc).closed.contains k then .done (s.answer h.proc h.sess h.retained h.packet true) []
  else if (s.ctx c).state != 1 || (s.ctx c).held.any (fun q => q.proc == h.proc && keyOf c q.packet q.wp == k) then
    s.holdArrival h c
  else match oldest (s.openFor h.proc k) with
    | none => s.holdArrival h c
    | some (i, j, _) =>
      match s.fslot h.proc i with
      | none => s.holdArrival h c
      | some x =>
        match x.recvs[j]? with
        | none => s.holdArrival h c
        | some r =>
          match s.take h.proc i j x r h with
          | .late drop =>
            let s := if drop then s.countDrop h.proc else s
            .done (s.answer h.proc h.sess h.retained h.packet true) []
          | .hold s => s.holdArrival h c
          | .ends s =>
            .done ((s.beginEnd h.proc i 8).answer h.proc h.sess h.retained h.packet true) []
          | .done s fwd =>
            .done (s.answer h.proc h.sess h.retained h.packet false) (fwd.toList.map fun q => ⟨h.proc, q, none⟩)

/-- Whether a packet's header is well formed (R230 to R232). -/
def headerOk (pkt : Packet) : Bool :=
  let w := pkt.wps.getD 0 0
  1 ≤ pkt.nwp.toNat && pkt.nwp.toNat ≤ 8 && actionOf w ≤ 5 && pkt.wps.all (fun w => w.toNat < 2 ^ 25) && pkt.tail == 0 &&
    1 ≤ pkt.len.toNat && pkt.len.toNat ≤ 4096 &&
    pkt.payload.length == pkt.len.toNat &&
    match PayCode.ofNat? pkt.code.toNat with
    | none => false
    | some c => pkt.len.toNat % c.blockBytes == 0

/-- The popped packet (R232). -/
def popped (pkt : Packet) : Packet := { pkt with wps := pkt.wps.drop 1 ++ [0], nwp := pkt.nwp - 1 }

/-- An arrival at a processor (R232): checked, popped, and acted on. -/
def arriveAt (s : State) (c p : Nat) (pkt : Packet) (sess : Option (Nat × Nat)) (retained : Option Nat) : Arrived :=
  let w := pkt.wps.getD 0 0
  match s.ownStation c p with
  | .wait _ s => .refused s
  | .stop _ s => .refused s
  | .ok own s =>
    let q := popped pkt
    if own != some (bitsAt w.toNat 0 16) || !headerOk pkt then
      .done ((s.countDrop p).answer p sess retained q false) []
    else if actionOf w = 0 then
      if q.nwp = 0 then .done ((s.countDrop p).answer p sess retained q false) []
      else .done (s.answer p sess retained q false) [⟨p, q, none⟩]
    else s.matchHeld c ⟨p, q, w, sess, retained⟩

/-- Puts a packet that cannot go on now among those that wait inside the module. -/
def stall (s : State) (c : Nat) (f : Fwd) : State := s.onCtx c fun x => { x with fwds := x.fwds ++ [f] }

/-- Sends packets on their way from their processors (R232 to R234): through sessions, or looped back as arrivals. DESIGN CHOICE (log 36):
one whose station's session has failed, is disabled or has no key left is dropped and counted as for a station without a session. The first
argument bounds the hops. -/
def pump : Nat → State → Nat → List Fwd → State
  | 0, s, _, _ => s
  | _, s, _, [] => s
  | fuel + 1, s, c, f :: fs =>
    match s.stationOf c f.proc (bitsAt (f.packet.wps.getD 0 0).toNat 0 16) with
    | .wait _ s => pump fuel (s.stall c f) c fs
    | .stop _ s => pump fuel (s.countDrop f.proc) c fs
    | .ok e s =>
      if !e.clean || !(e.valid || e.self) then pump fuel (s.countDrop f.proc) c fs
      else if e.self then
        match s.arriveAt c (e.slot % 32) f.packet none f.retained with
        | .done s more => pump fuel s c (fs ++ more)
        | .refused s => pump fuel (s.stall c f) c fs
      else if s.sessDead e.fd e.slot then pump fuel (s.countDrop f.proc) c fs
      else if !s.mayPost c f.proc then pump fuel (s.stall c f) c fs
      else
        let s := (s.bump.charge c 3 f.proc (packetUnits f.packet)).sendOn e.fd e.slot (.packet s.serial f.packet)
        pump fuel (if s.sessDead e.fd e.slot then s.countDrop f.proc else s) c fs

/-- Sends packets on their way. -/
def pumpAll (s : State) (c : Nat) (fs : List Fwd) : State := pump (16 * fs.length + 16) s c fs

/-- The packets that wait inside the module are tried again. -/
def retryFwds (s : State) (c : Nat) : State :=
  let fs := (s.ctx c).fwds
  (s.onCtx c fun x => { x with fwds := [] }).pumpAll c fs

/-- A posted receive takes the held packets of its key, in arrival order, until it is met (R236). -/
def feedList (s : State) (c p i j : Nat) : List Held → List Fwd → State × List Fwd
  | [], fs => (s, fs)
  | h :: hs, fs =>
    match (s.fslot p i).bind fun x => (x.recvs[j]?).map fun r => (x, r) with
    | none => (s, fs)
    | some (x, r) =>
      if r.met || !r.openR then (s, fs)
      else
        let gone (s : State) :=
          (s.chargeHeld c ((s.ctx c).held.idxOf h) h.packet).onCtx c fun y => { y with held := y.held.erase h }
        match s.take p i j x r h with
        | .late drop =>
          let s := if drop then s.countDrop p else s
          feedList ((gone s).answer p h.sess h.retained h.packet true) c p i j hs fs
        | .hold s => (s, fs)
        | .ends s => (s.beginEnd p i 8, fs)
        | .done s fwd =>
          feedList ((gone s).answer p h.sess h.retained h.packet false) c p i j hs
            (fs ++ fwd.toList.map fun q => ⟨p, q, none⟩)

/-- Feeds one receive of a context that is resident. -/
def feed (s : State) (c p i j : Nat) : State :=
  let s := if (s.ctx c).state = 1 then s.lapse p i j else s
  match (s.fslot p i).bind fun x => x.recvs[j]? with
  | none => s
  | some r =>
    if (s.ctx c).state != 1 then s
    else
      let k := recvKey c r
      let hs := (s.ctx c).held.filter fun h => h.proc == p && keyOf c h.packet h.wp == k
      let (s, fs) := s.feedList c p i j hs []
      s.pumpAll c fs

/-- Every open receive of a context on a processor, oldest first by insertion. -/
def insertOpen (x : Nat × Nat × Nat) : List (Nat × Nat × Nat) → List (Nat × Nat × Nat)
  | [] => [x]
  | y :: ys => if x.2.2 ≤ y.2.2 then x :: y :: ys else y :: insertOpen x ys

/-- The receives of a context are re-posted in posting order (R249), and what waits inside the module goes on. -/
def feedAll (s : State) (c : Nat) : State :=
  (s.fabs.foldl (fun s' e =>
    let open_ := e.2.slots.flatMap fun y =>
      if y.2.ctx != c then [] else y.2.recvs.zipIdx.map fun (r, j) => (y.1, j, r.serial)
    (open_.foldr insertOpen []).foldl (fun s' x => s'.feed c e.1 x.1 x.2.1) s') s).retryFwds c

end State

end Sys2Proof.Machine
end

