-- ==== Sys2Proof/Machine/Akpor.lean ====
section
/-! DEFINITION. The Akpor instructions (R382 to R407): each acts for the slot in the issue position. An instruction over an array does
one block, batch or packet a turn, and stays at its address until the last. -/

namespace Sys2Proof.Machine

/-- A register of a slot; f0 reads as zero (R217). -/
def FSlot.f (x : FSlot) (r : FReg) : W64 := if r = 0 then 0 else x.regs.get r.toNat 0

/-- Writes a register of a slot; a write to f0 is ignored (R217). -/
def FSlot.setF (x : FSlot) (r : FReg) (v : W64) : FSlot := if r = 0 then x else { x with regs := x.regs.set r.toNat v }

namespace State

/-- Changes the slot in the issue position. -/
def onCur (s : State) (f : FSlot → FSlot) : State := s.onFSlot s.iss.proc s.iss.slot f

/-- What an instruction comes to: the slot goes on, stays at it, waits, or its collective ends (R382). -/
def fxSettle : FRes Bool → State
  | .ok true s => s.onCur fun x =>
      { x with pc := s.iss.fnext, prog := 0, wait := .ready, waited := .ready, waitCount := 0 }
  | .ok false s => s.onCur fun x => { x with prog := x.prog + 1, wait := .ready, waited := .ready, waitCount := 0 }
  | .wait w s => s.waitFSlot s.iss.proc s.iss.slot w
  | .stop st s => s.beginEnd s.iss.proc s.iss.slot st

end State

/-- Executes an instruction of the slot in the issue position. -/
def fxIssue (s : State) (k : FSlot → State → FRes Bool) : Host.Outcome State Fault Refusal :=
  match s.fslot s.iss.proc s.iss.slot with
  | none => .fault .noSlot
  | some x => .next (State.fxSettle (k x s))

/-- An instruction that only changes its slot. -/
def fxTo (s : State) (f : FSlot → FSlot) : Host.Outcome State Fault Refusal :=
  fxIssue s fun x s => .ok true (s.setFSlot s.iss.proc s.iss.slot (f x))

/-- An instruction that changes its slot unless its operands end the collective with status 4. -/
def fxIf (s : State) (ok : FSlot → Bool) (f : FSlot → FSlot) : Host.Outcome State Fault Refusal :=
  fxIssue s fun x s => if ok x then .ok true (s.setFSlot s.iss.proc s.iss.slot (f x)) else .stop 4 s

/-! ## Scalar instructions and transfers -/

/-- `fx.li` (R393). -/
def execFxLi (h : Bool) (d a : FReg) (imm : W32) (s : State) : Host.Outcome State Fault Refusal :=
  fxTo s fun x => x.setF d (if h then pairOf (loHalf (x.f a)) imm else x.f a + sext64 imm)

/-- The bytes of a width (R392). -/
def fxBytes : FxWidth → Nat
  | .d => 8 | .w => 4 | .h => 2 | .b => 1

/-- `fx.ld` (R392). -/
def execFxLd (width : FxWidth) (d a : FReg) (imm : W32) (s : State) : Host.Outcome State Fault Refusal :=
  fxIssue s fun x s =>
    let n := fxBytes width
    (s.fabSpan x.ctx s.iss.proc (x.f a + sext64 imm).toNat n n .read).andThen fun ps s =>
      .ok true (s.onCur fun x => x.setF d (BitVec.ofNat 64 (leNat (s.readParts x.ctx ps))))

/-- `fx.st` (R392). -/
def execFxSt (width : FxWidth) (d a : FReg) (imm : W32) (s : State) : Host.Outcome State Fault Refusal :=
  fxIssue s fun x s =>
    let n := fxBytes width
    (s.fabSpan x.ctx s.iss.proc (x.f a + sext64 imm).toNat n n .write).andThen fun ps s =>
      .ok true (s.writeParts x.ctx (natLe n (x.f d).toNat) ps)

/-- The sums of `fx.add` (R384). -/
def fxSum (form : FxAddForm) (a b : W64) : W64 :=
  match form with
  | .half => pairOf (addRne (loHalf a) (hiHalf b)) 0
  | .int => a + b
  | .pair => pairOf (addRne (loHalf a) (loHalf b)) (addRne (hiHalf a) (hiHalf b))

/-- `fx.add` (R384). -/
def execFxAdd (form : FxAddForm) (d a b : FReg) (s : State) : Host.Outcome State Fault Refusal :=
  fxTo s fun x => x.setF d (fxSum form (x.f a) (x.f b))

/-- The condition code of a comparison (R386). -/
def fxCompare (sgn : Bool) (a b : W64) : BitVec 2 :=
  if a = b then 0 else if (if sgn then a.slt b else a.ult b) then 1 else 2

/-- `fx.cmp` (R386). -/
def execFxCmp (sgn : Bool) (a b : FReg) (s : State) : Host.Outcome State Fault Refusal :=
  fxTo s fun x => { x with cc := fxCompare sgn (x.f a) (x.f b) }

/-- The length of the image that a slot runs (R218). -/
def State.fxLen (s : State) (p : Nat) (x : FSlot) : Nat := (((s.fab p).images.find? x.image).map (·.len)).getD 0

/-- Transfers to an absolute index; at or past LEN it ends the collective (R332, R385). -/
def fxGoto (target : W32) (x : FSlot) (s : State) : FRes Bool :=
  if s.fxLen s.iss.proc x ≤ target.toNat then .stop 4 s
  else .ok true { s with iss := { s.iss with fnext := target.toNat } }

/-- `fx.br` (R385). -/
def execFxBr (target : W32) (s : State) : Host.Outcome State Fault Refusal := fxIssue s (fxGoto target)

/-- Whether a condition holds of a condition code (R385). -/
def fxHolds (cc : FxCond) (x : BitVec 2) : Bool :=
  match cc with
  | .eq => x == 0 | .ne => x == 1 || x == 2 | .lt => x == 1 | .ge => x == 0 || x == 2 | .gt => x == 2 | .le => x == 0 || x == 1

/-- `fx.bcc` (R385). -/
def execFxBcc (cc : FxCond) (target : W32) (s : State) : Host.Outcome State Fault Refusal :=
  fxIssue s fun x s => if fxHolds cc x.cc then fxGoto target x s else .ok true s

/-- `fx.loop` (R394). -/
def execFxLoop (a : FReg) (target : W32) (s : State) : Host.Outcome State Fault Refusal :=
  fxIssue s fun x s =>
    let v := x.f a - 1
    let s := s.onCur fun x => x.setF a v
    if v = 0 then .ok true s else fxGoto target x s

/-- `fx.end` (R388). -/
def execFxEnd (s : State) : Host.Outcome State Fault Refusal := fxIssue s fun _ s => .stop 0 s

/-! ## The settings of a slot -/

/-- The value of an operand and an unsigned immediate (R387, R402, R405). -/
def fxSumImm (x : FSlot) (a : FReg) (imm : W32) : Nat := (x.f a + imm.zeroExtend 64).toNat

/-- `fx.deadline` (R387). -/
def execFxDeadline (a : FReg) (imm : W32) (s : State) : Host.Outcome State Fault Refusal :=
  fxIf s (fun x => fxSumImm x a imm ≤ 60000000) fun x => { x with deadline := fxSumImm x a imm }

/-- `fx.quorum` (R397). -/
def execFxQuorum (off : Bool) (s : State) : Host.Outcome State Fault Refusal := fxTo s fun x => { x with quorum := !off }

/-- `fx.hist` (R390). -/
def execFxHist (off : Bool) (s : State) : Host.Outcome State Fault Refusal := fxTo s fun x => { x with histOn := !off }

/-- `fx.scale` (R402). -/
def execFxScale (a : FReg) (imm : W32) (s : State) : Host.Outcome State Fault Refusal :=
  fxIf s (fun x => fxSumImm x a imm ≤ 254) fun x => { x with scale := BitVec.ofNat 8 (fxSumImm x a imm) }

/-- The itinerary after `fx.itin` (R391). -/
def FSlot.setItin (x : FSlot) (j : Nat) (clr : Bool) (w : W32) : FSlot :=
  let y := if clr then { x with wps := [], nwp := 0 } else x
  { y with wps := y.wps.set j w, nwp := max y.nwp (j + 1) }

/-- `fx.itin` (R391). -/
def execFxItin (j : BitVec 3) (clr : Bool) (a : FReg) (imm : W32) (s : State) : Host.Outcome State Fault Refusal :=
  fxTo s fun x => x.setItin j.toNat clr (BitVec.ofNat 32 (fxSumImm x a imm))

/-- `fx.step` (R405). -/
def execFxStep (a : FReg) (imm : W32) (s : State) : Host.Outcome State Fault Refusal :=
  fxIf s (fun x => fxSumImm x a imm < 2 ^ 23 && bitsAt (fxSumImm x a imm) 20 3 ≤ 4) fun x =>
    let v := fxSumImm x a imm
    { x with bucket := BitVec.ofNat 16 v, step := BitVec.ofNat 4 (v / 2 ^ 16),
             code := (PayCode.ofNat? (bitsAt v 20 3)).getD .fp32 }

/-! ## Sends (R389, R403) -/

/-- The count of an array instruction: a multiple of 32 from 32 to 2^30 (R389, R396, R403). -/
def fxCount (v : W64) : Option Nat :=
  if v.toNat % 32 = 0 ∧ 32 ≤ v.toNat ∧ v.toNat ≤ 2 ^ 30 then some v.toNat else none

/-- The waypoints of a slot, W0 to W7. -/
def FSlot.waypoints (x : FSlot) : List W32 := (span 0 8).map fun j => x.wps.get j 0

/-- Whether a slot's itinerary can be sent (R391, R403). -/
def FSlot.itinOk (x : FSlot) : Bool :=
  1 ≤ x.nwp && x.waypoints.all fun w => State.actionOf w ≤ 5 && w.toNat < 2 ^ 25

/-- Whether an itinerary adds somewhere (R403). -/
def FSlot.adds (x : FSlot) : Bool :=
  (x.waypoints.take x.nwp).any fun w => State.actionOf w == 1 || State.actionOf w == 2

/-- A packet of a slot (R403). DESIGN CHOICE (log 51): CHUNK holds the chunk number modulo 2^16, which R230 and R257 leave open above 65,535. -/
def FSlot.packet (x : FSlot) (chunk : Nat) (payload : List Byte) : Packet :=
  { coll := x.coll, bucket := x.bucket, chunk := BitVec.ofNat 16 chunk, src := x.station, nwp := BitVec.ofNat 8 x.nwp,
    code := BitVec.ofNat 8 x.code.toNat, len := BitVec.ofNat 16 payload.length, wps := x.waypoints, tail := 0,
    payload := payload, unsupported := false, keyBit := false, psn := 0 }

/-- The bound residual region for a number of elements: its first address (R254). -/
def FSlot.region (x : FSlot) (n : Nat) : Option Nat :=
  match x.resid with
  | none => none
  | some (id, r0) =>
    match x.objs.find? fun o => o.id == id with
    | some o => if r0 + n ≤ o.nelem then some (o.addr.toNat + 4 * r0) else none
    | none => none

namespace State

/-- Sends a packet of a slot through W0's station (R233, R234, R241): a station without a session ends the collective. While a packet is
looped back the slot stands inside its instruction, so that a LATE answer leaves its fold due (R267). DEDUCED (log 16): the units are
charged to the processor on which the collective runs, a charging point of R91, also where the ports of another one serve the session
(R485). -/
def sendFrom (s : State) (p i : Nat) (x : FSlot) (pkt : Packet) (residual : Option Nat) : FRes Unit :=
  (s.stationOf x.ctx p (bitsAt (pkt.wps.getD 0 0).toNat 0 16)).andThen fun e s =>
    if !e.clean || !(e.valid || e.self) || (!e.self && s.sessDead e.fd e.slot) then .stop 6 s
    else if !e.self && !s.mayPost x.ctx p then .wait .budget s
    else
      let n := s.serial
      let keep (sess : Option (Nat × Nat)) (s : State) : State := match residual with
        | none => s
        | some va => s.onFab p fun f => { f with retained := f.retained ++
            [⟨n, i, sess, BitVec.ofNat 64 (va + 4 * (x.prog * x.code.slotElems)), x.code, x.scale, x.prog, pkt.payload, none⟩] }
      if e.self then
        let s := (keep none s.bump).onFSlot p i fun y => { y with prog := x.prog + 1 }
        .ok () ((s.pumpAll x.ctx [⟨p, pkt, residual.map fun _ => n⟩]).onFSlot p i fun y => { y with prog := x.prog })
      else
        let s := ((keep (some (e.fd, e.slot)) s.bump).charge x.ctx 3 p (packetUnits pkt)).sendOn e.fd e.slot (.packet n pkt)
        if s.sessDead e.fd e.slot then .stop 6 s else .ok () s

end State

/-- `fx.send` (R403): one chunk slot of the image a turn. -/
def execFxSend (a b : FReg) (s : State) : Host.Outcome State Fault Refusal :=
  fxIssue s fun x s =>
    let p := s.iss.proc
    match fxCount (x.f b) with
    | none => .stop 4 s
    | some n =>
      if !x.itinOk || State.actionOf (x.wps.get 0 0) = 5 then .stop 4 s
      else if x.adds && (x.region n).isNone then .stop 7 s
      else if (x.f a).toNat % 64 != 0 then .stop 8 s
      else
        let blocks := min x.code.slotBlocks (n / 32 - x.prog * x.code.slotBlocks)
        (s.fabSpan x.ctx p ((x.f a).toNat + 4096 * x.prog) (blocks * x.code.blockBytes) 1 .read).andThen fun ps s =>
        (s.sendFrom p s.iss.slot x (x.packet x.prog (s.readParts x.ctx ps)) (if x.adds then x.region n else none)).andThen
          fun _ s => .ok (n / 32 ≤ (x.prog + 1) * x.code.slotBlocks) s

/-- `fx.gather` (R389): one chunk a turn. -/
def execFxGather (a b : FReg) (s : State) : Host.Outcome State Fault Refusal :=
  fxIssue s fun x s =>
    let p := s.iss.proc
    match fxCount (x.f b) with
    | none => .stop 4 s
    | some n =>
      if !x.itinOk || State.actionOf (x.wps.get 0 0) != 5 || 1 < x.code.toNat then .stop 4 s
      else if (x.f a).toNat % 4 != 0 then .stop 8 s
      else
        let e := x.code.slotElems
        let m := min e (n - x.prog * e)
        (s.fabSpan x.ctx p ((x.f a).toNat + 4 * e * x.prog) (4 * m) 1 .read).andThen fun ps s =>
        let payload := encodeBlock x.code x.scale (bytesWords (s.readParts x.ctx ps))
        (s.sendFrom p s.iss.slot x (x.packet x.prog payload) none).andThen fun _ s => .ok (n ≤ (x.prog + 1) * e) s

/-! ## Receives (R395, R398, R407) -/

/-- The receive that `fx.recv` posts (R398). -/
def FSlot.newRecv (x : FSlot) (serial cycle : Nat) (dlv sig : Bool) (ctr buf v : W64) : Recv :=
  { serial := serial, coll := x.coll, bucket := x.bucket, step := x.step.toNat, src := BitVec.ofNat 16 v.toNat,
    deliver := dlv, sig := if sig then some ctr else none, buf := buf, count := bitsAt v.toNat 16 32, code := x.code,
    taken := [], met := false, openR := true,
    deadline := if x.deadline = 0 then none else some (cycle + 1250 * x.deadline), signals := false }

/-- `fx.recv` (R398): the receive takes what the caravanserai holds for it at once (R236). -/
def execFxRecv (dlv sig : Bool) (d a b : FReg) (s : State) : Host.Outcome State Fault Refusal :=
  fxIssue s fun x s =>
    let p := s.iss.proc
    let n := bitsAt (x.f b).toNat 16 32
    let buf := x.f a
    if (sig && !dlv) || (!sig && d != 0) || bitsAt (x.f b).toNat 48 16 != 0 || n % 32 != 0 || n < 32 then .stop 4 s
    else if !isGlobal buf || buf.toNat % (if dlv then 64 else 4) != 0 then .stop 8 s
    else
      let ready : FRes Unit :=
        if !sig then .ok () s
        else if !isGlobal (x.f d) || (x.f d).toNat % 8 != 0 then .stop 8 s
        else (FRes.ofRes (s.devPage x.ctx (x.f d).toNat 0 .read 4 p true)).andThen fun _ s => .ok () s
      ready.andThen fun _ s =>
        let r := x.newRecv s.serial s.cycle dlv sig (x.f d) buf (x.f b)
        let s := s.bump.onCur fun y => { y with recvs := y.recvs ++ [r] }
        .ok true (s.feed x.ctx p s.iss.slot x.recvs.length)

namespace State

/-- Whether the session of some source station has failed (R248). -/
def peersFailed (s : State) (c p : Nat) : List Nat → FRes Bool
  | [] => .ok false s
  | st :: sts =>
    (s.stationOf c p st).andThen fun e s =>
      if e.valid && !e.self && (s.session e.fd e.slot).failed then .ok true s else peersFailed s c p sts

end State

/-- `fx.wait` (R407). -/
def execFxWait (d : FReg) (k : BitVec 4) (s : State) : Host.Outcome State Fault Refusal :=
  fxIssue s fun x s =>
    let rs := x.recvs.filter fun r => r.step == k.toNat
    let waiting := rs.filter fun r => r.openR && !r.met
    if waiting.isEmpty then
      .ok true (s.setFSlot s.iss.proc s.iss.slot (x.setF d (if rs.all fun r => r.met then 1 else 0)))
    else if x.quorum then .wait .receive s
    else (s.peersFailed x.ctx s.iss.proc (waiting.map fun r => r.src.toNat)).andThen fun bad s =>
      if bad then .stop 6 s else .wait .receive s

/-- `fx.match` (R395). -/
def execFxMatch (d b : FReg) (s : State) : Host.Outcome State Fault Refusal :=
  fxIssue s fun x s =>
    let k : ClosedKey := ⟨x.ctx, x.coll, x.bucket, x.step.toNat, BitVec.ofNat 16 (x.f b).toNat⟩
    let n := (s.ctx x.ctx).held.countP fun h => h.proc == s.iss.proc && State.keyOf x.ctx h.packet h.wp == k
    .ok true (s.setFSlot s.iss.proc s.iss.slot (x.setF d (BitVec.ofNat 64 n)))

/-! ## Residual objects (R251 to R254, R401) -/

/-- The entry of an object (R252): its address, its elements, VALID and no reserved bit, and HELD. -/
def objectValid (e : Nat) : Bool :=
  let n := bitsAt e 64 32
  bitAt e 96 && bitsAt e 98 30 == 0 && bitsAt e 0 64 % 64 == 0 && n % 32 == 0 && 32 ≤ n && n ≤ 2 ^ 30

namespace State

/-- A collective names an object: on its first naming it takes hold of it in one read-modify-write (R253). -/
def nameObject (s : State) (p i : Nat) (x : FSlot) (id : Nat) : FRes HeldObj :=
  match x.objs.find? fun o => o.id == id with
  | some o => .ok o s
  | none =>
    (s.fabSpan x.ctx p (s.residVa x.ctx id) 16 16 .write).andThen fun ps s =>
      let e := leNat (s.readParts x.ctx ps)
      if !objectValid e then .stop 7 s
      else if bitAt e 97 then .wait .residual s
      else
        let o : HeldObj := ⟨id, BitVec.ofNat 64 (bitsAt e 0 64), bitsAt e 64 32⟩
        .ok o ((s.writeParts x.ctx (natLe 16 (putBits e 97 1 1)) ps).onFSlot p i fun y => { y with objs := y.objs ++ [o] })

end State

/-- `fx.resid` (R401). -/
def execFxResid (clr : Bool) (d a : FReg) (imm : W32) (s : State) : Host.Outcome State Fault Refusal :=
  fxIssue s fun x s =>
    if clr then
      if imm != 0 || a != 0 then .stop 4 s
      else .ok true (s.setFSlot s.iss.proc s.iss.slot ({ x with resid := none }.setF d 0))
    else if 4096 ≤ imm.toNat || (x.f a).toNat % 32 != 0 then .stop 7 s
    else (s.nameObject s.iss.proc s.iss.slot x imm.toNat).andThen fun o s =>
      .ok true (s.onCur fun y => { y with resid := some (o.id, (x.f a).toNat) }.setF d (BitVec.ofNat 64 o.nelem))

/-! ## Arrays (R396, R400, R406) -/

/-- The offset of a block in an encoded image (R257). -/
def blockAt (c : PayCode) (k : Nat) : Nat := 4096 * (k / c.slotBlocks) + c.blockBytes * (k % c.slotBlocks)

/-- The zero bytes after the last block of a full chunk slot (R396). -/
def slotTail (c : PayCode) (k : Nat) : Nat := if k % c.slotBlocks + 1 = c.slotBlocks then 4096 - c.blockBytes * c.slotBlocks else 0

/-- One block of a packing instruction: an error-feedback step (R192, R396). -/
def packBlock (c : PayCode) (d a b : FReg) (x : FSlot) (s : State) : FRes Bool :=
  let p := s.iss.proc
  match fxCount (x.f b) with
  | none => .stop 4 s
  | some n =>
    match x.region n with
    | none => .stop 7 s
    | some base =>
      let k := x.prog
      if (x.f a).toNat % 4 != 0 || (x.f d).toNat % 64 != 0 then .stop 8 s
      else
        (s.fabSpan x.ctx p ((x.f a).toNat + 128 * k) 128 1 .read).andThen fun pg s =>
        (s.fabSpan x.ctx p (base + 128 * k) 128 1 .write).andThen fun pr s =>
        (s.fabSpan x.ctx p ((x.f d).toNat + blockAt c k) (c.blockBytes + slotTail c k) 1 .write).andThen fun pi s =>
          let g := bytesWords (s.readParts x.ctx pg)
          let r := bytesWords (s.readParts x.ctx pr)
          let v := (g.zip r).map fun (u, w) => addRne u w
          let code := encodeBlock c x.scale v
          let r' := (v.zip (decodeValues c x.scale code)).map fun (u, w) => diffRne (valueOf u) w
          let s := (s.writeParts x.ctx (wordsBytes r') pr).writeParts x.ctx (code ++ natLe (slotTail c k) 0) pi
          let s := if c == .q8 && v.any (qClips x.scale) then s.onCur fun y => { y with flags := y.flags ||| 1 } else s
          .ok (n / 32 ≤ k + 1) s

/-- `fx.pack1`, `fx.pack3` and `fx.packq` (R396). -/
def execFxPack1 (d a b : FReg) (s : State) : Host.Outcome State Fault Refusal := fxIssue s (packBlock .s1 d a b)
def execFxPack3 (d a b : FReg) (s : State) : Host.Outcome State Fault Refusal := fxIssue s (packBlock .t3 d a b)
def execFxPackq (d a b : FReg) (s : State) : Host.Outcome State Fault Refusal := fxIssue s (packBlock .q8 d a b)

/-- `fx.unpack` (R406): one block a turn. -/
def execFxUnpack (c : PayCode) (d a b : FReg) (s : State) : Host.Outcome State Fault Refusal :=
  fxIssue s fun x s =>
    let p := s.iss.proc
    let n := (x.f b).toNat
    let k := x.prog
    if n % 32 != 0 then .stop 4 s
    else if n = 0 then .ok true s
    else if (x.f a).toNat % 64 != 0 || (x.f d).toNat % 4 != 0 then .stop 8 s
    else
      (s.fabSpan x.ctx p ((x.f a).toNat + blockAt c k) c.blockBytes 1 .read).andThen fun pi s =>
      (s.fabSpan x.ctx p ((x.f d).toNat + 128 * k) 128 1 .write).andThen fun po s =>
        let bs := s.readParts x.ctx pi
        let s := if blockInvalid c bs then
            (s.errorRecord x.ctx 0x08 0 0 (x.f a) x.coll.toNat p).onCur fun y => { y with flags := y.flags ||| 16 }
          else s
        .ok (n / 32 ≤ k + 1) (s.writeParts x.ctx (wordsBytes (decodeBlock c x.scale bs)) po)

/-- `fx.red` (R400): one batch of 64 a turn. -/
def execFxRed (nh : Bool) (d a b : FReg) (s : State) : Host.Outcome State Fault Refusal :=
  fxIssue s fun x s =>
    let p := s.iss.proc
    let n := (x.f d).toNat
    let k := x.prog
    let m := min 64 (n - 64 * k)
    if n = 0 || 2 ^ 30 < n then .stop 4 s
    else if (x.f a).toNat % 4 != 0 || (x.f b).toNat % 4 != 0 then .stop 8 s
    else
      (s.fabSpan x.ctx p ((x.f a).toNat + 256 * k) (4 * m) 1 .write).andThen fun pa s =>
      (s.fabSpan x.ctx p ((x.f b).toNat + 256 * k) (4 * m) 1 .read).andThen fun pb s =>
        let sums := ((bytesWords (s.readParts x.ctx pa)).zip (bytesWords (s.readParts x.ctx pb))).map fun (u, w) => addRne u w
        .ok (n ≤ 64 * (k + 1)) ((s.writeParts x.ctx (wordsBytes sums) pa).onCur fun y => y.countSums (!nh) sums)

/-! ## Signals (R404) -/

/-- `fx.sig` (R404). -/
def execFxSig (a b : FReg) (s : State) : Host.Outcome State Fault Refusal :=
  fxIssue s fun x s =>
    if !isGlobal (x.f a) || (x.f a).toNat % 8 != 0 then .stop 8 s
    else (FRes.ofRes (s.cincFor ⟨x.ctx, s.iss.proc, 0, x.coll.toNat⟩ (x.f a) (loHalf (x.f b)) 4 s.iss.proc)).andThen
      fun _ s => .ok true s

end Sys2Proof.Machine
end

