-- ==== Sys2Proof/Machine/Network.lean ====
section
/-! DEFINITION. Events of the fabric processors: starts and images (R218, R222, R223, R229), packets and their answers (R232, R237,
R241, R267, R485), deadlines (R239, R240), ports (R244), the watchdog of slots (R293), and remote enqueues (R87 to R89). -/

namespace Sys2Proof.Machine

namespace State

/-! ## Starts (R218, R222, R223) -/

/-- What trying a queued start comes to: used up or given a slot, held by a page or a budget and whether a firing is deferred there (R229),
or without room for now. -/
inductive Start where
  | used (s : State)
  | held (defers : Bool) (s : State)
  | later (s : State)

/-- A request that takes no slot ends with its record (R223, R234). -/
def startFails (s : State) (p : Nat) (r : StartReq) (status : Nat) : Start :=
  match s.writeCompletion r.ctx r.comp.toNat 4 p (completionBytes status 0 0 0 []) with
  | .wait w s => .held (w == .translation) s
  | .ok _ s => .used s
  | .trap _ _ _ s => .used s
  | .gone s => .used s

/-- The lowest free slot of a processor (R217). -/
def freeFSlotId (s : State) (p : Nat) : Option Nat := (span 0 16).find? fun i => (s.fslot p i).isNone

/-- The images that a running slot uses. -/
def usedImages (s : State) (p : Nat) : List Nat := (s.fab p).slots.map fun e => e.2.image

/-- The instructions of the images that meet a condition. -/
def imageWords (is : Tab Image) : Nat := (is.map fun e => e.2.len).sum

/-- The least recently started image that no slot uses. -/
def oldestIdle (used : List Nat) : Tab Image → Option (Nat × Image)
  | [] => none
  | e :: es =>
    match oldestIdle used es with
    | none => if used.contains e.1 then none else some e
    | some o => if !used.contains e.1 && e.2.started < o.2.started then some e else some o

/-- Evicts idle images until a number of instructions fits in the 8,192 of a processor (R217, R218). -/
def makeRoom (used : List Nat) (len : Nat) : Nat → Tab Image → Tab Image
  | 0, is => is
  | fuel + 1, is =>
    if imageWords is + len ≤ 8192 then is
    else match oldestIdle used is with
      | none => is
      | some o => makeRoom used len fuel (is.erase o.1)

/-- The resident image of a start, if there is one (R218). -/
def residentImage (s : State) (p : Nat) (r : StartReq) (gen : W32) : Option Nat :=
  ((s.fab p).images.filter fun e => e.2.ctx == r.ctx && e.2.addr == r.img && e.2.gen == gen).head?.map (·.1)

/-- Gives a request a slot (R222, R240, R383): its registers, and every closed key of its COLL opens. -/
def giveSlot (s : State) (p i : Nat) (r : StartReq) (st image : Nat) (loaded : Bool) : State :=
  let x : FSlot := { FSlot.start with
    ctx := r.ctx, coll := r.coll, station := BitVec.ofNat 16 st, arg := r.arg, comp := r.comp, image := image,
    regs := [(1, r.arg), (2, r.comp), (3, r.coll.zeroExtend 64), (4, BitVec.ofNat 64 st)],
    wait := if loaded then .ready else .image, waited := if loaded then .ready else .image }
  (s.setFSlot p i x).onFab p fun f => { f with closed := f.closed.filter fun k => !(k.ctx == r.ctx && k.coll == r.coll) }

/-- Takes a slot for a request whose image is resident or fits (R218). -/
def takeSlot (s : State) (p : Nat) (r : StartReq) (st len : Nat) (gen : W32) : Start :=
  match s.freeFSlotId p with
  | none => .later s
  | some i =>
    match s.residentImage p r gen with
    | some n =>
      let loaded := (((s.fab p).images.find? n).map (·.loaded)).getD false
      .used ((s.bump.onFab p fun f => { f with images := f.images.mapVals fun k x =>
        if k = n then { x with started := s.serial } else x }).giveSlot p i r st n loaded)
    | none =>
      let is := makeRoom (s.usedImages p) len (s.fab p).images.length (s.fab p).images
      if 8192 < imageWords is + len then .later s
      else
        let x : Image := { ctx := r.ctx, addr := r.img, gen := gen, len := len, code := [], started := s.serial,
                           loaded := false }
        .used ((s.bump.onFab p fun f => { f with images := is.set s.serial x }).giveSlot p i r st s.serial false)

/-- Tries one queued request (R223): a processor that no longer serves its context gives it no slot. DESIGN CHOICE (log 35): a nonzero bit in
[63:48] of the image header, which R218 reserves, ends it with status 3, as a LEN out of range does. -/
def tryStart (s : State) (p : Nat) (r : StartReq) : Start :=
  let st := (s.ctx r.ctx).state
  if st = 0 ∨ st = 4 ∨ st = 5 then .used s
  else if !s.serves r.ctx p then s.newRequest.startFails p r 2
  else match s.newRequest.devLoad r.ctx r.img.toNat 8 4 p false with
  | .wait w s => .held (w == .translation) s
  | .trap _ _ _ s => .used s
  | .gone s => .used s
  | .ok bs s =>
    let h := leNat bs
    match s.devPage r.ctx r.comp.toNat 0 .write 4 p false with
    | .wait w s => .held (w == .translation) s
    | .trap _ _ _ s => .used s
    | .gone s => .used s
    | .ok _ s =>
      let len := bitsAt h 0 16
      if bitsAt h 48 16 != 0 || len = 0 || 8191 < len then s.startFails p r 3
      else match s.ownStation r.ctx p with
        | .wait _ s => .held false s
        | .stop _ s => .used s
        | .ok none s => s.startFails p r 9
        | .ok (some own) s => s.takeSlot p r own len (BitVec.ofNat 32 (bitsAt h 16 32))

def setQueue (s : State) (p : Nat) (q : List StartReq) : State := s.onFab p fun f => { f with queue := q }

/-- Looks through a start queue for the first request that can be answered; those of a context behind a held one stay (R223). A
firing whose image, argument header or completion record meets a page under fault goes to the deferred-fire list, with the later firings of
its context behind it (R229). -/
def scanStarts (s : State) (p : Nat) (kept : List StartReq) (stuck : List Nat) : List StartReq → State
  | [] => s
  | r :: rs =>
    if stuck.contains r.ctx then s.scanStarts p (kept ++ [r]) stuck rs
    else match s.tryStart p r with
      | .used s => s.setQueue p (kept ++ rs)
      | .later s => s
      | .held defers s =>
        if r.fired && defers then
          let later (q : StartReq) := q.fired && q.ctx == r.ctx && r.order < q.order
          (r :: rs.filter later).foldl deferFire (s.setQueue p (kept ++ rs.filter fun q => !later q))
        else s.scanStarts p (kept ++ [r]) (r.ctx :: stuck) rs

/-- Requests held at their header are tried again in every context (R220). -/
def retryAllStarts (s : State) : State :=
  (s.ctxs.filter fun e => !e.2.starts.isEmpty).foldl (fun s' e => s'.retryStarts e.1) s

end State

/-- `START_REQUEST` (R223): a start request of a processor takes a slot, or ends without one. -/
def execStartRequest (proc : Nat) (s : State) : Host.Outcome State Fault Refusal :=
  .next ((s.scanStarts proc [] [] (s.fab proc).queue).wake .startQueue fun _ => true).retryAllStarts

/-- `IMAGE_LOAD_COMPLETE` (R218): the code of a slot's image has been read into program memory. -/
def execImageLoadComplete (proc slot : Nat) (s : State) : Host.Outcome State Fault Refusal :=
  match (s.fslot proc slot).bind fun x => ((s.fab proc).images.find? x.image).map fun i => (x, i) with
  | none => .next s
  | some (x, i) =>
    if i.loaded then .next s
    else match s.devSpan i.ctx (i.addr.toNat + 8) (8 * i.len) 4 proc false with
      | .ok bs s =>
        let code := (span 0 i.len).map fun k => BitVec.ofNat 64 (leNat ((bs.drop (8 * k)).take 8))
        let s := s.onFab proc fun f => { f with images := f.images.set x.image { i with code := code, loaded := true } }
        .next (s.onSlots fun p _ y =>
          if p = proc ∧ y.image = x.image ∧ y.wait = .image then { y with wait := .ready } else y)
      | .wait _ s => .next s
      | .trap _ _ _ s => .next s
      | .gone s => .next s

/-- `DEFERRED_FIRE_RELEASE` (R229): the first deferred firing of a resident context becomes a start request, behind the earlier ones that a
spent budget holds (R228). -/
def execDeferredFireRelease (ctx : Nat) (s : State) : Host.Outcome State Fault Refusal :=
  match (s.ctx ctx).deferred with
  | [] => .next s
  | r :: rs =>
    if (s.ctx ctx).state != 1 || s.behindSpent r then .next s
    else match s.newRequest.fireTo r with
      | .ok _ s => .next (s.onCtx ctx fun x => { x with deferred := rs })
      | .wait _ s => .next s
      | .trap _ _ _ s => .next (s.onCtx ctx fun x => { x with deferred := rs })
      | .gone s => .next s

/-! ## Packets (R232, R237, R241, R267, R485) -/

namespace State

/-- What waited for a key, a port or the budget is sent (R91, R244, R247). -/
def flushPend (s : State) (fd slot : Nat) : State :=
  let os := (s.session fd slot).pend
  (os.foldl (fun s o => s.sendOn fd slot o) (s.onSession fd slot fun x => { x with pend := [] })).flushOuts fd slot

/-- A session after something has arrived under one of its keys: none where it accepts no such key, or no longer (R247). -/
def underKey (s : State) (y : Session) (bit : Bool) : Option Session :=
  let x := discardOld s.cycle y
  let has (k : Option SessKey) : Bool := k.any fun k => bitAt k.epoch 0 == bit
  let fresh : Session := { x with firstNew := some (x.firstNew.getD s.cycle) }
  if has x.next then some (if x.stale then x else fresh)
  else if has x.key && !x.stale then some (if x.old.isSome then fresh else x)
  else if has x.old then some x
  else none

/-- The machine after something has arrived on a session under the key that it names: none where the session is not enabled or does not
accept that key (R247, R306). -/
def arrived (s : State) (fd slot : Nat) (bit : Bool) : Option State :=
  let x := s.session fd slot
  if x.en then (s.underKey x bit).map fun y => s.setSession fd slot y else none

/-- An arrival that no processor of the context holds (R485): dropped by the serving processor, and acknowledged. -/
def dropArrival (s : State) (fd slot : Nat) (pkt : Packet) : State :=
  (s.countDrop (servingProc fd slot)).reply fd slot false pkt

/-- Notes that the transport has taken a packet in, whether or not it has been answered (R243). -/
def noteSeen (s : State) (fd slot psn : Nat) : State :=
  s.onSession fd slot fun x => if (x.seen.find? psn).isSome then x else { x with seen := x.seen.set psn none }

/-- An arrival is passed to the processor whose station it names (R485). -/
def deliverPacket (s : State) (c fd slot : Nat) (pkt : Packet) : State :=
  let st := bitsAt (pkt.wps.getD 0 0).toNat 0 16
  match s.stationOf c (servingProc fd slot) st with
  | .wait _ s => s
  | .stop _ s => s
  | .ok e s =>
    if !e.self then s.dropArrival fd slot pkt
    else match s.ownStation c (e.slot % 32) with
      | .wait _ s => s
      | .stop _ s => s
      | .ok own s =>
        if own != some st then s.dropArrival fd slot pkt
        else match s.arriveAt c (e.slot % 32) pkt (some (fd, slot)) none with
          | .done s fs => (s.noteSeen fd slot pkt.psn).pumpAll c fs
          | .refused s => s

end State

/-- `PACKET_ARRIVAL` (R232, R243, R247, R485). A packet that the transport has taken in before is not acted on: it gets its answer again
(R243). -/
def execPacketArrival (fd slot : Nat) (pkt : Packet) (s : State) : Host.Outcome State Fault Refusal :=
  match s.arrived fd slot pkt.keyBit with
  | none => .next s
  | some s =>
    let x := s.session fd slot
    let c := x.ctx.toNat
    let st := (s.ctx c).state
    if pkt.unsupported then .next (s.countDrop (State.servingProc fd slot))
    else if st = 0 ∨ st = 4 ∨ st = 5 then .next s
    else match x.seen.find? pkt.psn with
      | some (some late) => .next (s.reply fd slot late pkt)
      | some none => .next s
      | none => .next (s.deliverPacket c fd slot pkt)

namespace State

/-- An answer arrives, for a packet that the transport has not yet seen acknowledged (R241, R247). -/
def answered (s : State) (fd slot : Nat) (a : PacketAnswer) (late : Bool) : State :=
  match s.arrived fd slot a.keyBit with
  | none => s
  | some s =>
    if (s.session fd slot).unacked.any fun e => e.1 == a.psn then
      (s.onSession fd slot fun x => { x with unacked := x.unacked.filter fun e => e.1 != a.psn }).answerRetained a.psn late
    else s

end State

/-- `ACCEPT_RESPONSE` (R241): a sent packet is accepted. -/
def execAcceptResponse (fd slot : Nat) (pkt : PacketAnswer) (s : State) : Host.Outcome State Fault Refusal := .next (s.answered fd slot pkt false)

/-- `LATE_RESPONSE` (R267): a sent packet is refused, and folded. -/
def execLateResponse (fd slot : Nat) (pkt : PacketAnswer) (s : State) : Host.Outcome State Fault Refusal := .next (s.answered fd slot pkt true)

namespace State

/-- What a session has sent and has no answer for, by its serial: a packet or an enqueue, with the context that pays for it (R237, R243). -/
def unanswered (s : State) (fd slot n : Nat) : Option (Nat × Outgoing) :=
  let x := s.session fd slot
  match x.unacked.find? fun e => e.1 == n with
  | some e => some (x.ctx.toNat, .packet e.1 e.2)
  | none => (x.outs.find? fun o => o.sent && o.serial == n).map fun o => (o.ctx, .enqueue o.serial o.msg)

/-- The bytes of what leaves, after its headers (R90). -/
def payloadBytes : Outgoing → Nat
  | .packet _ pkt => pkt.payload.length
  | .enqueue _ msg => enqueueBytes msg
  | .answer .. | .enqueueAnswer .. => 0

end State

/-- `PACKET_RETRANSMIT` (R237, R243, R247): a packet or an enqueue without answer is sent again, with its transport number and the next
nonce, at a charge of its own (R90); without a port or the budget it is not sent again now (R91, R244). -/
def execPacketRetransmit (fd slot pkt : Nat) (s : State) : Host.Outcome State Fault Refusal :=
  let p := State.servingProc fd slot
  match s.unanswered fd slot pkt with
  | some (c, o) =>
    if (s.upPorts fd slot).isEmpty || !s.mayPost c p then .next s
    else .next ((s.charge c 3 p (State.fabricUnits (State.payloadBytes o))).sendOn fd slot o)
  | none => .next s

/-- `RECEIVE_DEADLINE` (R239, R240): an open receive's deadline has passed. -/
def execReceiveDeadline (proc slot idx : Nat) (s : State) : Host.Outcome State Fault Refusal := .next (s.lapse proc slot idx)

namespace State

/-- What waits for a port of a processor is sent (R19, R244). -/
def flushPort (s : State) (p : Nat) : State :=
  (s.sessions.filter fun e => servingProc (e.1 / 8192) (e.1 % 8192) == p).foldl
    (fun s e => s.flushPend (e.1 / 8192) (e.1 % 8192)) s

end State

/-- `PORT_LINK_DOWN` and `PORT_LINK_UP` (R19, R244): of the 128 ports, one whose link is down is left out. -/
def execPortLinkDown (port : Nat) (s : State) : Host.Outcome State Fault Refusal :=
  .next (if port < 128 then { s with portsDown := insertNat port s.portsDown } else s)
def execPortLinkUp (port : Nat) (s : State) : Host.Outcome State Fault Refusal :=
  .next (({ s with portsDown := s.portsDown.filter fun p => p != port } : State).flushPort (port / 4))

/-- `FABRIC_WATCHDOG` (R293): a slot has waited too long; its record is appended and its count restarts. -/
def execFabricWatchdog (proc slot : Nat) (s : State) : Host.Outcome State Fault Refusal :=
  match s.fslot proc slot with
  | none => .next s
  | some x =>
    let limit := bitsAt (s.ctx x.ctx).wdog.toNat 0 24
    if limit = 0 || x.wait = .ready || x.waitCount ≤ 1024 * limit then .next s
    else .next ((s.errorRecord x.ctx 0x09 0 0 x.comp x.coll.toNat proc).setFSlot proc slot { x with waitCount := 0 })

/-! ## Remote enqueues (R87 to R89) -/

namespace State

/-- Answers a remote enqueue by its transport number; the session remembers the answer for an enqueue sent again (R87, R89, R243). -/
def answerEnqueue (s : State) (fd slot psn code : Nat) : State :=
  (s.onSession fd slot fun x => { x with enqSeen := x.enqSeen.set psn code }).sendOn fd slot (.enqueueAnswer psn code)

/-- Goes on with a remote enqueue at its target (R88): the payload first, then the record once every logged part has been replayed. -/
def goOnIn (s : State) (fd slot c : Nat) (e : RemoteIn) : State :=
  match s.goOnEnqueue c e with
  | (some e, _, s) => s.onSession fd slot fun x => { x with ins := x.ins ++ [e] }
  | (none, code, s) => s.answerEnqueue fd slot e.msg.psn code

/-- A remote enqueue arrives at its target (R88). -/
def enqueueArrives (s : State) (fd slot c : Nat) (msg : Enqueue) : State :=
  s.bump.goOnIn fd slot c
    ⟨s.serial, msg, none, 96 * (s.ctx c).part.toNat, payloadParts 4096 msg.target.toNat msg.payload⟩

/-- The enqueue that is due on a session is taken in (R88, R243): with no context bound it is answered 0x0081, and so it is (DESIGN CHOICE, log 41) while the
context that is bound is torn down or scrubbed (R89). -/
def takeEnqueue (s : State) (fd slot : Nat) (msg : Enqueue) : State :=
  let s := s.onSession fd slot fun x => { x with enqDue := x.enqDue + 1, early := x.early.erase msg.psn }
  let c := (s.session fd slot).ctx.toNat
  let st := (s.ctx c).state
  if st = 0 ∨ st = 4 ∨ st = 5 then s.answerEnqueue fd slot msg.psn 0x81 else s.enqueueArrives fd slot c msg

/-- Takes in, in the order of their numbers, the enqueues that had arrived ahead of an earlier one (R243). -/
def takeEarly (fd slot : Nat) : Nat → State → State
  | 0, s => s
  | fuel + 1, s =>
    match (s.session fd slot).early.find? (s.session fd slot).enqDue with
    | none => s
    | some msg => takeEarly fd slot fuel (s.takeEnqueue fd slot msg)

/-- An enqueue arrives by its number (R243): the one that is due is taken in, a later one is held, and one that has been taken in before
gets its answer again, once it has one. -/
def orderEnqueue (s : State) (fd slot : Nat) (msg : Enqueue) : State :=
  let x := s.session fd slot
  if x.enqDue < msg.psn then s.onSession fd slot fun x => { x with early := x.early.set msg.psn msg }
  else if msg.psn < x.enqDue then
    match x.enqSeen.find? msg.psn with
    | some code => s.sendOn fd slot (.enqueueAnswer msg.psn code)
    | none => s
  else takeEarly fd slot x.early.length (s.takeEnqueue fd slot msg)

/-- Goes on with the remote enqueues of a context's sessions, in their order (R88). -/
def retryIns (s : State) (c : Nat) : State :=
  (s.sessions.filter fun e => e.2.ctx.toNat == c && !e.2.ins.isEmpty).foldl (fun s e =>
    let fd := e.1 / 8192
    let slot := e.1 % 8192
    e.2.ins.foldl (fun s q => s.goOnIn fd slot c q) (s.onSession fd slot fun x => { x with ins := [] })) s

/-- A part of a waiting enqueue's payload has met a fatal fault: its record is not enqueued, and the sender is answered (R88, R89). -/
def failEnqueue (s : State) (c enq : Nat) : State :=
  let s := s.sessions.foldl (fun s' e =>
    match e.2.ins.find? fun q => q.serial == enq with
    | some q => ((s'.payloadFailed c q).onSession (e.1 / 8192) (e.1 % 8192) fun x =>
        { x with ins := x.ins.filter fun o => o.serial != enq }).answerEnqueue (e.1 / 8192) (e.1 % 8192) q.msg.psn 0x80
    | none => s') s
  match (s.ctx c).loops.find? fun q => q.serial == enq with
  | some q => ((s.payloadFailed c q).onCtx c fun x => { x with loops := x.loops.filter fun o => o.serial != enq }).storeAck c q.core
      q.ack 0x80
  | none => s

/-- The enqueues that have logged parts of their payload in a page (R88). -/
def enqueuesAt (s : State) (c page : Nat) : List Nat :=
  (s.cores.flatMap fun k => (k.2.log.filter fun e => e.ctx == c && e.va.toNat / 4096 == page).filterMap (·.enq)).eraseDups

/-- Frees a remote-enqueue slot of a session, and sends what waits for one (R87, R444). -/
def freeOut (s : State) (fd slot : Nat) (o : RemoteOut) : State :=
  (s.onSession fd slot fun x => { x with outs := x.outs.filter fun q => q.serial != o.serial }).flushOuts fd slot

end State

/-- `REMOTE_ENQUEUE_ARRIVAL` (R88, R243, R247): under a key that the session accepts, in the order of the transport numbers. -/
def execRemoteEnqueueArrival (fd slot : Nat) (msg : Enqueue) (s : State) : Host.Outcome State Fault Refusal :=
  match s.arrived fd slot msg.keyBit with
  | none => .next s
  | some s => .next (s.orderEnqueue fd slot msg)

namespace State

/-- The enqueue of a session that an answer names: one that has been sent and asks for an acknowledgement, or does not (R87, R89). -/
def answeredOut (s : State) (fd slot psn : Nat) (ack : Bool) : Option RemoteOut :=
  (s.session fd slot).outs.find? fun o => o.sent && o.msg.ack == ack && o.msg.psn == psn

end State

/-- `ENQUEUE_ACK` (R89, R247): the code of an enqueue that asks for one arrives, and goes to its ack word. -/
def execEnqueueAck (fd slot : Nat) (code : EnqueueAnswer) (s : State) : Host.Outcome State Fault Refusal :=
  match s.arrived fd slot code.keyBit with
  | none => .next s
  | some s => match s.answeredOut fd slot code.psn true with
    | none => .next s
    | some o => .next ((s.storeAck o.ctx o.core o.ack code.code.toNat).freeOut fd slot o)

/-- `REMOTE_SLOT_RELEASE` (R87, R247): the target has accepted or refused an enqueue without acknowledgement. -/
def execRemoteSlotRelease (fd : Nat) (slot : SentEnqueue) (s : State) : Host.Outcome State Fault Refusal :=
  match s.arrived fd slot.slot slot.keyBit with
  | none => .next s
  | some s => match s.answeredOut fd slot.slot slot.psn false with
    | none => .next s
    | some o => .next (s.freeOut fd slot.slot o)

end Sys2Proof.Machine
end

