-- ==== Sys2Proof/Machine/Schedule.lean ====
section
/-! DEFINITION. Scheduling: results of variable latency (R59 to R62), the active set (R37, R40, R41, R483), the picker and bundles (R38,
R39), placement of teams (R33, R35, R36, R78, R79, R97, R289), balancing (R80), budgets (R91), scratchpad compaction (R107), the
passing of cycles and the watchdog (R292, R293). -/

namespace Sys2Proof.Machine

/-! ## Results of variable latency (R60, R61, R277) -/

namespace State

/-- Whether a convergence point waits until no result of its team is pending (R146). -/
def awaitsResults : Instr → Bool
  | .fork _ _ => true
  | _ => false

/-- What a thread does once none of its results is pending: a trap that waited is delivered, a marker's park ends, and a `fork` that
waited for it is looked at again while its team runs (R146, R288). -/
def settled (s : State) (i : Nat) : State :=
  let t := s.thread i
  if !t.pending.isEmpty then s
  else match t.trapDue, t.arrival with
    | some d, _ => s.enterHandler i d
    | none, some a => if awaitsResults a.instr && s.onCores (teamOf i) then s.meet i a.instr else s
    | none, none => if t.wait = .marker then s.wakeThread i else s

/-- One pending result of a thread is written. -/
def writeReply (s : State) (i idx : Nat) : State :=
  match (s.thread i).pending[idx]? with
  | none => s
  | some r =>
    let s := s.onCore (s.coreOf i) fun k => { k with requests := k.requests.filter fun e => !(e.1 == i && r.regs.any fun w => w.1 == e.2) }
    (s.onThread i fun t => { t.reply r with pending := t.pending.eraseIdx idx }).settled i

end State

/-- `VARIABLE_RESULT_WRITE` (R60): a pending result of a thread returns. -/
def execVariableResultWrite (thread idx : Nat) (s : State) : Host.Outcome State Fault Refusal := .next (s.writeReply thread idx)

/-! ## The active set (R37, R40, R41, R483) -/

/-- Whether a wait is a long wait (R40). -/
def Wait.long : Wait → Bool
  | .ready | .save | .pause => false
  | _ => true

namespace State

/-- The groups placed on a core whose teams run. -/
def placedOn (s : State) (k : Nat) : List Nat :=
  (s.groups.filter fun e => e.2.core == k && s.onCores (e.1 / 16)).map (·.1)

/-- The groups that a core's slots hold or take in. -/
def slotGroups (s : State) (k : Nat) : List Nat :=
  (s.core k).slots.flatMap fun e => e.2.group :: e.2.incoming.toList

/-- The pending groups of a core (R37). -/
def pendingGroups (s : State) (k : Nat) : List Nat := (s.placedOn k).filter fun g => !(s.slotGroups k).contains g

/-- The ready threads of a group. -/
def readyIn (s : State) (g : Nat) : List Nat := (s.liveOfGroup g).filter fun i => s.canIssue i

/-- The wait time of a ready thread (R38). -/
def waitTime (s : State) (i : Nat) : Nat := s.cycle - (s.thread i).readyAt

/-- The longest wait time among the ready threads of a group: its place in line (R40, R41). -/
def inLine (s : State) (g : Nat) : Nat := (s.readyIn g).foldl (fun m i => max m (s.waitTime i)) 0

/-- The pending group whose longest-waiting ready thread has waited longest (R40). DESIGN CHOICE (log 47): of two that have waited equally
long, the one of the lower group number. -/
def nextGroup (s : State) (k : Nat) : Option Nat :=
  ((s.pendingGroups k).filter fun g => !(s.readyIn g).isEmpty).foldl (fun best g =>
    match best with
    | none => some g
    | some b => if s.inLine b < s.inLine g then some g else some b) none

/-- Starts an exchange in a slot of a core: 16 cycles in which neither group issues (R40). -/
def exchange (s : State) (k slot old new : Nat) : State :=
  s.onCore k fun y => { y with slots := y.slots.set slot ⟨old, some new, s.cycle + 16⟩ }

/-- Whether every live thread of a group is in a long wait (R40). -/
def allLong (s : State) (g : Nat) : Bool :=
  (s.liveOfGroup g).all fun i => (s.thread i).wait.long || (s.thread i).trapDue.isSome

/-- The slot that a forced exchange takes: one without a ready thread, else the one whose longest wait is least (R41). DESIGN CHOICE (log
47): of equals, the lowest slot. -/
def forcedSlot (s : State) : Tab ActSlot → Option (Nat × ActSlot)
  | [] => none
  | e :: es =>
    match forcedSlot s es with
    | none => some e
    | some o =>
      let idle (g : Nat) := (s.readyIn g).isEmpty
      if idle e.2.group then some e
      else if idle o.2.group then some o
      else if s.inLine o.2.group < s.inLine e.2.group then some o else some e

end State

/-- `GROUP_EXCHANGE` (R40). -/
def execGroupExchange (core slot : Nat) (s : State) : Host.Outcome State Fault Refusal :=
  match (s.core core).slots.find? slot, s.nextGroup core with
  | some x, some g =>
    if x.incoming.isSome || !s.allLong x.group then .next s else .next (s.exchange core slot x.group g)
  | _, _ => .next s

/-- `FORCED_EXCHANGE` (R41). DESIGN CHOICE (log 47): the check falls in the cycles whose number is a multiple of 2,048, and a slot that is
being filled counts as an exchange under way. -/
def execForcedExchange (core : Nat) (s : State) : Host.Outcome State Fault Refusal :=
  let slots := (s.core core).slots
  match s.forcedSlot slots, s.nextGroup core with
  | some (n, x), some g =>
    if s.cycle % 2048 != 0 || slots.any (fun e => e.2.incoming.isSome) then .next s else .next (s.exchange core n x.group g)
  | _, _ => .next s

/-- `EXCHANGE_DONE` (R40). -/
def execExchangeDone (core slot : Nat) (s : State) : Host.Outcome State Fault Refusal :=
  match (s.core core).slots.find? slot with
  | none => .next s
  | some x =>
    match x.incoming with
    | none => .next s
    | some g =>
      if x.until_ ≤ s.cycle then .next (s.onCore core fun y => { y with slots := y.slots.set slot ⟨g, none, 0⟩ }) else .next s

/-- `SLOT_FILL` (R483): a free slot takes in the pending group that an exchange would choose. -/
def execSlotFill (core slot : Nat) (s : State) : Host.Outcome State Fault Refusal :=
  match (s.core core).slots.find? slot, s.nextGroup core with
  | none, some g => if slot < 8 then .next (s.exchange core slot g g) else .next s
  | _, _ => .next s

/-! ## The picker and bundles (R38, R39) -/

namespace State

/-- The thread of a list that has waited longest, the first of equals. -/
def oldestThread (s : State) : List Nat → Option Nat
  | [] => none
  | i :: is =>
    match oldestThread s is with
    | none => some i
    | some j => if s.waitTime i < s.waitTime j then some j else some i

/-- The threads of a list at a program counter. -/
def atPc (s : State) (is : List Nat) (pc : W64) : List Nat := is.filter fun i => (s.thread i).pc == pc

/-- Whether a program counter comes before another among threads that stand in slot and lane order: held by more threads, or by an older
one, or by an oldest one that comes first (R38). -/
def pcBefore (s : State) (is : List Nat) (a b : W64) : Bool :=
  let n (pc : W64) := (s.atPc is pc).length
  let o (pc : W64) := (s.oldestThread (s.atPc is pc)).getD 0
  n b < n a || (n a == n b && (s.waitTime (o b) < s.waitTime (o a) ||
    (s.waitTime (o a) == s.waitTime (o b) && is.idxOf (o a) < is.idxOf (o b))))

/-- The key thread of an issue cycle (R38). -/
def keyThread (s : State) (k : Nat) : Option Nat :=
  let ready := s.readyOn k
  if s.cycle % 64 = 63 then s.oldestThread ready
  else
    let best := ready.foldl (fun best i =>
      let pc := (s.thread i).pc
      match best with
      | none => some pc
      | some b => if s.pcBefore ready pc b then some pc else some b) none
    best.bind fun pc => s.oldestThread (s.atPc ready pc)

/-- Threads of a team in the order of a bundle's issue: rising `sr.tid` (R348). -/
def insertTid (i : Nat) : List Nat → List Nat
  | [] => [i]
  | j :: js => if tidOf i ≤ tidOf j then i :: j :: js else j :: insertTid i js

/-- Threads in the order of a bundle's issue: team by team in active-set slot order, each by rising `sr.tid` (R348). -/
def issueOrder (s : State) (k : Nat) (is : List Nat) : List Nat :=
  (dedupNat ((s.activeGroups k).map fun g => g / 16)).flatMap fun t => (is.filter fun i => teamOf i == t).foldr insertTid []

/-- The oldest threads of a list, up to a number. -/
def oldestOf (s : State) : Nat → List Nat → List Nat
  | 0, _ => []
  | n + 1, is =>
    match s.oldestThread is with
    | none => []
    | some i => i :: oldestOf s n (is.filter fun j => j != i)

/-- The threads that issue with a key thread (R39): at a convergence point the ready threads of its group that reach it, which then wait
there and execute it as one bundle of the group (R44); else up to 64 threads of its program counter, kernel, context and view. -/
def bundleOf (s : State) (k key : Nat) (point : Bool) : List Nat :=
  let x := s.team (teamOf key)
  let same (i : Nat) :=
    let y := s.team (teamOf i)
    y.record.entry == x.record.entry && y.ctx == x.ctx && y.view == x.view
  let is := (s.atPc (s.readyOn k) (s.thread key).pc).filter fun i =>
    if point then s.groupOf i == s.groupOf key else same i
  s.issueOrder k (s.oldestOf 64 is)

/-! ## Placement (R35, R36, R78, R79, R97, R289) -/

/-- The groups of a team with their register counts: those of its record before it has started, those it has after. -/
def groupNeeds (s : State) (t : Nat) : List (Nat × Nat) :=
  let gs := s.groups.filter fun e => e.1 / 16 == t
  if gs.isEmpty then (span 0 (s.team t).record.groups).map fun g => (g, (s.team t).record.regs)
  else gs.map fun e => (e.1 % 16, e.2.count)

/-- The core of a group of a team placed on a core (R35). -/
def groupCore (twin : Bool) (k g : Nat) : Nat := if twin && g % 2 == 1 then k + 1 else k

/-- The cores that a placement on a core takes. -/
def takesCores (twin : Bool) (k : Nat) : List Nat := if twin then [k, k + 1] else [k]

/-- Whether a team's registers and threads fit on a core or twin (R36). -/
def fitsThreads (s : State) (t k : Nat) : Bool :=
  let r := (s.team t).record
  (takesCores r.twin k).all fun c =>
    let mine := (s.groupNeeds t).filter fun e => groupCore r.twin k e.1 == c
    r.width * (mine.map (·.2)).sum ≤ s.freeRegs c && s.residents c + r.width * mine.length ≤ 1024

/-- Scratchpad units of a team in the lower and upper half (R104). -/
def halves (r : TaskRecord) : Nat × Nat := if r.twin then (ceilDiv r.scratch 2, r.scratch / 2) else (r.scratch, 0)

/-- Whether a team holds its scratchpad: not where it is placed nowhere, nor once it has ended (R34), but for one of a protected context,
which keeps it until the scrub (R308). -/
def holdsScratch (s : State) (x : Team) : Bool := x.core != noCore && (x.phase != .ending || (s.ctx x.ctx).state == 5)

/-- The spans of scratchpad units in use on a core, but for a team's own. -/
def usedScratch (s : State) (k except : Nat) : List (Nat × Nat) :=
  s.teams.flatMap fun e =>
    if e.1 = except || !s.holdsScratch e.2 then []
    else
      let (lo, hi) := halves e.2.record
      (if e.2.core = k then [(e.2.spPlace, e.2.spPlace + lo)] else []) ++
        (if e.2.record.twin && e.2.core + 1 = k then [(e.2.spPlaceHi, e.2.spPlaceHi + hi)] else [])

/-- The lowest free run of a length below a bound: at 0 or just after a span in use. -/
def lowestRun (used : List (Nat × Nat)) (cap n : Nat) : Option Nat :=
  (used.foldl (fun l e => insertNat e.2 l) [0]).find? fun p => p + n ≤ cap && used.all fun e => apart (p, p + n) e

/-- Places for the reservations that a team brings with it (R111): each on the core that its half has become. -/
def placeResvs (s : State) (k : Nat) : List (Nat × Resv) → List (Nat × Resv) → Option (List (Nat × Resv))
  | done, [] => some done
  | done, (id, r) :: rs =>
    let c := k + (r.core - noCore)
    let mine := (done.filter fun e => e.2.core == c).map fun e => (e.2.place, e.2.place + e.2.units)
    match lowestRun (s.usedUnits c ++ mine) 2048 r.units with
    | none => none
    | some p => placeResvs s k (done ++ [(id, { r with core := c, place := p })]) rs

/-- A team as it would stand on a core or twin, if it fits there (R36). -/
def fitAt (s : State) (t k : Nat) : Option Team :=
  let x := s.team t
  let (lo, hi) := halves x.record
  if !s.fitsThreads t k then none
  else match lowestRun (s.usedScratch k t) 256 lo,
      (if x.record.twin then lowestRun (s.usedScratch (k + 1) t) 256 hi else some 0), s.placeResvs k [] x.resv with
    | some p, some q, some rs => some { x with core := k, spPlace := p, spPlaceHi := q, resv := rs }
    | _, _, _ => none

/-- The threads that reside on the cores of a placement. -/
def crowd (s : State) (twin : Bool) (k : Nat) : Nat := ((takesCores twin k).map s.residents).sum

/-- The core or twin of a die on which a team is placed (R79): the fewest resident threads, then the lowest number. -/
def chooseCore (s : State) (t d : Nat) : Option Team :=
  let twin := (s.team t).record.twin
  ((span 0 96).filter fun c => !twin || c % 2 == 0).foldl (fun best c =>
    match s.fitAt t (96 * d + c), best with
    | none, b => b
    | some y, none => some y
    | some y, some b => if s.crowd twin y.core < s.crowd twin b.core then some y else some b) none

/-- Whether a team needs a stack slot that it does not yet hold (R97). -/
def needsSlot (s : State) (t : Nat) : Bool := s.stackBytes (s.team t).ctx != 0 && (s.team t).slot.isNone

/-- The lowest free stack slot of a context (R97). -/
def freeSlot (s : State) (c : Nat) : Option Nat :=
  let used := s.teams.filterMap fun e => if e.2.ctx = c then e.2.slot else none
  (span 0 (bitsAt (s.ctx c).stack.toNat 0 16)).find? fun n => !used.contains n

/-- Whether a stack slot stands ready for a team. -/
def slotReady (s : State) (t : Nat) : Bool := !s.needsSlot t || (s.freeSlot (s.team t).ctx).isSome

/-- The effective priority of a waiting team (R78): a clone that has not started queues at 7 (R148). -/
def effective (s : State) (t : Nat) : Nat :=
  let x := s.team t
  if x.clone && x.image.isNone then 7 else min 7 (x.record.prio + (s.cycle - x.firstQueued) / 160000)

/-- Whether a waiting team comes before another (R78). DESIGN CHOICE (log 47): of two of the same effective priority and age, the one with
the lower team number. -/
def placedBefore (s : State) (a b : Nat) : Bool :=
  s.effective b < s.effective a || (s.effective a == s.effective b &&
    ((s.team a).firstQueued < (s.team b).firstQueued || ((s.team a).firstQueued == (s.team b).firstQueued && a < b)))

/-- Puts a team into the order of consideration. -/
def insertTeam (s : State) (t : Nat) : List Nat → List Nat
  | [] => [t]
  | u :: us => if s.placedBefore t u then t :: u :: us else u :: insertTeam s t us

/-- Whether a team waits at a die's queue engine: it has arrived there, and is not a saved team of a context that is switched out (R80,
R289). -/
def queuedAt (s : State) (d : Nat) (x : Team) : Bool :=
  x.die == d && x.phase == .waiting && !x.transit && (x.image.isNone || (s.ctx x.ctx).state == 1)

/-- Whether a team of a context drains, while no further team of the context is placed (R286). -/
def draining (s : State) (c : Nat) : Bool := s.teams.any fun e => e.2.ctx == c && (e.2.phase == .draining || e.2.drain)

/-- The waiting teams that a die's queue engine may place, in the order in which it considers them (R78, R286). -/
def waitingOn (s : State) (d : Nat) : List Nat :=
  ((s.teams.filter fun e => s.queuedAt d e.2 && !e.2.halted && (s.ctx e.2.ctx).state == 1 && !s.draining e.2.ctx).map (·.1)).foldr
    s.insertTeam []

/-- The teams that may be placed: one that has stood first and not fit for 64 µs blocks those behind it until it is placed, all of them
where it lacks room on the cores, and those of its context where it lacks only a stack slot (R78). -/
def unblocked (s : State) (d : Nat) : List Nat → List Nat
  | [] => []
  | t :: ts =>
    if !(s.team t).blocking then t :: s.unblocked d ts
    else if (s.chooseCore t d).isNone then [t]
    else if !s.slotReady t then t :: (s.unblocked d ts).filter fun u => (s.team u).ctx != (s.team t).ctx
    else t :: s.unblocked d ts

/-- The team that a die's engine places next, with the place (R78, R79). -/
def nextTeam (s : State) (d : Nat) : Option (Nat × Team) :=
  (s.unblocked d (s.waitingOn d)).findSome? fun t => if s.slotReady t then (s.chooseCore t d).map fun y => (t, y) else none

/-- Notes since when the first team in line has stood there and not fit, and that it blocks after 64 µs (R78). -/
def noteLine (s : State) (d : Nat) : State :=
  match s.waitingOn d with
  | [] => s
  | h :: ts =>
    let s := if s.slotReady h && (s.chooseCore h d).isSome then s
      else s.onTeam h fun x =>
        let since := x.firstInLine.getD s.cycle
        { x with firstInLine := some since, blocking := x.blocking || 80000 ≤ s.cycle - since }
    ts.foldl (fun s t => s.onTeam t fun x => { x with firstInLine := none }) s

/-- The lowest n blocks of 16 thread slots of a core that no group holds (R299). -/
def freeBlocks (s : State) (k n : Nat) : List Nat :=
  let used := (s.groups.filter fun e => e.2.core == k).flatMap fun e => e.2.blocks
  ((span 0 64).filter fun b => !used.contains b).take n

/-- Puts a group on a core, in thread slots that it keeps while it stays there (R299). -/
def seatGroup (s : State) (g k n width : Nat) : State :=
  s.setGroup g { s.group g with core := k, count := n, blocks := s.freeBlocks k (width / 16) }

/-- Puts a team where it has been found to fit, with its stack slot (R97). -/
def seat (s : State) (t : Nat) (y : Team) : State :=
  let slot := if s.needsSlot t then s.freeSlot y.ctx else y.slot
  let s' := s.setTeam t { y with slot := slot, firstInLine := none, blocking := false, startedAt := s.cycle }
  (s.groupNeeds t).foldl (fun s' e =>
    s'.seatGroup (t * 16 + e.1) (groupCore y.record.twin y.core e.1) e.2 y.record.width) s'

/-- The threads of a new team (R33, R98). -/
def newThreads (s : State) (t : Nat) : State :=
  let x := s.team t
  (span 0 (x.record.groups * x.record.width)).foldl (fun s i => s.setThread (t * 1024 + i)
    { Thread.start with pc := x.record.entry, limit := x.record.regs, stklim := BitVec.ofNat 32 (s.stackBytes x.ctx),
                        readyAt := s.cycle }) s

/-- Whether a page of the 64 bytes at ARGS is a device or strongly ordered one: their load is then an external operation (R33, R286). -/
def argsExternal (s : State) (x : Team) : Bool :=
  (pagePieces 2 x.record.args.toNat 64).any fun e =>
    match s.xlat x.ctx e.1 .read 0 x.core 0 with
    | (.ok _ leaf, _) => 2 ≤ leaf.type
    | _ => false

/-- Reads the 64 bytes at ARGS for group 0 (R33): into every thread, or the team is held by their page. A team that drains for a pre-emption
goes on to drain (R286). -/
def loadArgs (s : State) (t : Nat) : State :=
  let x := s.team t
  match s.newRequest.devSpan x.ctx x.record.args.toNat 64 0 x.core false with
  | .ok bs s =>
    let ks := (span 0 16).map fun n => (n, BitVec.ofNat 32 (leNat ((bs.drop (4 * n)).take 4)))
    let s := s.onTeam t fun y =>
      { y with phase := if y.drain then .draining else .placed, drain := false, argsDue := false, startedAt := s.cycle,
               external := y.external || s.argsExternal x }
    (s.threadsOf t).foldl (fun s i =>
      s.onThread i fun th => { th with consts := ks, wait := .ready, waited := .ready, readyAt := s.cycle }) s
  | .wait w s =>
    (s.threadsOf t).foldl (fun s i => s.parkThread i w) (s.onTeam t fun y => { y with phase := .argsHeld })
  | .trap _ _ _ s => s
  | .gone s => s

/-- Places a waiting team for the first time: a clone waits for its image, any other starts (R33, R148). -/
def startTeam (s : State) (t : Nat) (y : Team) : State :=
  if y.clone then s.seat t { y with phase := .copying } else ((s.seat t y).newThreads t).loadArgs t

/-- Teams held at their arguments read them again (R33). -/
def retryArgs (s : State) (c : Nat) : State :=
  ((s.teams.filter fun e => e.2.ctx == c && e.2.phase == .argsHeld).map (·.1)).foldl (fun s t => s.loadArgs t) s

/-- What a page or a budget has held for a context goes on, each kind in its own order: ends of teams, arguments, start requests,
looped enqueues, enqueues that have arrived, stores of units, folds, held packets, and enqueues that have not left (R33, R88, R91, R100,
R127, R128, R220, R241, R249). -/
def retryHeld (s : State) (c : Nat) : State :=
  if (s.ctx c).state = 0 ∨ (s.ctx c).state = 4 ∨ (s.ctx c).state = 5 then s
  else
    let s := ((((((s.retryEnds c).retryArgs c).retryStarts c).retryLoops c).retryIns c).retryPosts c).retryFolds c
    (s.sessions.filter fun e => e.2.ctx.toNat == c).foldl (fun s e => s.flushPend (e.1 / 8192) (e.1 % 8192)) (s.feedAll c)

/-- A thread as it comes back from a save (R62, R289): its parked replies written, waits that its new core does not know of begun anew, and
every count begun anew, since the reason was that of the save meanwhile (R291, R292). -/
def revive (s : State) (i : Nat) : State :=
  let s := s.onThread i fun t => { t.pending.foldl Thread.reply t with pending := [] }
  let keep (w : Wait) := w == .barrier || w == .breakpoint || w == .pause || w == .marker
  (s.onThread i fun t =>
    if t.arrival.isSome || keep t.wait then { t with waited := t.wait, waitCount := 0 }
    else { t with wait := .ready, waited := .ready, waitCount := 0, readyAt := s.cycle }).settled i

/-- Restores a saved team where it has been found to fit (R289); what it has in the save area is read, and charged (R90). One that has been
saved before the load of its arguments makes it now (R33). -/
def restoreTeam (s : State) (t : Nat) (y : Team) : State :=
  let s := s.chargeRegion y.ctx ((s.ctx y.ctx).save.toNat / 4096 * 4096) ((y.image.map (·.spill)).getD 0)
  let s := (s.freeImage t).seat t { y with phase := .placed, image := none }
  let s := (s.liveOf t).foldl (fun s i => s.revive i) s
  let s := if y.argsDue then s.loadArgs t else s
  match y.world with
  | none => s
  | some w => (s.tryJoin y.ctx w).tryChoose y.ctx w

end State

/-- `TEAM_PLACEMENT` (R79): the engine of a die places the next team, when that team has not run before. -/
def execTeamPlacement (die : Nat) (s : State) : Host.Outcome State Fault Refusal :=
  let s := s.noteLine die
  match s.nextTeam die with
  | some (t, y) => if y.image.isSome then .next s else .next ((s.startTeam t y).noteLine die)
  | none => .next s

/-- `TEAM_RESTORE` (R289): the engine of a die places the next team, when that team stands in a saved image. -/
def execTeamRestore (die : Nat) (s : State) : Host.Outcome State Fault Refusal :=
  let s := s.noteLine die
  match s.nextTeam die with
  | some (t, y) => if y.image.isSome then .next ((s.restoreTeam t y).noteLine die) else .next s
  | none => .next s

/-! ## Balancing (R80) -/

/-- The mesh neighbours of a die: north, east, south, west (R10). -/
def meshNeighbours (d : Nat) : List Nat :=
  (if d / 4 = 0 then [] else [d - 4]) ++ (if d % 4 = 3 then [] else [d + 1]) ++ (if d / 4 = 3 then [] else [d + 4])
    ++ (if d % 4 = 0 then [] else [d - 1])

namespace State

/-- The waiting teams of a context at a die, as its engine counts them (R80). -/
def waitingOf (s : State) (d c : Nat) : List Nat := (s.teams.filter fun e => s.queuedAt d e.2 && e.2.ctx == c).map (·.1)

/-- The waiting teams of a context at a die that may be pushed, those to push first in front: lowest priority, then youngest (R80); no
clone that has not started (R148), but every saved team (R289). -/
def pushOrder (s : State) (d c : Nat) : List Nat :=
  (((s.waitingOf d c).filter fun t => !(s.team t).clone || (s.team t).image.isSome).foldr s.insertTeam []).reverse

/-- A team leaves for another die, and is counted by neither engine until it arrives (R80). DESIGN CHOICE (log 37): a team that blocks those
behind it loses that by the move, and its 64 µs begin anew at the new engine; its age goes with it (R78). -/
def pushTeam (s : State) (t e : Nat) : State :=
  s.onTeam t fun x => { x with die := e, transit := true, firstInLine := none, blocking := false }

/-- Pushes teams of a context from a die to its neighbours (R80). -/
def pushTo (s : State) (d c : Nat) : List Nat → State
  | [] => s
  | e :: es =>
    let mine := (s.waitingOf d c).length
    let theirs := (s.waitingOf e c).length
    let thresh := bitsAt (s.ctx c).bal.toNat 0 16
    let s := if thresh != 0 && thresh < mine - theirs then
        ((s.pushOrder d c).take ((mine - theirs) / 2)).foldl (fun s t => s.pushTeam t e) s
      else s
    s.pushTo d c es

/-- A team that has been pushed arrives at its new engine (R80). -/
def arriveTeam (s : State) (t : Nat) : State := s.onTeam t fun x => { x with transit := false }

end State

/-- `BALANCE_EXCHANGE` (R80): every 2 µs the engine of a die pushes teams to its neighbours of the same partition. -/
def execBalanceExchange (die : Nat) (s : State) : Host.Outcome State Fault Refusal :=
  if s.cycle / 2500 ≤ (s.engine die).lastBal then .next s
  else
    let near := (meshNeighbours die).filter fun e => s.leadOf e == s.leadOf die
    let cs := dedupNat ((s.teams.filter fun e => s.queuedAt die e.2).map fun e => e.2.ctx)
    .next (cs.foldl (fun s c => s.pushTo die c near)
      (s.setEngine die { s.engine die with lastBal := s.cycle / 2500 }))

/-! ## Budgets (R91) -/

namespace State

/-- Grants a context its budgets for a period: a processor whose bit is cleared has a share of zero. -/
def grant (s : State) (c : Nat) : State :=
  let shares := s.sharesOf c
  let fab := shares.getD 3 0xFFFFFFFF
  let none_ := (span 0 32).filterMap fun p => if s.serves c p then none else some (3 * 4096 + p, fab)
  s.onCtx c fun x => { x with shares := shares, spent := if fab = 0xFFFFFFFF then [] else none_ }

end State

/-- `BUDGET_PERIOD` (R91): a new period of 12,500 cycles begins. -/
def execBudgetPeriod (s : State) : Host.Outcome State Fault Refusal :=
  if s.cycle < s.hub.periodStart + 12500 then .next s
  else
    let s := { s with hub := { s.hub with periodStart := s.cycle / 12500 * 12500 } }
    let s := (s.ctxs.map (·.1)).foldl (fun s c => s.grant c) s
    let s := (s.wake .budget fun _ => true).onSlots fun _ _ x => if x.wait = .budget then { x with wait := .ready } else x
    let s := (s.ctxs.map (·.1)).foldl (fun s c => s.retryHeld c) s
    .next ((s.sessions.filter fun e => !e.2.pend.isEmpty).foldl (fun s e => s.flushPend (e.1 / 8192) (e.1 % 8192)) s)

/-! ## Scratchpad compaction (R107) -/

namespace State

/-- The pause of a compaction: the team's ready threads wait until cycles pass (R40, R107). -/
def pauseTeam (s : State) (t : Nat) : State :=
  (s.liveOf t).foldl (fun s i =>
    if (s.thread i).wait = .ready ∧ (s.thread i).arrival = none then s.parkThread i .compaction else s) s

end State

/-- `SCRATCHPAD_COMPACTION` (R107): a core moves a team's allocation to a free place, given in 4 KiB units, and the team pauses; 256 and
more name the upper half of a twin. -/
def execScratchpadCompaction (team place : Nat) (s : State) : Host.Outcome State Fault Refusal :=
  let x := s.team team
  let (lo, hi) := State.halves x.record
  let upper := 256 ≤ place
  let p := if upper then place - 256 else place
  let n := if upper then hi else lo
  let k := if upper then x.core + 1 else x.core
  let quiet := (s.ivalsOfTeam team).all fun iv => iv.space != .sp team
  if !s.onCores team || !quiet || !(s.jobsOf team).isEmpty || (upper && !x.record.twin) || 256 < p + n ||
      !(s.usedScratch k team).all (apart (p, p + n)) then .next s
  else .next ((s.onTeam team fun x => if upper then { x with spPlaceHi := p } else { x with spPlace := p }).pauseTeam team)

/-! ## Time and the watchdog (R291 to R293) -/

/-- The code of a wait (R291). DESIGN CHOICE (log 48): the pause of a compaction, a long wait for which R291 has no code of its own, shows that
of the scoreboard, the other wait for the scratchpad. -/
def Wait.code : Wait → Nat
  | .ready => 0 | .marker => 1 | .scoreboard => 2 | .barrier => 3 | .join => 4 | .convergence => 5 | .sideLog => 6
  | .translation => 7 | .remoteSlot => 8 | .budget => 9 | .claim => 0x0A | .breakpoint => 0x0B | .peerHandler => 0x0C
  | .startQueue => 0x0D | .fence => 0x0E | .version => 0x0F | .save => 0x11 | .pause => 0x12
  | .compaction => 2

/-- The code of a slot's wait (R291). -/
def SlotWait.code : SlotWait → Nat
  | .ready => 0 | .receive => 0x20 | .memory => 0x21 | .residual => 0x22 | .image => 0x23 | .send => 0x24
  | .switchedOut => 0x25 | .budget => 0x26

namespace State

/-- Whether a team is switched out: being saved, or in a saved image (R288, R292). A clone that has not been placed is not. -/
def away (s : State) (t : Nat) : Bool :=
  let x := s.team t
  x.phase == .saving || x.phase == .saved || x.image.isSome

/-- Whether a peer that has not arrived freezes the counts of those who await it (R292). -/
def peerFreezes (s : State) (j : Nat) : Bool :=
  let t := s.thread j
  t.live && t.arrival.isNone && (t.wait == .breakpoint || t.wait == .translation || t.mode != 0)

/-- The rivals of a thread's world that have not arrived at the point where it waits, or are switched out there (R159, R162, R167). -/
def absentRivals (s : State) (i : Nat) : List Nat :=
  match (s.team (teamOf i)).world with
  | none => []
  | some w =>
    match s.world (s.ctxOf i) w with
    | none => []
    | some x => (x.rivals.filter fun r => !r.abstained && ((!r.parked && r.chosen.isNone) || s.away r.team)).map (·.team)

/-- The threads that a thread awaits: those of its scope in a convergence wait, those of the absent rivals in a join wait (R292). -/
def peersOf (s : State) (i : Nat) : List Nat :=
  match (s.thread i).arrival, (s.thread i).wait with
  | some a, .convergence => s.scopeOf i a.instr
  | some _, .join => (s.absentRivals i).flatMap s.liveOf
  | _, _ => []

/-- Whether a peer that a thread awaits holds its count still: by what it does, or by being switched out (R292). -/
def peersFreeze (s : State) (i : Nat) : Bool :=
  (s.peersOf i).any s.peerFreezes || ((s.thread i).wait == .join && (s.absentRivals i).any s.away)

/-- Whether a peer that a thread awaits runs a handler, for which its reason shows code 0x0C (R40, R291). DESIGN CHOICE (log 48): the reason
held, by which the count goes on, stays that of the convergence or join wait, whose count R292 freezes meanwhile. -/
def peerHandles (s : State) (i : Nat) : Bool :=
  (s.peersOf i).any fun j => (s.thread j).live && (s.thread j).arrival.isNone && (s.thread j).mode != 0

/-- Whether the count of a waiting thread stands still (R292). -/
def countFrozen (s : State) (i : Nat) : Bool :=
  let t := s.thread i
  t.wait == .ready || t.wait == .translation || t.wait == .budget || t.wait == .breakpoint || t.wait == .save ||
    !s.onCores (teamOf i) || s.peersFreeze i

/-- A thread after cycles have passed: the home has found or allocated a version that it waited for (R152), the pause of a compaction is over
(R107), or its count goes on. -/
def passThread (s : State) (n i : Nat) (t : Thread) : Thread :=
  if t.wait = .version ∨ t.wait = .compaction then { t with wait := .ready, readyAt := s.cycle + n }
  else if !t.live || s.countFrozen i then t
  else { t with waitCount := t.waitCount + n }

/-- Whether the count of a waiting slot stands still: with the reasons 0x25, which a slot that its context has stopped shows, and 0x26
(R249, R291, R292). -/
def slotFrozen (s : State) (x : FSlot) : Bool :=
  x.wait == .ready || x.wait == .switchedOut || x.wait == .budget || s.slotStopped x

/-- Cycles pass: the counts of waiting threads and slots go on (R93, R292). -/
def pass_ (s : State) (n : Nat) : State :=
  let s' := { s with cycle := s.cycle + n, threads := s.threads.mapVals fun i t => s.passThread n i t }
  s'.onSlots fun _ _ x => if s.slotFrozen x then x else { x with waitCount := x.waitCount + n }

/-- A claim that no thread of its group waits for any more is withdrawn. -/
def dropClaim (s : State) (g : Nat) : State :=
  if (s.liveOfGroup g).any fun i => (s.thread i).wait == .claim then s
  else s.onCore (s.group g).core fun k => { k with claims := k.claims.filter fun c => c.group != g }

end State

/-- `WATCHDOG` (R293): a thread that has waited too long takes the watchdog trap at the instruction it waits on. -/
def execWatchdog (thread : Nat) (s : State) : Host.Outcome State Fault Refusal :=
  let t := s.thread thread
  let limit := bitsAt (s.ctx (s.ctxOf thread)).wdog.toNat 0 24
  if limit = 0 || !t.live || t.trapDue.isSome || t.wait == .ready || !s.onCores (State.teamOf thread) ||
      t.waitCount ≤ 1024 * limit then .next s
  else
    let g := s.groupOf thread
    let joined := t.wait = .join
    let s := if joined then s.unjoin (State.teamOf thread) else s
    .next ((s.raiseAt thread 0x30 0 (BitVec.ofNat 32 t.wait.code)).dropClaim g)

end Sys2Proof.Machine
end

