-- ==== Sys2Proof/Machine/Hub.lean ====
section
/-! DEFINITION. The hub: who may write its registers (R6, R74, R310), parts of registers (R484), ownership and claims (R74 to R77),
interrupts (R298), partitions (R23, R301), attestation (R311), the enrolled keys (R76, R312), power and heat (R312, R313). -/

namespace Sys2Proof.Machine

namespace State

/-! ## Access to hub registers (R6, R74, R310, R312, R484) -/

/-- Whether the dies and the hub have power (R312). -/
def powered (s : State) : Bool := s.hub.power == .active || s.hub.power == .idle

/-- A write was refused (R6). -/
def regError (s : State) : State := s.onHub fun h => { h with regerr := true }

/-- Whether an agent owns the module and its link is up (R74, R77). -/
def isOwner (s : State) (agent : Nat) : Bool :=
  s.hub.held && s.hub.owner.toNat == agent && !s.hub.linkDown.contains agent

/-- A write of an agent that does not own the module is dropped and counted (R74). -/
def deny (s : State) : State :=
  s.onHub fun h => { h with denied := if h.denied = 255 then 255 else h.denied + 1 }

/-- A register write of an agent: dropped without trace while the hub has no power, or is not ready and the register does not
respond then (R310); else the owner's takes effect, and any other is denied (R74). -/
def gated (s : State) (agent : Nat) (always : Bool) (f : State → State) : State :=
  if !s.powered || !(s.hub.ready || always) then s else if s.isOwner agent then f s else s.deny

end State

/-- What a write brings to a register: the written bits, zero elsewhere, and the mask of the bits that it names (R484). -/
structure Put where
  val : Nat
  cov : Nat
deriving DecidableEq, Repr

/-- A write of a whole register of a given width. -/
def Put.whole (w v : Nat) : Put := ⟨v % 2 ^ w, 2 ^ w - 1⟩

/-- The bits of a register after a write of its RW fields (R484). -/
def Put.onto (p : Put) (old : Nat) : Nat := (old &&& (p.cov ^^^ (2 ^ 64 - 1))) ||| p.val

/-- The value written to a field of w bits at position n, zero outside the written bits. -/
def Put.field (p : Put) (n w : Nat) : Nat := bitsAt p.val n w

/-- A mask of the bits from lo to hi. -/
def mask (lo hi : Nat) : Nat := 2 ^ (hi + 1) - 2 ^ lo

namespace State

/-- A write goes on unless it sets a reserved bit (R6). -/
def unreserved (s : State) (p : Put) (rsvd : Nat) (f : State → State) : State :=
  if p.val &&& rsvd = 0 then f s else s.regError

/-! ## Ownership (R74 to R77, R298) -/

/-- Sends the pending vectors that the owner has not masked (R298). -/
def sendPending (s : State) : State :=
  let h := s.hub
  let go := h.pendingVectors.filter fun v => !h.maskedVectors.contains v
  go.foldl (fun s v => s.emit (.interrupt h.owner.toNat v))
    { s with hub := { h with pendingVectors := h.pendingVectors.filter fun v => h.maskedVectors.contains v } }

/-- The ASCII bytes "claim". -/
def claimText : List Byte := [0x63, 0x6C, 0x61, 0x69, 0x6D]

/-- The signed message of a claim (R75). -/
def claimMessage (s : State) (a : Nat) : List Byte := natLe 8 a ++ natLe 8 s.hub.nonce.toNat ++ claimText

/-- The enrolled key of an agent (R76). -/
def agentKey (s : State) (a : Nat) : List Byte := tabBytes s.hub.keys (32 * a) 32

/-- Whether the claim in an agent's window verifies (R75, R76). -/
def claimVerifies (s : State) (a : Nat) : Bool :=
  let bs := tabBytes s.hub.claims (128 * a) 72
  leNat (bs.take 8) == a && (s.agentKey a).any (fun b => b != 0) &&
    Crypto.verify (s.agentKey a) (s.claimMessage a) (bs.drop 8)

/-- Replaces HUB_NONCE by a fresh value (R75, R77). -/
def freshNonce (s : State) : State := { s.draw with hub := { s.hub with nonce := Config.randomWord s.free } }

/-- A submitted claim: the first that verifies while nobody owns the module is granted (R75). -/
def submitClaim (s : State) (a : Nat) : State :=
  if s.hub.held || !s.claimVerifies a then s
  else ({ s with hub := { s.hub with owner := BitVec.ofNat 2 a, held := true } }.freshNonce).sendPending

/-- Writes a byte of a claim window; byte 71 submits the claim (R75). -/
def putClaim (s : State) (a off : Nat) (b : Byte) : State :=
  { s with hub := { s.hub with claims := s.hub.claims.set (128 * a + off) b } }

/-- Whether an agent may write a claim window: its own, or as the owner (R74, R75). -/
def claimOpen (s : State) (agent a : Nat) : Bool :=
  agent < 4 && s.powered && (agent == a || s.isOwner agent) && !s.hub.linkDown.contains agent

/-- The owner gives the module up (R77). -/
def giveUp (s : State) : State := { s with hub := { s.hub with held := false } }.freshNonce

/-- A write of HUB_OWN (R74). -/
def writeOwn (s : State) (p : Put) : State :=
  s.unreserved p (mask 4 7 ||| mask 16 31) fun s => if p.field 3 1 = 1 then s.giveUp else s

end State

/-- `CLAIM` (R75): the write of byte 71 of a claim window. -/
def execClaim (agent window : Nat) (byte : Byte) (s : State) : Host.Outcome State Fault Refusal :=
  if 4 ≤ window then .next s
  else if s.claimOpen agent window then .next ((s.putClaim window 71 byte).submitClaim window)
  else if s.powered then .next s.deny
  else .next s

/-- `RELEASE` (R77). -/
def execRelease (agent : Nat) (s : State) : Host.Outcome State Fault Refusal := .next (s.gated agent true (·.giveUp))

/-- `OWNER_LINK_DOWN` (R77). -/
def execOwnerLinkDown (s : State) : Host.Outcome State Fault Refusal :=
  if s.hub.held then .next s.giveUp else .next s

namespace State

/-- An agent masks or unmasks an interrupt vector (R298). -/
def maskVector (s : State) (agent v : Nat) (on : Bool) : State :=
  if !s.isOwner agent then s
  else if on then { s with hub := { s.hub with maskedVectors := insertNat v s.hub.maskedVectors } }
  else { s with hub := { s.hub with maskedVectors := s.hub.maskedVectors.filter fun x => x != v } }.sendPending

/-- A host agent's link goes down, which releases what it owns, or comes up (R77). -/
def hostLinkTo (s : State) (agent : Nat) (up : Bool) : State :=
  if up then { s with hub := { s.hub with linkDown := s.hub.linkDown.filter fun a => a != agent } }
  else
    let s := if s.hub.held && s.hub.owner.toNat == agent then s.giveUp else s
    { s with hub := { s.hub with linkDown := insertNat agent s.hub.linkDown } }

/-! ## Partitions (R23, R301) -/

end State

/-- The allowed sets of dies (R23). -/
def dieSets : List (List Nat) :=
  (span 0 16).map (fun d => [d]) ++ (span 0 8).map (fun k => [2 * k, 2 * k + 1]) ++
    [[0, 1, 4, 5], [2, 3, 6, 7], [8, 9, 12, 13], [10, 11, 14, 15], span 0 8, span 8 8, span 0 16]

/-- The lead of a die in a HUB_PARTCFG value (R301). -/
def leadIn (cfg d : Nat) : Nat := bitsAt cfg (4 * d) 4

/-- Whether a HUB_PARTCFG value names allowed sets, each by its lowest die (R23, R301). -/
def partcfgValid (cfg : Nat) : Bool :=
  (span 0 16).all fun d =>
    let set_ := (span 0 16).filter fun e => leadIn cfg e == leadIn cfg d
    dieSets.contains set_ && set_.head? == some (leadIn cfg d)

namespace State

/-- A write of HUB_PARTCFG (R301). -/
def writePartcfg (s : State) (p : Put) : State :=
  let cfg := p.onto s.hub.partcfg.toNat
  let busy := (span 0 16).any fun d => leadIn cfg d != s.leadOf d && !(s.boundIn (s.leadOf d)).isEmpty
  if partcfgValid cfg && !busy then { s with hub := { s.hub with partcfg := BitVec.ofNat 64 cfg } }
  else s.onHub fun h => { h with parterr := true }

end State

/-- `PARTCFG_WRITE` (R301): a whole write of HUB_PARTCFG. -/
def execPartcfgWrite (agent : Nat) (value : W64) (s : State) : Host.Outcome State Fault Refusal :=
  .next (s.gated agent false fun s => s.writePartcfg (.whole 64 value.toNat))

/-! ## Attestation (R311) -/

/-- The first n bytes of a list, zero where it has none. -/
def fixBytes (n : Nat) (bs : List Byte) : List Byte := (span 0 n).map fun i => bs.getD i 0

namespace State

/-- Writes bytes of the attestation nonce from an offset; a write that takes in byte 24 starts a report (R299, R311). -/
def putNonce (s : State) (off : Nat) (bs : List Byte) : State :=
  let s := { s with hub := { s.hub with attNonce := tabPut s.hub.attNonce off bs } }
  if off ≤ 24 ∧ 24 < off + bs.length then s.onHub fun h => { h with attbusy := true } else s

/-- The lowest security version of the images in force: every image stands at or above it (R310). -/
def versionOf (images : List (List Byte × List Byte × Nat)) : Nat :=
  match images with
  | [] => 0
  | (_, _, v) :: rest => rest.foldl (fun m x => min m x.2.2) v

/-- Bytes 0 to 447 of a report (R311). DESIGN CHOICE (log 49): of three security versions it gives the lowest. -/
def reportBody (s : State) : List Byte :=
  tabBytes s.hub.attNonce 0 32 ++ Crypto.publicKey Config.identitySeed ++
    fixBytes 192 (s.hub.firmware.flatMap fun x => Crypto.sha512 x.1) ++
    natLe 4 (versionOf s.hub.firmware) ++ natLe 8 s.hub.partcfg.toNat ++ tabBytes s.hub.keys 0 128 ++
    fixBytes 52 []

end State

/-- `ATTESTATION_REQUEST` (R311): a whole write at 0x0010_0818. -/
def execAttestationRequest (agent : Nat) (value : W64) (s : State) : Host.Outcome State Fault Refusal :=
  .next (s.gated agent true fun s => s.putNonce 24 (natLe 8 value.toNat))

/-- `ATTESTATION_DONE` (R311): the report is complete. -/
def execAttestationDone (s : State) : Host.Outcome State Fault Refusal :=
  if !s.hub.attbusy then .next s
  else
    let body := s.reportBody
    .next (s.onHub fun h =>
      { h with report := tabPut [] 0 (body ++ Crypto.sign Config.identitySeed body), attbusy := false })

/-! ## The board's registers (R76, R312, R313) -/

/-- `AGENTKEY_WRITE` (R76): a byte of the selected agent's key. -/
def execAgentkeyWrite (idx : Nat) (byte : Byte) (s : State) : Host.Outcome State Fault Refusal :=
  let a := s.hub.agentsel.toNat
  if s.hub.agentlock || 4 ≤ a || 32 ≤ idx then .next s
  else .next { s with hub := { s.hub with keys := s.hub.keys.set (32 * a + idx) byte } }

/-- `AGENTLOCK` (R76): a write of 1 fixes every enrolled key. -/
def execAgentlock (value : Byte) (s : State) : Host.Outcome State Fault Refusal :=
  if bitAt value.toNat 0 then .next { s with hub := { s.hub with agentlock := true } } else .next s

namespace State

/-- Whether a die is throttled: its junction is at 100 °C or above, or the package takes more than PCAP (R313). -/
def throttled (s : State) (die : Nat) : Bool := 100 ≤ s.hub.temps.get die 0 || s.hub.watts > s.hub.pcap.toNat

/-- What the readings and PCAP make of THROTTLE (R313). -/
def setThrottle (s : State) : State := s.onHub fun h => { h with throttle := (span 0 21).any s.throttled }

/-- New readings of a junction and of the package's power: what they make of THROTTLE, and the thermal trip at 110 °C (R313). -/
def measure (s : State) (die : Nat) (temp power : Int) : State :=
  let s := { s with hub := { s.hub with temps := s.hub.temps.set die temp, watts := power } }.setThrottle
  if 110 ≤ temp then s.emit .thermalTrip else s

/-- A write of PCAP by the board, and what it makes of THROTTLE (R312, R313). -/
def writePcap (s : State) (x : BitVec 16) : State := { s with hub := { s.hub with pcap := x } }.setThrottle

/-- The code of a power state (R312). -/
def powerCode : Power → Nat
  | .active => 0
  | .idle => 1
  | .selfref => 2
  | .off => 3

/-- A byte of the board's registers as a read gives it: zero for a write-only register and where none is (R5, R76, R312). -/
def boardByte (s : State) (a : Nat) : Byte :=
  let h := s.hub
  if a = 0x00 then BitVec.ofNat 8 (powerCode h.power)
  else if a = 0x02 ∨ a = 0x03 then h.pcap.extractLsb' (8 * (a - 0x02)) 8
  else if 0x10 ≤ a ∧ a ≤ 0x24 then BitVec.ofInt 8 (h.temps.get (a - 0x10) 0)
  else if a = 0x30 ∨ a = 0x31 then (BitVec.ofInt 16 h.watts).extractLsb' (8 * (a - 0x30)) 8
  else if a = 0x51 then BitVec.ofNat 8 h.agentlock.toNat
  else 0

end State

/-- `THROTTLE` (R313): a junction of the 21 dies or the package's power reaches its limit. -/
def execThrottle (die : Nat) (temp power : Int) (s : State) : Host.Outcome State Fault Refusal :=
  if die < 21 ∧ (100 ≤ temp ∨ power > s.hub.pcap.toNat) then .next (s.measure die temp power) else .next s

/-- `THROTTLE_END` (R313): a junction has cooled, or the package's power has fallen. -/
def execThrottleEnd (die : Nat) (temp power : Int) (s : State) : Host.Outcome State Fault Refusal :=
  if die < 21 ∧ (temp < 100 ∨ power ≤ s.hub.pcap.toNat) then .next (s.measure die temp power) else .next s

/-- `THERMAL_TRIP` (R313): the hub tells the board, which removes power. -/
def execThermalTrip (die : Nat) (temp : Int) (s : State) : Host.Outcome State Fault Refusal :=
  if die < 21 ∧ 110 ≤ temp then .next (s.measure die temp s.hub.watts) else .next s

end Sys2Proof.Machine
end

