-- ==== Sys2Proof/Machine/Launch.lean ====
section
/-! DEFINITION. The host work queues (R70 to R73, R305). -/

namespace Sys2Proof.Machine

/-- WQ_CFG as a word (R70). -/
def Wq.cfg (x : Wq) : Nat :=
  b2n x.en + x.log2size.toNat * 2 + x.prio.toNat * 64 + b2n x.err * 512 + x.ctx.toNat * 65536

namespace State

def onWq (s : State) (q : Nat) (f : Wq → Wq) : State := s.setWq q (f (s.wq q))

/-- The virtual address of the next record of a queue (R71). -/
def recordVa (x : Wq) : Nat := x.base.toNat / 64 * 64 + 64 * (x.head.toNat % 2 ^ x.log2size.toNat)

/-- Takes the record at HEAD (R65, R71, R73): accepted with the queue's priority. -/
def takeRecord (s : State) (q : Nat) (bs : List Byte) : State :=
  let x := s.wq q
  let c := x.ctx.toNat
  (s.acceptRecord c (BitVec.ofNat 64 (recordVa x)) bs 0 (some x.prio.toNat) (s.dealDie c (recordSeq bs)) 0).onWq q fun x => { x with head := x.head + 1 }

/-- Fetches the next record (R71): a fault holds the queue, a fatal one stops it. DESIGN CHOICE (log 51): a ring at or above 2^57 is translated
by the low 57 bits of its addresses, and no error is set. -/
def fetchRecord (s : State) (q : Nat) : State :=
  let x := s.wq q
  match s.devLoad x.ctx.toNat (recordVa x) 64 6 0 false with
  | .ok bs s => s.takeRecord q bs
  | .wait .translation s => s.onWq q fun x => { x with held := true }
  | .wait _ s => s
  | .trap _ _ _ s => s
  | .gone s => s.onWq q fun x => { x with err := true }

end State

/-- `WQ_RECORD_FETCH` (R71, R305): a queue of a free context fetches nothing. -/
def execWqRecordFetch (q : Nat) (s : State) : Host.Outcome State Fault Refusal :=
  let x := s.wq q
  if !x.en || x.err || x.held || x.head == x.tail || 1024 ≤ x.ctx.toNat || (s.ctx x.ctx.toNat).state == 0 then .next s
  else .next (s.fetchRecord q)

namespace State

/-- A write of WQ_BASE (R70, R72). -/
def writeWqBase (s : State) (q : Nat) (p : Put) : State :=
  s.unreserved p (mask 0 5) fun s =>
    s.onWq q fun x => if x.en then x else { x with base := BitVec.ofNat 64 (p.onto x.base.toNat) }

/-- A queue after a write of WQ_CFG that names no reserved bit (R71, R72, R305). DESIGN CHOICE (log 51): EN written 0 while the queue is held
at a record that faults drops the hold, and that record is not accepted until EN is set again. -/
def cfgWritten (x : Wq) (p : Put) : Wq :=
  let w := p.onto x.cfg
  let same := bitsAt w 1 8 == bitsAt x.cfg 1 8 && bitsAt w 16 16 == bitsAt x.cfg 16 16
  let err := x.err && p.field 9 1 == 0
  if x.en then if same then { x with en := bitAt w 0, err := err, held := x.held && bitAt w 0 } else x
  else
    let l := bitsAt w 1 5
    let c := bitsAt w 16 16
    let en := bitAt w 0
    { x with en := en && c < 1024, log2size := BitVec.ofNat 5 l, prio := BitVec.ofNat 3 (bitsAt w 6 3),
             ctx := BitVec.ofNat 16 c, held := false, err := err || (en && (1024 ≤ c || l < 4 || 16 < l)) }

/-- A write of WQ_CFG (R70 to R72). -/
def writeWqCfg (s : State) (q : Nat) (p : Put) : State :=
  s.unreserved p (mask 10 15) fun s => s.onWq q fun x => cfgWritten x p

/-- A write of WQ_DOORBELL (R71): a TAIL that is too far ahead, or moves back, stops the queue. -/
def writeDoorbell (s : State) (q : Nat) (p : Put) : State :=
  s.onWq q fun x =>
    let v := BitVec.ofNat 32 (p.onto x.tail.toNat)
    if 2 ^ x.log2size.toNat < (v - x.head).toNat || (v - x.head).toNat < (x.tail - x.head).toNat then { x with err := true }
    else { x with tail := v }

end State

/-- `WQ_DOORBELL` (R71). -/
def execWqDoorbell (agent q : Nat) (tail : W32) (s : State) : Host.Outcome State Fault Refusal :=
  if q < 8192 then .next (s.gated agent false fun s => s.writeDoorbell q (.whole 32 tail.toNat)) else .next s

/-- `WQ_ENABLE` (R72): a whole write of WQ_CFG with EN set. -/
def execWqEnable (agent q : Nat) (value : W64) (s : State) : Host.Outcome State Fault Refusal :=
  if q < 8192 then .next (s.gated agent false fun s => s.writeWqCfg q (.whole 32 (value ||| 1).toNat)) else .next s

/-- `WQ_DISABLE` (R72): a write of WQ_CFG that changes EN alone. -/
def execWqDisable (agent q : Nat) (s : State) : Host.Outcome State Fault Refusal :=
  if q < 8192 then .next (s.gated agent false fun s => s.writeWqCfg q ⟨putBits (putBits (s.wq q).cfg 0 1 0) 9 1 0, mask 0 31⟩)
  else .next s

/-- `WQ_ERR_CLEAR` (R72): a write of WQ_CFG that clears ERR alone. -/
def execWqErrClear (agent q : Nat) (s : State) : Host.Outcome State Fault Refusal :=
  if q < 8192 then .next (s.gated agent false fun s => s.writeWqCfg q ⟨putBits (s.wq q).cfg 9 1 1, mask 0 31⟩) else .next s

end Sys2Proof.Machine
end

