-- ==== Sys2Proof/Machine/Service.lean ====
section
/-! DEFINITION. Service of contexts: fault responses and the replay of side logs (R127, R166, R284), invalidation (R284), pre-emption
and saves (R204, R286 to R289, R304), binding, killing and teardown (R250, R295, R303, R304, R308), and the scrub (R308, R309). -/

namespace Sys2Proof.Machine

namespace State

/-! ## Fault responses and replay (R127, R166, R284) -/

/-- Gives back the cell that a logged access reserved (R166). -/
def releaseCell (s : State) (e : LogEntry) : State :=
  if e.cell then s.setView e.ctx e.view { s.view e.ctx e.view with reserved := (s.view e.ctx e.view).reserved - 1 } else s

/-- The outbox entry of a logged store or `red` of a view other than the root, where the page turns out to be one on which such an access
is not performed when issued (R155, R156). -/
def loggedOut (e : LogEntry) (leaf : TlbEntry) : Option OutOp :=
  if e.view = 0 ∨ (leaf.type = 0 ∧ !leaf.wshared) then none
  else match e.op with
    | .store data => some (.store e.va data)
    | .red op w64 x => some (.red op w64 e.va x)
    | .cinc _ => none

/-- A logged access to a device or strongly ordered page is external for the team that made it (R286). -/
def loggedExternal (s : State) (e : LogEntry) (leaf : TlbEntry) : State :=
  if 2 ≤ leaf.type && (s.teams.find? e.team).isSome then s.onTeam e.team fun x => { x with external := true } else s

/-- Performs a logged access, now that its page translates (R127): in its view, or, where its page is none that the view may write at
once, at the end of its outbox, in the cell that was reserved for it (R155, R156, R166, R168). DESIGN CHOICE (log 51): a reduction of the
root view whose page proves write-combining is performed, and so is a private store whose page proves not normal: no precise trap is left
for R116. DESIGN CHOICE (log 51): lanes that share a logged line share its one reserved cell, and where their accesses come to stand in the
outbox each takes an entry there, also beyond the pool's cells. -/
def replayOp (s : State) (k : Nat) (e : LogEntry) (key : Nat) (leaf : TlbEntry) : State :=
  let s := s.releaseCell e
  let c := e.ctx
  match loggedOut e leaf with
  | some op =>
    let s := (s.chargeAt c (s.nextCell c) 2).tagRegion c (s.nextCell c) 2
    s.setView c e.view { s.view c e.view with outbox := (s.view c e.view).outbox ++ [op] }
  | none =>
    let s := (s.loggedExternal e leaf).notePage c e.view e.va.toNat
    match e.op with
    | .store data => (s.keepOld e.keepFor e.va.toNat (s.pageRead c leaf.prot key data.length)).writeView c e.view leaf.prot key data
    | .red op w64 x =>
      let n := atomWidth w64
      let old := leNat (s.readView c e.view leaf.prot key n)
      s.writeView c e.view leaf.prot key (natLe n (atomNew op n old x.toNat x.toNat 0))
    | .cinc d => s.cincAt ⟨c, k, e.team * 1024, e.tag⟩ key leaf.prot e.va d

/-- Whether a logged access lies in a page of a context. -/
def logged (c page : Nat) (e : LogEntry) : Bool := e.ctx == c && e.va.toNat / 4096 == page

/-- Puts a logged access, with its core, at its place among others (R119, R126). -/
def insertLogged (x : Nat × LogEntry) : List (Nat × LogEntry) → List (Nat × LogEntry)
  | [] => [x]
  | y :: ys => if x.2.place ≤ y.2.place then x :: y :: ys else y :: insertLogged x ys

/-- The logged accesses of a page in every core's log, each with its core, in the order of their places (R119, R127). -/
def loggedOn (s : State) (c page : Nat) : List (Nat × LogEntry) :=
  (s.cores.flatMap fun k => (k.2.log.filter (logged c page)).map fun e => (k.1, e)).foldr insertLogged []

/-- Takes the logged accesses of a page out of every log, and lets who waits for room try again (R128). -/
def dropLogged (s : State) (c page : Nat) : State :=
  ({ s with cores := s.cores.mapVals fun _ k => { k with log := k.log.filter fun e => !logged c page e } }).wake .sideLog fun _ => true

/-- The units that a logged access moves at a memory controller (R90). -/
def LogEntry.units (e : LogEntry) : Nat :=
  match e.op with
  | .store d => (e.va.toNat % 64 + d.length + 63) / 64
  | _ => 1

/-- Replays logged accesses in order. A request that was accepted before is not held by a spent share, but it is charged (R90, R91,
R127). -/
def replayAll (s : State) (c base : Nat) (leaf : TlbEntry) (es : List (Nat × LogEntry)) : State :=
  es.foldl (fun s e => (s.charge c 1 (base / 2 ^ 36) (LogEntry.units e.2)).replayOp e.1 e.2 (base + e.2.va.toNat % 4096) leaf) s

/-- What waited for a page goes on, and tries its access again (R127, R159, R274, R284). -/
def releasePage (s : State) (c : Nat) : State :=
  let s := ((s.wakeCtx c .translation).wakeCtx c .join).wake .sideLog fun _ => true
  let s := s.wakeSlots c .memory
  let s := { s with
    cores := s.cores.mapVals fun _ k =>
      { k with jobs := k.jobs.map fun (j : Job) => if j.ctx = c then { j with held := false } else j },
    wqs := s.wqs.mapVals fun _ q => if q.ctx.toNat = c then { q with held := false } else q }
  s.retryHeld c

/-- Takes a page of a context out of service. -/
def unmark (s : State) (c page : Nat) : State := s.onCtx c fun x => { x with under := x.under.filter fun u => u.page != page }

/-- The response that a page is to be tried again (R284): its log is replayed if the page now allows a write, and those who wait
for it walk again. The oldest logged access walks first, and its fault is the one recorded. -/
def retryPage (s : State) (c page : Nat) : State :=
  if (s.ctx c).under.any fun u => u.page == page then
    let s := s.unmark c page
    let es := s.loggedOn c page
    match es with
    | [] => s.releasePage c
    | (k, e) :: _ =>
      match s.xlat c e.va.toNat .write 0 k e.view with
      | (.ok key leaf, s) => ((s.dropLogged c page).replayAll c (key - e.va.toNat % 4096) leaf es).releasePage c
      | (_, s) => s
  else s

/-- A page proves lost (R84, R88, R128, R203, R295): its logged accesses are discarded, the enqueues, jobs and walks that wait for it leave
their records, and the context ends. -/
def losePage (s : State) (c page : Nat) : State :=
  let s := (s.enqueuesAt c page).foldl (fun t enq => t.failEnqueue c enq) s
  let s := s.dropLogged c page
  ((s.ctx c).walks.foldl (fun t w => t.failWalk c page w) (s.failJobs c page)).beginTeardown c 0x53

/-- The response that a fault is fatal (R284). -/
def failPage (s : State) (c page : Nat) : State :=
  if (s.ctx c).under.any fun u => u.page == page then s.losePage c page else s

/-- A context that a register write names: 1,024 and more are refused, a free one is left alone (R305). -/
def namedCtx (s : State) (c : Nat) (f : State → State) : State :=
  if 1024 ≤ c then s.regError else if (s.ctx c).state = 0 then s else f s

/-- A whole write of HUB_FRESP (R284). -/
def writeFresp (s : State) (v : Nat) : State :=
  s.unreserved (.whole 64 v) (mask 17 18) fun s =>
    let c := bitsAt v 0 16
    s.namedCtx c fun s => if bitAt v 16 then s.failPage c (v / 2 ^ 19) else s.retryPage c (v / 2 ^ 19)

/-- A whole write of HUB_XINV (R284). -/
def writeXinv (s : State) (v : Nat) : State :=
  s.unreserved (.whole 64 v) (mask 18 18) fun s =>
    let c := bitsAt v 0 16
    s.namedCtx c fun s =>
      let what := if bitAt v 16 then none else some (v / 2 ^ 19)
      { s with hub := { s.hub with xinvBusy := true, xinv := s.hub.xinv ++ [(c, what)] } }

/-- Drops the translations that an invalidation names (R284). -/
def invalidate (s : State) (c : Nat) (page : Option Nat) : State :=
  s.onCtx c fun x => { x with tlb := x.tlb.filter fun e =>
    match page with
    | none => false
    | some p => !(e.page ≤ p * 4096 && p * 4096 < e.page + e.size) }

/-- Whether accesses of a context are still on their way to their homes. -/
def inFlight (s : State) (c : Nat) : Bool := s.threads.any fun e => s.ctxOf e.1 == c && !e.2.wc.isEmpty

end State

/-- `FAULT_RETRY` (R284): a whole write of HUB_FRESP with FATAL 0. -/
def execFaultRetry (agent : Nat) (value : W64) (s : State) : Host.Outcome State Fault Refusal :=
  .next (s.gated agent false fun s => s.writeFresp (putBits value.toNat 16 1 0))

/-- `FAULT_FATAL` (R284): a whole write of HUB_FRESP with FATAL 1. -/
def execFaultFatal (agent : Nat) (value : W64) (s : State) : Host.Outcome State Fault Refusal :=
  .next (s.gated agent false fun s => s.writeFresp (putBits value.toNat 16 1 1))

/-- `XINV` (R284): a whole write of HUB_XINV. -/
def execXinv (agent : Nat) (value : W64) (s : State) : Host.Outcome State Fault Refusal :=
  .next (s.gated agent false fun s => s.writeXinv value.toNat)

/-- `XINV_COMPLETE` (R284): the entries named are dropped, once every access that used them has been performed. -/
def execXinvComplete (s : State) : Host.Outcome State Fault Refusal :=
  if !s.hub.xinvBusy || s.hub.xinv.any fun e => s.inFlight e.1 then .next s
  else
    let s := s.hub.xinv.foldl (fun s e => s.invalidate e.1 e.2) s
    .next { s with hub := { s.hub with xinvBusy := false, xinv := [] } }

namespace State

/-- The record of a page under fault has been written: agents that waited for that go on, but for the teams that wait for their arguments
(R33, R283), or the context ends where the fault is fatal, as for a page that is answered so (R203, R295). -/
def recordWritten (s : State) (c : Nat) (u : UnderFault) : State :=
  if 0x43 ≤ u.kind then s.losePage c u.page
  else
    (s.onCtx c fun x => { x with under := x.under.map fun v => if v = u then { v with recorded := true } else v }).wake .translation
      fun i => s.ctxOf i == c && (s.team (teamOf i)).phase != .argsHeld && !(s.team (teamOf i)).argsDue

/-- Tries the fault records again that found no free slot (R283). -/
def recordPending (s : State) (c : Nat) : State :=
  (s.ctx c).under.foldl (fun s u =>
    if u.recorded then s
    else
      let (ok, s) := s.faultRecord c u
      if ok then s.recordWritten c u else s) s

/-! ## Pre-emption (R286 to R289, R304) -/

/-- Whether a team holds resources of a core. -/
def seated (s : State) (t : Nat) : Bool :=
  match (s.team t).phase with
  | .placed | .draining | .saving | .argsHeld | .copying => true
  | .waiting | .saved | .ending => false

/-- Queues the record of a stopped team again, with its original age (R286). -/
def requeue (s : State) (x : Team) : State :=
  let y : Team := { Team.queued with
    ctx := x.ctx, record := x.record, tx := x.tx, ty := x.ty, tz := x.tz, die := x.core / 96, core := noCore,
    firstQueued := x.firstQueued, halted := x.halted }
  (s.setTeam s.serial y).bump

/-- Flush-and-restart (R286). -/
def flush (s : State) (t : Nat) : State :=
  let x := s.team t
  (s.endTeam t true).requeue x

/-- A team stops issuing and waits to be saved (R288); one that is held at its arguments will read them after its restore (R33). -/
def beginSave (s : State) (t : Nat) : State :=
  s.onTeam t fun x => { x with phase := .saving, drain := false, argsDue := x.argsDue || x.phase == .argsHeld }

/-- The cycles of a context's drain limit (R271, R286). -/
def drainLimit (s : State) (c : Nat) : Nat := bitsAt (s.ctx c).preempt.toNat 0 16 * 1250

/-- A team drains, within the drain limit of its context (R286); one whose threads have not started does so as soon as they have. -/
def beginDrain (s : State) (t : Nat) : State :=
  s.onTeam t fun x =>
    let x := { x with drainUntil := s.cycle + s.drainLimit x.ctx }
    if x.phase = .placed then { x with phase := .draining } else { x with drain := true }

/-- The estimate of a team's run time (R287). -/
def estimate (s : State) (t : Nat) : Option Nat :=
  let x := s.team t
  ((s.engine (x.core / 96)).ests.find? fun e => e.ctx == x.ctx && e.entry == x.record.entry).map (·.cycles)

/-- The pair of a team's estimate becomes the one most recently used (R287). -/
def useEstimate (s : State) (t : Nat) : State :=
  let x := s.team t
  let d := x.core / 96
  let mine (e : Estimate) := e.ctx == x.ctx && e.entry == x.record.entry
  let es := (s.engine d).ests
  s.setEngine d { s.engine d with ests := es.filter mine ++ es.filter fun e => !mine e }

/-- The courses of pre-emption (R286). -/
inductive Course where
  | flush | drain | save
deriving DecidableEq, Repr

/-- The first course that applies to a team (R286). -/
def course (s : State) (t : Nat) : Course :=
  let x := s.team t
  match s.estimate t with
  | none => .save
  | some e =>
    let r := s.runTime t
    if !bitAt (s.ctx x.ctx).preempt.toNat 16 && x.record.idem && x.view = 0 && !x.external && 4 * r < e then .flush
    else if e - r < s.drainLimit x.ctx then .drain
    else .save

/-- Pre-empts one team by the first course that applies (R286): a placed one, one that is held at its arguments (R33), and a clone whose
image is being copied, which is saved once it has it (R167, R288). -/
def preempt (s : State) (t : Nat) : State :=
  match (s.team t).phase with
  | .argsHeld | .copying | .placed =>
    let r := s.useEstimate t
    match s.course t with
    | .flush => r.flush t
    | .drain => r.beginDrain t
    | .save => r.beginSave t
  | _ => s

/-- The teams of a context. -/
def teamsOf (s : State) (c : Nat) : List Nat := (s.teams.filter fun e => e.2.ctx == c).map (·.1)

/-- A save begins: its counts of units start at 0 (R271). -/
def beginCount (s : State) (c : Nat) : State := s.onCtx c fun x => { x with savestatBytes := 0, savestatOver := 0 }

/-- Switches a running context out: every team is pre-empted, its slots stop, and the count of each begins anew (R249, R286, R292, R304). -/
def switchOutCtx (s : State) (c : Nat) : State :=
  if (s.ctx c).state != 1 then s
  else
    let s := (s.onCtx c fun x => { x with state := 3 }).beginCount c
    let s := (s.teamsOf c).foldl (fun s t => s.preempt t) s
    s.onSlots fun _ _ x =>
      if x.ctx != c || !s.slotStopped x then x
      else if x.wait = .ready then { x with wait := .switchedOut, waited := .switchedOut, waitCount := 0 }
      else { x with waitCount := 0 }

/-- A team in a saved image becomes a waiting one at the queue engine of the die where its group 0 was (R289). -/
def unsave (s : State) (t : Nat) : State :=
  match (s.team t).image with
  | none => s
  | some img => s.onTeam t fun x =>
      if x.phase = .saved ∨ x.phase = .waiting then { x with phase := .waiting, die := img.core / 96, transit := false } else x

/-- Makes a switched-out context resident again: saved teams may be placed, draining ones run on but for those that a debugger has halted,
receives are re-posted (R249, R286, R289, R304). -/
def switchInCtx (s : State) (c : Nat) : State :=
  if (s.ctx c).state != 2 && (s.ctx c).state != 3 then s
  else
    let s := s.onCtx c fun x => { x with state := 1 }
    let s := (s.teamsOf c).foldl (fun s t =>
      (s.unsave t).onTeam t fun x =>
        if x.halted then x
        else { x with phase := if x.phase = .draining then .placed else x.phase, drain := false }) s
    (s.wakeSlots c .switchedOut).feedAll c

/-- Whether a saving team has nothing left to finish: jobs, fetches, matrix instructions, stores, scoreboard intervals and the
copying of its own image (R138, R139, R204, R288). DESIGN CHOICE (log 20): no clone is placed while its context is switching out, so that a
forking team whose copies await a clone stays saving until the context is switched in (R148, R167). -/
def saveReady (s : State) (t : Nat) : Bool :=
  let x := s.team t
  (s.jobsOf t).isEmpty && (s.coresOfTeam t).all (fun k => (s.core k).mms.all fun m => m.team != t) &&
    (s.threadsOf t).all (fun i => (s.thread i).wc.isEmpty) && x.dirty.isEmpty && x.copies == 0 &&
    (s.ivalsOfTeam t).all fun iv => match iv.space with | .sp u => u != t | .res u _ => u != t

/-- The units that the save area of a context has in use. -/
def savedUnits (s : State) (c : Nat) : Nat :=
  ((s.teams.filter fun e => e.2.ctx == c).map fun e => (e.2.image.map (·.spill)).getD 0).sum

/-- Takes a team with its image off its cores (R288, R289): claims are withdrawn, enqueues that have not left are taken back and issued
again after the restore (R138, R297), and the team keeps its threads, its counts and its reservations, which stand on no core. -/
def unseat (s : State) (t : Nat) (img : TeamImage) : State :=
  let x := s.team t
  let s := (s.clearSlots t).takeBackOuts fun i => teamOf i == t
  let s := (s.groupsOf t).foldl (fun s g => s.onGroup g fun y => { y with core := noCore, blocks := [] }) s
  let s := s.onCore img.core fun k => { k with shadow := k.shadow + img.shadow }
  s.onTeam t fun y =>
    { y with phase := if (s.ctx x.ctx).state = 1 then .waiting else .saved, die := x.core / 96, core := noCore,
             image := some img, resv := y.resv.mapVals fun _ r => { r with core := noCore + (r.core - x.core) } }

/-- Where the next image of a context goes in its save area (R288). DESIGN CHOICE (log 10): behind the units that are in use, for the die that
is charged. -/
def saveArea (s : State) (c : Nat) : Nat := (s.ctx c).save.toNat / 4096 * 4096 + 64 * s.savedUnits c

/-- Writes the image of a team (R288): first into the shadow store of the core of group 0, the rest into the save area, which is charged (R90),
and whose granules a protected context tags (R307). -/
def saveImage (s : State) (t : Nat) : State :=
  let x := s.team t
  let n := Config.imageUnits s.free
  let s := s.draw
  let shadow := min n (16384 - (s.core x.core).shadow)
  let spill := n - shadow
  if bitsAt (s.ctx x.ctx).savesz.toNat 0 24 * 64 < s.savedUnits x.ctx + spill then s.beginTeardown x.ctx 0x51
  else
    let s := ((s.chargeRegion x.ctx (s.saveArea x.ctx) spill).tagRegion x.ctx (s.saveArea x.ctx) spill).onCtx x.ctx fun c =>
      { c with savestatBytes := c.savestatBytes + BitVec.ofNat 32 n, savestatOver := c.savestatOver + BitVec.ofNat 32 spill }
    s.unseat t ⟨x.core, shadow, spill⟩

end State

/-- `SWITCH_OUT` (R286, R304): a write of CTX_CTL sets SWOUT in a context that runs. -/
def execSwitchOut (agent ctx : Nat) (s : State) : Host.Outcome State Fault Refusal :=
  if 1024 ≤ ctx || (s.ctx ctx).state == 0 then .next s
  else .next (s.gated agent false fun s => (s.onCtx ctx fun x => { x with swout := true }).switchOutCtx ctx)

/-- `SWITCH_IN` (R304): a write of CTX_CTL clears SWOUT. -/
def execSwitchIn (agent ctx : Nat) (s : State) : Host.Outcome State Fault Refusal :=
  if 1024 ≤ ctx || (s.ctx ctx).state == 0 then .next s
  else .next (s.gated agent false fun s => (s.onCtx ctx fun x => { x with swout := false }).switchInCtx ctx)

/-- `DRAIN_LIMIT` (R286): a draining team that has not ended by the drain limit is saved. -/
def execDrainLimit (team : Nat) (s : State) : Host.Outcome State Fault Refusal :=
  if ((s.team team).phase = .draining ∨ (s.team team).drain = true) ∧ (s.team team).drainUntil ≤ s.cycle then
    .next (s.beginSave team)
  else .next s

/-- `TEAM_SAVE_COMPLETE` (R288): a team whose outstanding work has finished is saved. A save that ends after its context has been
made resident again leaves the team waiting. -/
def execTeamSaveComplete (team : Nat) (s : State) : Host.Outcome State Fault Refusal :=
  if (s.team team).phase != .saving then .next s
  else
    let s := s.writeBackTeam team
    if s.saveReady team then .next (s.saveImage team) else .next s

/-- `SWITCH_OUT_COMPLETE` (R304). -/
def execSwitchOutComplete (ctx : Nat) (s : State) : Host.Outcome State Fault Refusal :=
  if (s.ctx ctx).state = 3 && (s.teamsOf ctx).all (fun t => !s.seated t) then
    .next (s.onCtx ctx fun x => { x with state := 2 })
  else .next s

/-- `PARTITION_SWAP` (R286, R290): the owner swaps the contexts of a partition out, or in again. -/
def execPartitionSwap (agent lead : Nat) (out : Bool) (s : State) : Host.Outcome State Fault Refusal :=
  .next (s.gated agent false fun s =>
    (s.boundIn lead).foldl (fun s c => if out then s.switchOutCtx c else s.switchInCtx c) s)

/-- `DEBUGGER_HALT` (R286): a debugger halts a team. One that is on its cores, at its arguments or awaiting its image is pre-empted; one that
is being pre-empted goes on to its image, and it is not placed again until it is resumed (log 20). -/
def execDebuggerHalt (team : Nat) (s : State) : Host.Outcome State Fault Refusal :=
  match (s.team team).phase with
  | .placed | .argsHeld | .copying =>
    .next (((s.beginCount (s.team team).ctx).onTeam team fun x => { x with halted := true }).preempt team)
  | .waiting | .draining | .saving | .saved =>
    .next (if (s.teams.find? team).isSome then s.onTeam team fun x => { x with halted := true } else s)
  | .ending => .next s

namespace State

/-- A debugger resumes a thread that stands at a breakpoint, and its team if that is halted: one that drains for it alone runs on (R57,
R286). -/
def resumeThread (s : State) (i : Nat) : State :=
  let s := if (s.thread i).wait = .breakpoint then s.wakeThread i else s
  if (s.team (teamOf i)).halted then
    s.onTeam (teamOf i) fun x => { x with
      halted := false, phase := if x.phase = .draining ∧ (s.ctx x.ctx).state = 1 then .placed else x.phase,
      drain := x.drain && (s.ctx x.ctx).state != 1 }
  else s

end State

namespace State

/-! ## Binding and ending contexts (R250, R295, R303 to R305, R307, R308) -/

/-- Whether the regions of a context have their places (R22, R304). -/
def placesOk (s : State) (c : Nat) : Bool :=
  let x := s.ctx c
  let mine := (s.regions c).filter fun r => r.2 != 0
  let others := ((s.boundIn x.part.toNat).filter fun d => d != c).flatMap fun d => (s.regions d).filter fun r => r.2 != 0
  mine.all (fun r => r.1 + r.2 ≤ reservedStart (s.ctxDies c) && others.all fun o => !spansMeet r.1 r.2 o.1 o.2) &&
    mine.zipIdx.all fun (r, i) => mine.zipIdx.all fun (o, j) => i == j || !spansMeet r.1 r.2 o.1 o.2

/-- The lowest key slot that is free in every controller of a context's partition (R307). -/
def freeKslot (s : State) (c : Nat) : Option Nat :=
  (span 0 64).find? fun n => (s.ctxDies c).all fun d => (s.hub.kslots.find? (64 * d + n)).isNone

/-- Whether a context may be bound (R304). -/
def bindable (s : State) (c : Nat) : Bool :=
  let x := s.ctx c
  let log2n (q : W64) := bitsAt q.toNat 0 5
  s.leadOf x.part.toNat == x.part.toNat && bitAt x.ptroot.toNat 0 &&
    (!x.prot || (!bitAt x.ptroot.toNat 1 && (s.freeKslot c).isSome)) &&
    7 ≤ log2n x.faultq && log2n x.faultq ≤ 16 && 7 ≤ log2n x.errq && log2n x.errq ≤ 16 &&
    (bitsAt x.stack.toNat 16 9 == 0 || bitsAt x.stack.toNat 0 16 != 0) && s.placesOk c

/-- What the device keeps for a context as it is bound, or after its end. -/
def cleared (x : Ctx) : Ctx :=
  { x with
    spent := [], faultSeq := 0, errSeq := 0, under := [], tlb := [], views := [], worlds := [], trigs := [], deferred := [],
    starts := [], walks := [], runs := [], sweep := [], held := [], fwds := [], loops := [],
    posts := [] }

/-- Gives a protected context a key slot with a fresh key (R307). -/
def takeKslot (s : State) (c : Nat) : State :=
  match (s.ctx c).prot, s.freeKslot c with
  | true, some n =>
    let s := s.draw.draw.onCtx c fun x => { x with kslot := BitVec.ofNat 6 n, xtsKey := s.free }
    { s with hub := { s.hub with kslots := (s.ctxDies c).foldl (fun m d => m.set (64 * d + n) c) s.hub.kslots } }
  | _, _ => s

/-- Binds a free context, or refuses (R304). A module that is idle becomes active (R312). -/
def bind (s : State) (c : Nat) : State :=
  if !s.bindable c then s.regError
  else
    let s := (s.takeKslot c).onCtx c fun x => { cleared x with state := 1, cause := 0 }
    let s := s.grant c
    let s := if s.hub.power = .idle then { s with hub := { s.hub with power := .active } } else s
    if (s.ctx c).swout then s.switchOutCtx c else s

/-- CTX_CTL as a word (R303). -/
def ctlWord (x : Ctx) : Nat :=
  (if x.state = 0 then 0 else 1) + b2n x.swout * 2 + b2n x.prot * 8 + x.part.toNat * 16

/-- A write of CTX_CTL (R302 to R304). -/
def writeCtl (s : State) (c : Nat) (p : Put) : State :=
  s.unreserved p (mask 8 63) fun s =>
    let x := s.ctx c
    let w := p.onto (ctlWord x)
    if x.state = 0 then
      let s := s.setCtx c { x with swout := bitAt w 1, prot := bitAt w 3, part := BitVec.ofNat 4 (bitsAt w 4 4) }
      if p.field 0 1 = 1 then s.bind c else s
    else if bitAt w 0 != true || bitAt w 3 != x.prot || bitsAt w 4 4 != x.part.toNat then s.regError
    else
      let s := s.onCtx c fun x => { x with swout := bitAt w 1 }
      let s := if bitAt w 1 && !x.swout then s.switchOutCtx c else if !bitAt w 1 && x.swout then s.switchInCtx c else s
      if p.field 2 1 = 1 then s.beginTeardown c 0x52 else s

/-- Drops what the fabric processors hold for a context, with no completion record (R250). -/
def dropFabric (s : State) (c : Nat) : State :=
  { s with fabs := s.fabs.mapVals fun _ f =>
      let mine := (f.slots.filter fun e => e.2.ctx == c).map (·.1)
      { f with queue := f.queue.filter fun r => r.ctx != c, slots := f.slots.filter fun e => e.2.ctx != c,
               closed := f.closed.filter fun k => k.ctx != c, retained := f.retained.filter fun r => !mine.contains r.slot } }

/-- What a session keeps of a context that ends: the sends held in it are discarded, an enqueue that has left keeps its slot but has no ack
word any more, and its keys stay (R250, R295). -/
def sessionWithout (c : Nat) (x : Session) : Session :=
  let outs := (x.outs.filter fun o => o.sent || o.ctx != c).map fun o => if o.ctx = c then { o with ack := none } else o
  let kept := x.pend.filter Outgoing.isAnswer
  if x.ctx.toNat = c then { x with outs := outs, ins := [], unacked := [], pend := kept } else { x with outs := outs }

/-- Drops what the sessions hold for a context: its held sends, its enqueues that have not left, and those that have arrived and whose
payload waits, which can no longer be written and are answered so (R89, R250, R295). -/
def dropEnqueues (s : State) (c : Nat) : State :=
  let s := s.sessions.foldl (fun s' e =>
    if e.2.ctx.toNat = c then e.2.ins.foldl (fun s' q => s'.answerEnqueue (e.1 / 8192) (e.1 % 8192) q.msg.psn 0x80) s' else s') s
  { s with sessions := s.sessions.mapVals fun _ x => sessionWithout c x }

/-- Discards the side-log entries of a context, lets who waits for room try again, and stops its held queues (R71, R128). -/
def dropLogs (s : State) (c : Nat) : State :=
  let s := { s with cores := s.cores.mapVals fun _ k => { k with log := k.log.filter fun e => e.ctx != c } }
  let s := { s with wqs := s.wqs.mapVals fun _ q =>
    if q.ctx.toNat = c && q.held then { q with held := false, err := true } else q }
  s.wake .sideLog fun _ => true

/-- A team of a protected context ends: its threads and jobs are gone, its registers, scratchpad and reservations stay until they
are scrubbed (R308). -/
def muteTeam (s : State) (t : Nat) : State :=
  let s := s.cancelJobs t false
  let s := (s.clearSlots t).takeBackOuts fun i => teamOf i == t
  let s := { s with threads := s.threads.filter fun e => teamOf e.1 != t }
  s.onTeam t fun x => { x with phase := .ending, killed := true, dirty := [] }

/-- Steps 2 and 3 of a teardown (R250, R295, R308). -/
def endCtx (s : State) (c : Nat) : State :=
  let prot := (s.ctx c).state == 5
  let s := (((s.dropLogs c).dropFabric c).dropEnqueues c).onCtx c cleared
  let s := (s.teamsOf c).foldl (fun s t => if prot && (s.team t).core != noCore then s.muteTeam t else s.dropTeam t) s
  if prot then
    s.onHub fun h => { h with scrubs := h.scrubs.map fun x => if x.ctx = c then { x with ended := true } else x }
  else s.onCtx c fun x => { x with state := 0 }

end State

/-- `CONTEXT_TEARDOWN` (R295): a teardown that has begun proceeds. An unprotected context becomes free. -/
def execContextTeardown (ctx : Nat) (s : State) : Host.Outcome State Fault Refusal :=
  if (s.ctx ctx).state = 4 ∨ (s.ctx ctx).state = 5 then .next (s.endCtx ctx) else .next s

/-- `CONTEXT_BIND` (R304): a whole write of CTX_CTL with BIND 1 to a free context. -/
def execContextBind (agent ctx : Nat) (value : W64) (s : State) : Host.Outcome State Fault Refusal :=
  if 1024 ≤ ctx || (s.ctx ctx).state != 0 then .next s
  else .next (s.gated agent false fun s => s.writeCtl ctx (.whole 64 (value ||| 1).toNat))

/-- `CONTEXT_KILL` (R303): a write of CTX_CTL with KILL 1 and all else unchanged. -/
def execContextKill (agent ctx : Nat) (s : State) : Host.Outcome State Fault Refusal :=
  if 1024 ≤ ctx then .next s
  else .next (s.gated agent false fun s => s.writeCtl ctx (.whole 64 (State.ctlWord (s.ctx ctx) + 4)))

namespace State

/-! ## The scrub (R308, R309) -/

/-- The granules tagged with a slot in a set of dies, by key div 4096 (R307). -/
def taggedWith (s : State) (dies : List Nat) (slot : Nat) : List Nat :=
  (s.hub.tags.filter fun e => e.2 == slot && dies.contains (e.1 / 2 ^ 24)).map (·.1)

/-- 4 KiB units of core state that a context's teams hold, rounded up per resource and core (R309). Reservations count 256 B units (R109). -/
def coreUnits (s : State) (c : Nat) : Nat :=
  let ks := dedupNat ((s.teamsOf c).flatMap s.coresOfTeam)
  (ks.map fun k =>
    let gs := s.groups.filter fun e => e.2.core == k && (s.team (e.1 / 16)).ctx == c
    let regs := (gs.map fun e => (s.team (e.1 / 16)).record.width * (4 * e.2.count + 16)).sum
    let ts := (s.teamsOf c).map s.team
    let sp := (ts.map fun x =>
      let (lo, hi) := halves x.record
      (if x.core = k then lo else 0) + (if x.record.twin ∧ x.core + 1 = k then hi else 0)).sum
    let rs := (ts.flatMap fun x => x.resv.filter fun r => r.2.core == k).map fun r => r.2.units
    ceilDiv regs 4096 + sp + ceilDiv (256 * rs.sum) 4096).sum

/-- Whether the teardown of a context has left only what the scrub releases: its step 2 is done, and its teams are (R295, R308). -/
def muted (s : State) (x : Scrub) : Bool :=
  x.ended && (s.teamsOf x.ctx).all fun t => (s.team t).phase == .ending && (s.threadsOf t).isEmpty

end State

/-- `SCRUB_CORE_STATE` (R308): the core resources of the first context awaiting scrub have been zeroed, and are released. -/
def execScrubCoreState (s : State) : Host.Outcome State Fault Refusal :=
  match s.hub.scrubs with
  | [] => .next s
  | x :: xs =>
    if 2 ≤ x.phase || !s.muted x then .next s
    else
      let s := (s.teamsOf x.ctx).foldl (fun s t => s.dropTeam t) s
      let gs := s.taggedWith (s.ctxDies x.ctx) x.slot
      .next { s with hub := { s.hub with scrubs := { x with phase := 2, granules := gs, journal := gs } :: xs } }

/-- `SCRUB_GRANULE` (R308, R309): the controller of a die zeroes the next granule, no more than 64 beyond the journal. -/
def execScrubGranule (die : Nat) (s : State) : Host.Outcome State Fault Refusal :=
  match s.hub.scrubs with
  | [] => .next s
  | x :: xs =>
    let here (gs : List Nat) := gs.filter fun g => g / 2 ^ 24 == die
    match here x.granules with
    | [] => .next s
    | g :: _ =>
      if x.phase != 2 || 64 ≤ (here x.journal).length - (here x.granules).length then .next s
      else .next { s with
        mem := s.mem.writes (g * 4096) (fixBytes 4096 []),
        hub := { s.hub with tags := s.hub.tags.erase g, enciphered := s.hub.enciphered.filter fun e => e.1 / 256 != g,
                            scrubs := { x with granules := x.granules.filter fun h => h != g } :: xs } }

/-- `SCRUB_JOURNAL_WRITE` (R309): the journal takes the controllers' cursors. -/
def execScrubJournalWrite (s : State) : Host.Outcome State Fault Refusal :=
  match s.hub.scrubs with
  | [] => .next s
  | x :: xs =>
    let due := (span 0 16).all fun d =>
      let left := (x.granules.filter fun g => g / 2 ^ 24 == d).length
      left == 0 || 64 ≤ (x.journal.filter fun g => g / 2 ^ 24 == d).length - left
    if due && x.journal != x.granules then
      .next { s with hub := { s.hub with scrubs := { x with journal := x.granules } :: xs } }
    else .next s

/-- `SCRUB_END` (R308): the last granule is done: the context is free, its slot released, and vector 2,049 is raised. -/
def execScrubEnd (s : State) : Host.Outcome State Fault Refusal :=
  match s.hub.scrubs with
  | [] => .next s
  | x :: xs =>
    if x.phase != 2 || !x.granules.isEmpty then .next s
    else
      let s := if x.ctx < 1024 then s.onCtx x.ctx fun y => { y with state := 0, kslot := 0 } else s
      let s := s.onHub fun h => { h with scrubs := xs, kslots := h.kslots.filter fun e => e.2 != x.ctx }
      .next (s.interrupt 2049)

end Sys2Proof.Machine
end

