-- ==== Sys2Proof/Machine/Session.lean ====
section
/-! DEFINITION. Sessions: their configuration (R305, R306), handshakes (R245, R246), the rotation of keys (R247) and their failure
(R248). -/

namespace Sys2Proof.Machine

namespace State

/-! ## Handshake datagrams (R245, R246) -/

/-- The peer's identity key as the session allows it (R306). -/
def peerKey (x : Session) : List Byte := tabBytes x.idkey 0 32

/-- The module's identity key (R311). -/
def ownKey : List Byte := Crypto.publicKey Config.identitySeed

/-- Whether a key is lower than another, compared as unsigned bytes from byte 0 (R246). -/
def keyLess : List Byte → List Byte → Bool
  | [], _ => false
  | _, [] => false
  | a :: as, b :: bs => a.toNat < b.toNat || (a == b && keyLess as bs)

/-- Bytes 0 to 139 of a datagram of this module (R246). -/
def dgramBody (type epoch : Nat) (nonce xpub peer : List Byte) : List Byte :=
  natLe 1 type ++ natLe 1 1 ++ natLe 2 0 ++ natLe 8 epoch ++ nonce ++ xpub ++ ownKey ++ peer

/-- A signed datagram (R246). -/
def dgram (type epoch : Nat) (nonce xpub peer : List Byte) : List Byte :=
  let body := dgramBody type epoch nonce xpub peer
  body ++ Crypto.sign Config.identitySeed body

/-- The offer's datagram. -/
def offerDgram (o : Offer) : List Byte := dgram 1 o.epoch o.nonce o.xpub (fixBytes 32 [])

/-- A field of a received datagram. -/
def dgField (bs : List Byte) (off n : Nat) : List Byte := fixBytes n (bs.drop off)

/-- Whether a received datagram passes its checks: VER, IDKEY and signature (R245, R246). -/
def dgramOk (x : Session) (bs : List Byte) : Bool :=
  bs.length == 204 && leNat (dgField bs 1 1) == 1 && dgField bs 76 32 == peerKey x &&
    Crypto.verify (peerKey x) (bs.take 140) (dgField bs 140 64)

/-- The text at the start of the info of R245, "skovvaber v9 uet". -/
def infoText : List Byte :=
  [0x73, 0x6B, 0x6F, 0x76, 0x76, 0x61, 0x62, 0x65, 0x72, 0x20, 0x76, 0x39, 0x20, 0x75, 0x65, 0x74]

/-- The own X25519 secret of a draw, and its public value (R245). -/
def ownSecret (draw : Nat) : List Byte := fixBytes 32 (Config.secretBytes draw)
def ownPublic (draw : Nat) : List Byte := Crypto.x25519Base (ownSecret draw)

/-- The 40 bytes of key material (R245): from the draw of the own secret, the peer's public value, both nonces and both keys. -/
def keyMaterial (draw epoch : Nat) (peerX offerN answerN offerer answerer : List Byte) : List Byte :=
  Crypto.hkdf (offerN ++ answerN) (Crypto.x25519 (ownSecret draw) peerX)
    (infoText ++ natLe 8 epoch ++ offerer ++ answerer) 40

/-- A handshake datagram leaves on a port of the serving processor whose link is up; which one is left open. With none up it does not leave,
and the offer comes again by its 100 ms (R244, R246, R485; log 42). -/
def sendDgram (s : State) (fd slot : Nat) (bs : List Byte) : State :=
  let ports := s.upPorts fd slot
  if ports.isEmpty then s
  else s.draw.emit (.handshake fd slot (ports.getD (Config.choice s.free % ports.length) 0) bs)

/-- Sends an offer for an epoch with a fresh nonce and pair (R246). -/
def makeOffer (s : State) (fd slot epoch : Nat) : State :=
  let o : Offer :=
    ⟨epoch, fixBytes 32 (Config.randomBytes s.free), ownPublic s.free, s.free, 0, s.cycle⟩
  (s.draw.onSession fd slot fun x => { x with offer := some o }).sendDgram fd slot (offerDgram o)

/-- Places a derived key: the first as the current one, a later one as the next (R245, R247). -/
def installKey (s : State) (fd slot epoch : Nat) (material : List Byte) (offerer : Bool) : State :=
  let k : SessKey := ⟨epoch, material, offerer, 0, s.cycle⟩
  (s.onSession fd slot fun x =>
    if epoch = 0 then { x with key := some k, next := none, old := none, firstNew := none, stale := false }
    else { x with next := some k }).flushPend fd slot

/-- Whether an offer of an epoch is due: the first while there is no key, the one after the current key's, or the current one's
while nothing has been sent under it. -/
def epochDue (x : Session) (epoch : Nat) : Bool :=
  match x.key with
  | none => epoch == 0
  | some k => epoch == k.epoch + 1 || (epoch == 0 && k.epoch == 0 && k.sent == 0)

/-- Whether the peer's offer is to be answered (R246): of epoch 0 only the module with the lower key's; of a later epoch, any but
one that meets an own offer of the module with the lower key. -/
def answersOffer (x : Session) (epoch : Nat) : Bool :=
  epochDue x epoch &&
    (if epoch = 0 then keyLess (peerKey x) ownKey
     else !(x.offer.any fun o => o.epoch == epoch && keyLess ownKey (peerKey x)))

/-- Answers an offer: a fresh nonce and pair, the key, and the answer (R245, R246). -/
def answerOffer (s : State) (fd slot : Nat) (bs : List Byte) : State :=
  let x := s.session fd slot
  let epoch := leNat (dgField bs 4 8)
  let nonce := fixBytes 32 (Config.randomBytes s.free)
  let m := keyMaterial s.free epoch (dgField bs 44 32) (dgField bs 12 32) nonce (peerKey x) ownKey
  let reply := dgram 2 epoch nonce (ownPublic s.free) (dgField bs 12 32)
  ((s.draw.onSession fd slot fun x => { x with offer := none }).sendDgram fd slot reply).installKey fd slot epoch m false

end State

/-- `HANDSHAKE_OFFER` (R246): an offer arrives, and is checked and answered. -/
def execHandshakeOffer (fd slot : Nat) (dgram : List Byte) (s : State) : Host.Outcome State Fault Refusal :=
  let x := s.session fd slot
  if !x.en || x.failed || leNat (State.dgField dgram 0 1) != 1 then .next s
  else if !State.dgramOk x dgram then .next (s.countDrop (State.servingProc fd slot))
  else if State.answersOffer x (leNat (State.dgField dgram 4 8)) then .next (s.answerOffer fd slot dgram)
  else .next s

/-- `HANDSHAKE_ANSWER` (R245, R246): an answer arrives, and the key is derived and placed. DESIGN CHOICE (log 42): an answer of another EPOCH
than the offer's, or with no offer outstanding, is discarded and counted. -/
def execHandshakeAnswer (fd slot : Nat) (dgram : List Byte) (s : State) : Host.Outcome State Fault Refusal :=
  let x := s.session fd slot
  if !x.en || x.failed || leNat (State.dgField dgram 0 1) != 2 then .next s
  else match x.offer with
    | none => .next (s.countDrop (State.servingProc fd slot))
    | some o =>
      if !State.dgramOk x dgram || State.dgField dgram 108 32 != o.nonce || leNat (State.dgField dgram 4 8) != o.epoch then
        .next (s.countDrop (State.servingProc fd slot))
      else
        let m := State.keyMaterial o.draw o.epoch (State.dgField dgram 44 32) o.nonce (State.dgField dgram 12 32) State.ownKey
          (State.peerKey x)
        .next ((s.onSession fd slot fun x => { x with offer := none }).installKey fd slot o.epoch m true)

/-- `HANDSHAKE_RETRY` (R246): an offer without answer for 100 ms is sent again, up to 16 times; then the session fails (R248). -/
def execHandshakeRetry (fd slot : Nat) (s : State) : Host.Outcome State Fault Refusal :=
  match (s.session fd slot).offer with
  | none => .next s
  | some o =>
    if s.cycle < o.sentAt + 125000000 then .next s
    else if 16 ≤ o.retries then .next (s.failSession fd slot)
    else .next ((s.onSession fd slot fun x =>
      { x with offer := some { o with retries := o.retries + 1, sentAt := s.cycle } }).sendDgram fd slot (State.offerDgram o))

/-! ## Rotation (R247, R248) -/

/-- `KEY_ROTATION_START` (R247): after 2^31 packets, or 59 minutes, the handshake for the next epoch starts. -/
def execKeyRotationStart (fd slot : Nat) (s : State) : Host.Outcome State Fault Refusal :=
  let x := s.session fd slot
  match x.key with
  | none => .next s
  | some k =>
    let due := 2 ^ 31 ≤ k.sent || 59 * 60 * 1250000000 ≤ s.cycle - k.since
    if !x.en || x.failed || !due || x.next.isSome || x.offer.isSome then .next s
    else .next (s.makeOffer fd slot (k.epoch + 1))

/-- `KEY_SWITCH` (R247): a spent key gives way to the next, or the session fails. -/
def execKeySwitch (fd slot : Nat) (s : State) : Host.Outcome State Fault Refusal :=
  let x := s.session fd slot
  match x.key with
  | none => .next s
  | some k =>
    if !x.en || x.failed || !s.keySpent k then .next s
    else if x.next.isSome then .next (s.switchKey fd slot)
    else .next (s.failSession fd slot)

/-- `OLD_KEY_DISCARD` (R247): ten seconds after the first packet under the new key, the old one is discarded. -/
def execOldKeyDiscard (fd slot : Nat) (s : State) : Host.Outcome State Fault Refusal :=
  .next (s.onSession fd slot (State.discardOld s.cycle))

/-- `TRANSPORT_GIVE_UP` (R248): a packet, of a collective or of an enqueue, is given up after its retry limit, and the session fails. -/
def execTransportGiveUp (fd slot pkt : Nat) (s : State) : Host.Outcome State Fault Refusal :=
  let x := s.session fd slot
  if x.unacked.any (fun e => e.1 == pkt) || x.outs.any (fun o => o.sent && o.serial == pkt) then .next (s.failSession fd slot)
  else .next s

namespace State

/-! ## Session entries (R305, R306) -/

/-- SESS_CTL as a word (R306). -/
def sessCtl (x : Session) : Nat :=
  b2n x.en + b2n x.v6 * 2 + b2n x.failed * 4 + b2n x.key.isSome * 8 + x.ctx.toNat * 65536

/-- Key derivation begins: the module with the lower identity key sends the first offer (R245, R246). -/
def beginKeys (s : State) (fd slot : Nat) : State :=
  let s := s.onSession fd slot fun x =>
    { x with offer := none, key := none, next := none, old := none, firstNew := none, stale := false, seen := [], enqNext := 0,
             enqDue := 0, early := [], enqSeen := [] }
  if keyLess ownKey (peerKey (s.session fd slot)) then s.makeOffer fd slot 0 else s

/-- A session is disabled: its keys are zeroised, what waits for it is dropped, and its held packets are folded (R248, R306). -/
def endSession (s : State) (fd slot : Nat) : State :=
  let s := s.foldSession fd slot
  let s := s.onSession fd slot fun x =>
    { x with en := false, offer := none, key := none, next := none, old := none, firstNew := none, stale := false, outs := [],
             ins := [], unacked := [], pend := [], seen := [], enqNext := 0, enqDue := 0, early := [], enqSeen := [] }
  (s.onSlots fun _ _ x => if x.wait = .receive then { x with wait := .ready } else x).wake .remoteSlot fun _ => true

/-- A write of SESS_CTL (R305, R306). -/
def writeSessCtl (s : State) (fd slot : Nat) (p : Put) : State :=
  s.unreserved p (mask 4 15) fun s =>
    let x := s.session fd slot
    let w := p.onto (sessCtl x)
    let c := bitsAt w 16 16
    if bitAt w 0 && !x.en && 1024 ≤ c then s.regError
    else
      let clear := p.field 2 1 = 1 && x.failed
      let s := s.onSession fd slot fun x =>
        { x with v6 := bitAt w 1, ctx := BitVec.ofNat 16 c, failed := x.failed && !clear, en := bitAt w 0 }
      if x.en && !bitAt w 0 then s.endSession fd slot
      else if (bitAt w 0 && !x.en) || (clear && bitAt w 0) then s.beginKeys fd slot
      else s

/-- Writes a byte of a session's address, port or allowed key, which is ignored while the session is enabled (R306). -/
def putSessByte (s : State) (fd slot off : Nat) (b : Byte) : State :=
  s.onSession fd slot fun x =>
    if x.en then x
    else if off = 4 ∨ off = 5 then { x with port := BitVec.ofNat 16 (putBits x.port.toNat (8 * (off - 4)) 8 b.toNat) }
    else if 8 ≤ off ∧ off < 24 then { x with peer := x.peer.set (off - 8) b }
    else if 24 ≤ off ∧ off < 56 then { x with idkey := x.idkey.set (off - 24) b }
    else x

end State

/-- `SESSION_ENABLE` (R306): a whole write of SESS_CTL with EN 1. -/
def execSessionEnable (agent fd slot : Nat) (value : W32) (s : State) : Host.Outcome State Fault Refusal :=
  if 4 ≤ fd || 8192 ≤ slot then .next s
  else .next (s.gated agent false fun s => s.writeSessCtl fd slot (.whole 32 (value ||| 1).toNat))

/-- `SESSION_DISABLE` (R306): a write of SESS_CTL that clears EN alone. -/
def execSessionDisable (agent fd slot : Nat) (s : State) : Host.Outcome State Fault Refusal :=
  if 4 ≤ fd || 8192 ≤ slot then .next s
  else .next (s.gated agent false fun s => s.writeSessCtl fd slot ⟨0, 1⟩)

/-- `SESSION_FAILED_CLEAR` (R306): a write of SESS_CTL that clears FAILED alone. -/
def execSessionFailedClear (agent fd slot : Nat) (s : State) : Host.Outcome State Fault Refusal :=
  if 4 ≤ fd || 8192 ≤ slot then .next s
  else .next (s.gated agent false fun s => s.writeSessCtl fd slot ⟨4, 4⟩)

end Sys2Proof.Machine
end

