-- ==== Sys2Proof/Machine/Reset.lean ====
section
/-! DEFINITION. Reset and power (R309, R310, R312). -/

namespace Sys2Proof.Machine

namespace State

/-! ## The reset sequence (R309, R310, R312) -/

/-- Whether an image passes the boot ROM's check: a signature over its hash, and a version at or above the fused minimum (R310). -/
def imageOk (minimum : Nat) (x : List Byte × List Byte × Nat) : Bool :=
  Crypto.verify Config.firmwareKey (Crypto.sha512 x.1) x.2.1 && minimum ≤ x.2.2

/-- The images after a reset: those in force, or what a staged image makes of them (R310). -/
def bootImages (h : Hub) : List (List Byte × List Byte × Nat) :=
  if h.staging.isEmpty then h.firmware else Config.stagedImages h.staging h.firmware

/-- The boot ROM checks the three images: a staged one takes effect (R310), READY is set when the check passes (R300, R312), and the fused
minimum rises to the version that has booted. DESIGN CHOICE (log 49): of three versions that is the lowest. -/
def boot (s : State) : State :=
  let is := bootImages s.hub
  let ok := is.length == 3 && is.all (imageOk s.hub.minVersion)
  s.onHub fun h => { h with firmware := is, staging := [], fwerr := !ok, ready := ok,
                            minVersion := if ok then max h.minVersion (versionOf is) else h.minVersion }

/-- The granules that are tagged, but with the slot of no context that is scrubbed. -/
def strayTags (s : State) (scrubs : List Scrub) : List Nat :=
  (s.hub.tags.map (·.1)).filter fun g => !scrubs.any fun x => x.granules.contains g

/-- The contexts whose granules are to be scrubbed after a warm reset, with what is left of each (R309, R312): those awaiting scrub
in their order, from the journal on, then every other protected context. Granules tagged with the slot of none of them, which no run
leaves, come last, under the number 1,024 of no context (DESIGN CHOICE, log 49). -/
def scrubsAfter (s : State) : List Scrub :=
  let old := s.hub.scrubs.map fun x =>
    if x.phase = 2 then { x with granules := x.journal }
    else
      let gs := s.taggedWith (s.ctxDies x.ctx) x.slot
      { x with phase := 2, ended := true, granules := gs, journal := gs }
  let more := s.ctxs.filter fun e => e.2.prot && e.2.state != 0 && e.2.state != 5
  let all := old ++ more.map fun e =>
    let gs := s.taggedWith (s.ctxDies e.1) e.2.kslot.toNat
    ({ ctx := e.1, slot := e.2.kslot.toNat, phase := 2, ended := true, granules := gs, journal := gs } : Scrub)
  let rest := s.strayTags all
  if rest.isEmpty then all
  else all ++ [{ ctx := 1024, slot := 0, phase := 2, ended := true, granules := rest, journal := rest }]

/-- A context descriptor after a warm reset: free, or scrubbing with its slot and partition. -/
def afterWarm (scrubs : List Scrub) (c : Nat) (x : Ctx) : Ctx :=
  if scrubs.any fun e => e.ctx == c then
    { Ctx.reset with prot := x.prot, part := x.part, kslot := x.kslot, state := 5, cause := x.cause }
  else .reset

/-- What a warm reset leaves before the firmware is checked (R76, R238, R312): contexts are torn down, keys zeroised, ownership
released; HBM, HUB_PARTCFG, the tags, the enrolled keys, the staged image and the board's own registers stay. -/
def quiesce (s : State) : State :=
  let h := s.hub
  let scrubs := s.scrubsAfter
  let hub : Hub := { Hub.reset with
    partcfg := h.partcfg, nonce := Config.randomWord s.free, keys := h.keys, agentsel := h.agentsel, agentlock := h.agentlock,
    staging := h.staging, firmware := h.firmware, minVersion := h.minVersion, enciphered := h.enciphered, pendingVectors := h.pendingVectors, linkDown := h.linkDown, power := h.power,
    pcap := h.pcap, temps := h.temps, watts := h.watts, throttle := h.throttle,
    kslots := h.kslots.filter fun e => scrubs.any fun x => x.ctx == e.2, tags := h.tags, scrubs := scrubs }
  { State.reset with
    mem := s.mem, ctxs := s.ctxs.mapVals (afterWarm scrubs), hub := hub, portsDown := s.portsDown, wire := s.wire,
    turns := s.turns, free := s.free + 1, serial := s.serial, dbg := s.dbg }

/-- A warm reset (R312). -/
def warm (s : State) : State := { s.quiesce with hub := { s.quiesce.hub with power := .active } }.boot

/-- All state is lost, HBM included (R312); the fused minimum version stays (R310). -/
def lost (s : State) : State :=
  { State.reset with
    hub := { Hub.reset with nonce := Config.randomWord s.free, minVersion := s.hub.minVersion }, wire := s.wire, turns := s.turns, free := s.free + 1,
    serial := s.serial }

/-- The board asks for a power state (R312): IDLE only while no context is bound. SELFREF keeps HBM, OFF does not. Power is
restored by asking for ACTIVE, and the module then waits for its warm reset. DESIGN CHOICE (log 38): the hub's own registers, HUB_PARTCFG, the
enrolled keys, AGENTLOCK, PCAP and the staged image among them, keep their values through SELFREF and OFF, though the module has no island
that stays powered (R28). -/
def powerTo (s : State) (x : Nat) : State :=
  match x with
  | 0 => { s with hub := { s.hub with power := .active } }
  | 1 => if s.powered && s.ctxs.all fun e => e.2.state == 0 then { s with hub := { s.hub with power := .idle } } else s
  | 2 => if s.powered then { s.quiesce with hub := { s.quiesce.hub with power := .selfref } } else s
  | 3 =>
    let t := s.quiesce
    { t with mem := [], ctxs := [], hub := { t.hub with power := .off, tags := [], enciphered := [], scrubs := [], kslots := [] } }
  | _ => s

end State

/-- `WARM_RESET` (R312): the owner writes 1 to HUB_RESET bit 0. -/
def execWarmReset (agent : Nat) (s : State) : Host.Outcome State Fault Refusal := .next (s.gated agent true (·.warm))

/-- `COLD_RESET` (R312): all state is lost, and the module starts anew. -/
def execColdReset (s : State) : Host.Outcome State Fault Refusal := .next s.lost.boot

/-- `RESET_REQ` (R312): the board writes 0xA5 and asks for a warm reset. -/
def execResetReq (value : Byte) (s : State) : Host.Outcome State Fault Refusal :=
  if value = 0xA5 ∧ s.powered then .next s.warm else .next s

/-- `PWR_REQ` (R312): the board asks for a power state. -/
def execPwrReq (value : Byte) (s : State) : Host.Outcome State Fault Refusal := .next (s.powerTo value.toNat)

/-- `POWER_REMOVAL` (R312): the board removes power. -/
def execPowerRemoval (s : State) : Host.Outcome State Fault Refusal :=
  .next { s.lost with hub := { s.lost.hub with power := .off } }

end Sys2Proof.Machine
end

