-- ==== Sys2Proof/Machine/Registers.lean ====
section
/-! DEFINITION. The registers of BAR0 by address (R299, R484): writes (R6, R302), reads, and the host's accesses to partition memory
(R22, R140, R144, R298, R307). -/

namespace Sys2Proof.Machine

/-! ## The map (R299) -/

/-- A register of BAR0, or the 4-byte unit of a byte window. -/
inductive HubReg where
  | status | own | nonce | partcfg | scrub | reset | fresp | xinv
  | claim (a off : Nat)
  | attNonce (off : Nat)
  | report (off : Nat)
  | wqBase (q : Nat) | wqCfg (q : Nat) | wqHead (q : Nat) | wqDoorbell (q : Nat)
  | ctl (c : Nat)
  | word (c off : Nat)
  | savestat (c : Nat) (spill : Bool)
  | budget (c i : Nat)
  | ctxstat (c : Nat)
  | ctxReserved (c off : Nat)
  | threadWaits (k off : Nat)
  | slotWait (p i : Nat)
  | sessCtl (fd slot : Nat)
  | sessBytes (fd slot off : Nat)
  | counter (p i : Nat)
  | staging (off : Nat)
  | none
deriving DecidableEq, Repr

/-- The hub's own registers, by offset from 0x0010_0000 to 0x0010_11FF. -/
def hubRegAt (o : Nat) : HubReg :=
  if o < 0x30 then
    match o / 4 with
    | 0 | 1 => .status | 2 => .own | 4 | 5 => .nonce | 6 | 7 => .partcfg | 8 | 9 => .scrub | 10 | 11 => .reset | _ => .none
  else if 0x100 ≤ o ∧ o < 0x108 then .fresp
  else if 0x110 ≤ o ∧ o < 0x118 then .xinv
  else if 0x200 ≤ o ∧ o < 0x400 then if (o - 0x200) % 128 < 72 then .claim ((o - 0x200) / 128) ((o - 0x200) % 128) else .none
  else if 0x800 ≤ o ∧ o < 0x820 then .attNonce (o - 0x800)
  else if 0x1000 ≤ o ∧ o < 0x1200 then .report (o - 0x1000)
  else .none

/-- The registers of a work queue (R70). -/
def wqRegAt (q o : Nat) : HubReg :=
  match o / 4 with
  | 0 | 1 => .wqBase q | 2 => .wqCfg q | 4 => .wqHead q | 6 => .wqDoorbell q | _ => .none

/-- The words of a context descriptor (R302). -/
def ctxRegAt (c o : Nat) : HubReg :=
  if o < 8 then .ctl c
  else if o = 0x58 then .savestat c false
  else if o = 0x5C then .savestat c true
  else if 0xA8 ≤ o ∧ o < 0xB8 then .budget c ((o - 0xA8) / 4)
  else if 0xC8 ≤ o ∧ o < 0xD0 then .ctxstat c
  else if o < 0xC0 then .word c (o / 8 * 8)
  else .ctxReserved c o

/-- The bytes of a session entry (R306). -/
def sessRegAt (fd slot o : Nat) : HubReg :=
  if o < 4 then .sessCtl fd slot else if o < 56 then .sessBytes fd slot o else .none

/-- The register of a 4-byte unit of BAR0 (R299). -/
def regAt (o : Nat) : HubReg :=
  if 0x100000 ≤ o ∧ o < 0x101200 then hubRegAt (o - 0x100000)
  else if 0x200000 ≤ o ∧ o < 0x240000 then wqRegAt ((o - 0x200000) / 32) (o % 32)
  else if 0x400000 ≤ o ∧ o < 0x440000 then ctxRegAt ((o - 0x400000) / 256) (o % 256)
  else if 0x800000 ≤ o ∧ o < 0x980000 then .threadWaits ((o - 0x800000) / 1024) (o % 1024)
  else if 0xE00000 ≤ o ∧ o < 0xE02000 then
    if o % 16 < 4 then .slotWait ((o - 0xE00000) / 256) ((o - 0xE00000) / 16 % 16) else .none
  else if 0xE10000 ≤ o ∧ o < 0xE10800 then
    if o % 64 < 32 then .counter ((o - 0xE10000) / 64) (o % 64 / 8) else .none
  else if 0x1000000 ≤ o ∧ o < 0x1400000 then sessRegAt ((o - 0x1000000) / 0x100000) (o % 0x100000 / 128) (o % 128)
  else if 0x2000000 ≤ o ∧ o < 0x2800000 then .staging (o - 0x2000000)
  else .none

/-- Whether a register is 64 bits wide. -/
def HubReg.wide : HubReg → Bool
  | .status | .nonce | .partcfg | .scrub | .reset | .fresp | .xinv => true
  | .wqBase _ | .ctl _ | .word _ _ | .ctxstat _ | .counter _ _ => true
  | _ => false

/-- Whether a register responds while the firmware has failed its check (R310). -/
def HubReg.always : HubReg → Bool
  | .status | .own | .nonce | .reset | .claim _ _ | .attNonce _ | .report _ | .staging _ => true
  | _ => false

/-! ## Context descriptors (R271, R302) -/

/-- A word of a descriptor by its offset. -/
def descGet (x : Ctx) (off : Nat) : W64 :=
  match off with
  | 0x08 => x.ptroot | 0x10 => x.pasid | 0x18 => x.tvec | 0x20 => x.deleg | 0x28 => x.faultq | 0x30 => x.errq
  | 0x38 => x.preempt | 0x40 => x.wdog | 0x48 => x.save | 0x50 => x.savesz | 0x60 => x.stkbase | 0x68 => x.stack
  | 0x70 => x.vpbase | 0x78 => x.vpsize | 0x80 => x.station | 0x88 => x.carav | 0x90 => x.caravsz | 0x98 => x.resid
  | 0xA0 => x.htf | 0xB8 => x.bal | _ => 0

/-- A descriptor with a word replaced. -/
def descSet (x : Ctx) (off : Nat) (v : W64) : Ctx :=
  match off with
  | 0x08 => { x with ptroot := v } | 0x10 => { x with pasid := v } | 0x18 => { x with tvec := v }
  | 0x20 => { x with deleg := v } | 0x28 => { x with faultq := v } | 0x30 => { x with errq := v }
  | 0x38 => { x with preempt := v } | 0x40 => { x with wdog := v } | 0x48 => { x with save := v }
  | 0x50 => { x with savesz := v } | 0x60 => { x with stkbase := v } | 0x68 => { x with stack := v }
  | 0x70 => { x with vpbase := v } | 0x78 => { x with vpsize := v } | 0x80 => { x with station := v }
  | 0x88 => { x with carav := v } | 0x90 => { x with caravsz := v } | 0x98 => { x with resid := v }
  | 0xA0 => { x with htf := v } | 0xB8 => { x with bal := v } | _ => x

/-- The reserved bits of a descriptor word (R96, R142, R234, R235, R251, R271, R282, R302). -/
def descRsvd (off : Nat) : Nat :=
  match off with
  | 0x08 => mask 2 11 ||| mask 56 63 | 0x10 => mask 20 63 | 0x18 => mask 57 63 | 0x20 => mask 3 63 | 0x28 => mask 5 11
  | 0x30 => mask 5 11 | 0x38 => mask 17 63 | 0x40 => mask 24 63 | 0x48 => mask 0 11 | 0x50 => mask 24 63
  | 0x60 => mask 0 15 | 0x68 => mask 25 63 | 0x70 => mask 0 11 | 0x78 => mask 24 63 | 0x80 => mask 0 11
  | 0x88 => mask 0 11 | 0x90 => mask 24 63 | 0x98 => mask 0 11 | 0xA0 => mask 46 63 | 0xB8 => mask 16 31 | _ => mask 0 63

/-- Whether a word may be written while the context is not free (R302). -/
def descLive (off : Nat) : Bool := off == 0x20 || off == 0x38 || off == 0x40 || off == 0xB8

namespace State

/-- A write of a descriptor word (R302). -/
def writeDesc (s : State) (c off : Nat) (p : Put) : State :=
  let x := s.ctx c
  if x.state != 0 && !descLive off then s.regError
  else s.unreserved p (descRsvd off) fun s => s.setCtx c (descSet x off (BitVec.ofNat 64 (p.onto (descGet x off).toNat)))

/-- A write of a budget (R90). -/
def writeBudget (s : State) (c i : Nat) (p : Put) : State :=
  let put (old : W32) : W32 := BitVec.ofNat 32 (p.onto old.toNat)
  s.onCtx c fun x =>
    match i with
    | 0 => { x with budgetIssue := put x.budgetIssue }
    | 1 => { x with budgetHbm := put x.budgetHbm }
    | 2 => { x with budgetCopy := put x.budgetCopy }
    | _ => { x with budgetFabric := put x.budgetFabric }

/-- HUB_CTXSTAT (R303). -/
def ctxStat (x : Ctx) : Nat :=
  x.state.toNat + x.cause.toNat * 2 ^ 8 + x.errdrop.toNat * 2 ^ 16 + x.kslot.toNat * 2 ^ 24

/-- The 4 KiB units still to write in the active scrub (R309). -/
def remain (s : State) : Nat :=
  match s.hub.scrubs with
  | [] => 0
  | x :: _ =>
    if x.phase = 2 then x.granules.length else s.coreUnits x.ctx + (s.taggedWith (s.ctxDies x.ctx) x.slot).length

/-- HUB_SCRUB (R309). -/
def scrubWord (s : State) : Nat :=
  match s.hub.scrubs with
  | [] => 0
  | x :: _ => x.ctx + 2 ^ 16 + x.phase * 2 ^ 17 + bitsAt s.remain 0 28 * 2 ^ 20

/-- HUB_OWN (R74). -/
def ownWord (h : Hub) : Nat := h.owner.toNat + b2n h.held * 4 + h.denied.toNat * 256

/-- The wait-reason code of a thread (R291). -/
def waitCode (s : State) (i : Nat) : Nat :=
  let t := s.thread i
  if (s.team (teamOf i)).phase = .saving then 0x11
  else if t.trapDue.isSome then 1
  else if t.wait = .ready ∧ !(s.activeGroups (s.coreOf i)).contains (s.groupOf i) then 0x10
  else if s.peerHandles i then 0x0C
  else t.wait.code

/-- The thread that occupies a thread slot of a core (R299). -/
def slotThread (s : State) (k n : Nat) : Option Nat :=
  (s.groups.filter fun e => e.2.core == k && e.2.blocks.contains (n / 16)).head?.map fun e =>
    e.1 / 16 * 1024 + e.1 % 16 * (s.team (e.1 / 16)).record.width + 16 * e.2.blocks.idxOf (n / 16) + n % 16

/-- The byte of a thread slot: 0xFF where no live thread occupies it (R299). -/
def slotByte (s : State) (k n : Nat) : Byte :=
  match s.slotThread k n with
  | none => 0xFF
  | some i => if (s.thread i).live then BitVec.ofNat 8 (s.waitCode i) else 0xFF

/-- The wait-reason code of a collective slot; one of a context that is switched out has stopped at an instruction boundary (R249, R291). -/
def slotCode (s : State) (p i : Nat) : Nat :=
  match s.fslot p i with
  | none => 0xFF
  | some x => if s.slotStopped x then 0x25 else x.wait.code

/-! ## Reads (R74, R299, R303, R484) -/

/-- The value of a register; of a byte window, that of its 4-byte unit. -/
def readReg (s : State) : HubReg → Nat
  | .status => s.statusWord
  | .own => ownWord s.hub
  | .nonce => s.hub.nonce.toNat
  | .partcfg => s.hub.partcfg.toNat
  | .scrub => s.scrubWord
  | .reset | .fresp | .none | .ctxReserved _ _ => 0
  | .xinv => b2n s.hub.xinvBusy * 2 ^ 17
  | .claim a off => leNat (tabBytes s.hub.claims (128 * a + off) 4)
  | .attNonce off => leNat (tabBytes s.hub.attNonce off 4)
  | .report off => leNat (tabBytes s.hub.report off 4)
  | .wqBase q => (s.wq q).base.toNat
  | .wqCfg q => (s.wq q).cfg
  | .wqHead q => (s.wq q).head.toNat
  | .wqDoorbell q => (s.wq q).tail.toNat
  | .ctl c => ctlWord (s.ctx c)
  | .word c off => (descGet (s.ctx c) off).toNat
  | .savestat c spill => (if spill then (s.ctx c).savestatOver else (s.ctx c).savestatBytes).toNat
  | .budget c i =>
    let x := s.ctx c
    ([x.budgetIssue, x.budgetHbm, x.budgetCopy, x.budgetFabric].getD i 0).toNat
  | .ctxstat c => ctxStat (s.ctx c)
  | .threadWaits k off => leNat ((span off 4).map (s.slotByte k))
  | .slotWait p i => s.slotCode p i
  | .sessCtl fd slot => State.sessCtl (s.session fd slot)
  | .sessBytes fd slot off =>
    let x := s.session fd slot
    let bytes := natLe 4 x.port.toNat ++ tabBytes x.peer 0 16 ++ tabBytes x.idkey 0 32
    leNat ((bytes.drop (off - 4)).take 4)
  | .counter p i =>
    let f := s.fab p
    ([f.drop, f.refuse, f.late, f.fold].getD i 0).toNat
  | .staging off => leNat (tabBytes s.hub.staging off 4)

/-- The 32 bits of a 4-byte unit; a register that does not respond reads as zero (R310). -/
def readUnit (s : State) (o : Nat) : Nat :=
  let r := regAt o
  if !s.hub.ready && !r.always then 0
  else bitsAt (s.readReg r) (if r.wide ∧ o % 8 = 4 then 32 else 0) 32

/-- Whether an access is naturally aligned and of an allowed size (R484). -/
def accessOk (off size : Nat) : Bool := (size == 1 || size == 2 || size == 4 || size == 8) && off % size == 0

/-- What a read returns (R484). -/
def readValue (s : State) (off size : Nat) : W64 :=
  if !accessOk off size then 0
  else
    let o := off / 4 * 4
    BitVec.ofNat 64 (bitsAt (s.readUnit o + s.readUnit (o + 4) * 2 ^ 32) (8 * (off - o)) (8 * size))

/-- Clears the fields that the read of a byte clears: DENIED and ERRDROP (R74, R303). -/
def clearRead (s : State) (o : Nat) : State :=
  match regAt (o / 4 * 4) with
  | .own => if o % 8 = 1 then { s with hub := { s.hub with denied := 0 } } else s
  | .ctxstat c => if o % 8 = 2 ∧ s.hub.ready then s.onCtx c fun x => { x with errdrop := 0 } else s
  | _ => s

/-- A register read by an agent: its data, and then what it clears (R484). -/
def readBy (s : State) (agent off size : Nat) : State :=
  if !s.powered || 4 ≤ agent || s.hub.linkDown.contains agent then s
  else
    let t := s.emit (.registerData agent off (s.readValue off size))
    if accessOk off size then (span off size).foldl (fun t o => t.clearRead o) t else t

/-! ## Writes (R6, R299, R302, R484) -/

/-- The bytes that a write brings to a 4-byte unit, with their offsets in it. -/
def putBytes (p : Put) : List (Nat × Byte) :=
  (span 0 4).filterMap fun i => if bitsAt p.cov (8 * i) 8 = 255 then some (i, BitVec.ofNat 8 (bitsAt p.val (8 * i) 8)) else none

/-- Writes bytes of a claim window; byte 71 submits the claim (R75, R484). -/
def writeClaim (s : State) (a off : Nat) (p : Put) : State :=
  let s := (putBytes p).foldl (fun s e => s.putClaim a (off + e.1) e.2) s
  if (putBytes p).any fun e => off + e.1 == 71 then s.submitClaim a else s

/-- A write of a register without reserved bits in it (R6), or one that the owner makes. -/
def writeReg (s : State) (r : HubReg) (p : Put) : State :=
  match r with
  | .status => s.unreserved p (mask 7 63) fun s => s.onHub fun h =>
      { h with regerr := h.regerr && p.field 1 1 == 0, parterr := h.parterr && p.field 2 1 == 0 }
  | .own => s.writeOwn p
  | .partcfg => s.writePartcfg p
  | .scrub => s.unreserved p (mask 19 19 ||| mask 48 63) id
  | .reset => s.unreserved p (mask 1 63) fun s => if p.field 0 1 = 1 then s.warm else s
  | .fresp => if p.cov = mask 0 63 then s.writeFresp p.val else s.regError
  | .xinv => if p.cov = mask 0 63 then s.writeXinv p.val else s.regError
  | .claim a off => s.writeClaim a off p
  | .attNonce off => (putBytes p).foldl (fun s e => s.putNonce (off + e.1) [e.2]) s
  | .wqBase q => s.writeWqBase q p
  | .wqCfg q => s.writeWqCfg q p
  | .wqDoorbell q => s.writeDoorbell q p
  | .ctl c => s.writeCtl c p
  | .word c off => s.writeDesc c off p
  | .budget c i => s.writeBudget c i p
  | .savestat c _ => if (s.ctx c).state != 0 then s.regError else s
  | .ctxstat c =>
    if (s.ctx c).state != 0 then s.regError else s.unreserved p (mask 3 7 ||| mask 30 63) id
  | .ctxReserved c _ => if (s.ctx c).state != 0 then s.regError else s.unreserved p (mask 0 63) id
  | .sessCtl fd slot => s.writeSessCtl fd slot p
  | .sessBytes fd slot off => s.unreserved p (if off = 4 then mask 16 31 else 0) fun s =>
      (putBytes p).foldl (fun s e => s.putSessByte fd slot (off + e.1) e.2) s
  | .staging off => { s with hub := { s.hub with
      staging := (putBytes p).foldl (fun m e => m.set (off + e.1) e.2) s.hub.staging } }
  | .slotWait _ _ => s.unreserved p (mask 8 31) id
  | .none => s.unreserved p (mask 0 63) id
  | .nonce | .report _ | .wqHead _ | .threadWaits _ _ | .counter _ _ => s

/-- The registers that a naturally aligned write reaches, lower address first, each with its part (R484). -/
def parts (off size v : Nat) : List (HubReg × Put) :=
  let o := off / 4 * 4
  let hi := if o % 8 = 4 then 32 else 0
  if size = 8 then
    if (regAt o).wide then [(regAt o, ⟨v, mask 0 63⟩)]
    else [(regAt o, ⟨bitsAt v 0 32, mask 0 31⟩), (regAt (o + 4), ⟨bitsAt v 32 32, mask 0 31⟩)]
  else
    let sh := 8 * (off - o) + if (regAt o).wide then hi else 0
    [(regAt o, ⟨bitsAt v 0 (8 * size) * 2 ^ sh, (2 ^ (8 * size) - 1) * 2 ^ sh⟩)]

/-- One part of a write: an agent's own claim window is open to it, all else is governed by ownership (R74, R75). -/
def writePart (s : State) (agent : Nat) (e : HubReg × Put) : State :=
  match e.1 with
  | .claim a off => if s.claimOpen agent a then s.writeClaim a off e.2 else if s.powered then s.deny else s
  | r => s.gated agent r.always fun s => s.writeReg r e.2

/-- Whether an agent may write a part: its own claim window, or as the owner (R74, R75). -/
def ownsPart (s : State) (agent : Nat) (e : HubReg × Put) : Bool :=
  match e.1 with
  | .claim a _ => s.claimOpen agent a
  | _ => s.isOwner agent

/-- A further part of a write by its owner: bits that name no register belong to the write as it was made (R6). -/
def laterPart (s t : State) (agent : Nat) (e : HubReg × Put) : State :=
  match e.1 with
  | .none => if s.powered && s.hub.ready then t.writeReg .none e.2 else t
  | _ => t.writePart agent e

/-- A register write by an agent (R6, R74, R484). One that is not the agent's to make is dropped, and counted once. -/
def writeBy (s : State) (agent off size v : Nat) : State :=
  if !accessOk off size then s.gated agent (regAt (off / 4 * 4)).always (·.regError)
  else match parts off size v with
    | [] => s
    | e :: es =>
      let t := s.writePart agent e
      if s.ownsPart agent e then es.foldl (fun t e => s.laterPart t agent e) t else t

end State

/-- `REGISTER_WRITE` (R6): a write of any register of BAR0, whole or in part. -/
def execRegisterWrite (agent off size : Nat) (value : W64) (s : State) : Host.Outcome State Fault Refusal :=
  .next (s.writeBy agent off size value.toNat)

/-- `DENIED_READ` (R74): a read of HUB_OWN returns DENIED and clears it. -/
def execDeniedRead (agent : Nat) (s : State) : Host.Outcome State Fault Refusal := .next (s.readBy agent 0x100008 4)

/-- `ERRDROP_READ` (R303): a read of HUB_CTXSTAT returns ERRDROP and clears it. -/
def execErrdropRead (agent ctx : Nat) (s : State) : Host.Outcome State Fault Refusal :=
  if 1024 ≤ ctx then .next s else .next (s.readBy agent (0x4000C8 + 256 * ctx) 8)

/-! ## The host's accesses to partition memory (R22, R140, R144, R298, R307) -/

/-- The code of a view's state (R144). -/
def ViewState.code : ViewState → Nat
  | .free => 0 | .live => 1 | .parked => 2 | .merged => 3 | .dead => 4

namespace State

/-- Entry n of a context's view table (R144). -/
def viewWord (s : State) (c n : Nat) : Nat :=
  let v := s.view c n
  v.parent + v.depth * 2 ^ 6 + v.state.code * 2 ^ 8 + v.rival * 2 ^ 11 + v.nriv * 2 ^ 13 +
    b2n (!(s.childViews c n).isEmpty) * 2 ^ 15 + v.outbox.length * 2 ^ 16 +
    (v.lines.length + v.outbox.length + v.outCells) * 2 ^ 32

/-- Whether a byte lies in a region whose contents are the device's own: the save area, the view pool, the caravanserai. -/
def deviceOwn (s : State) (c pa : Nat) : Bool :=
  ((s.regions c).drop 2).any fun r => r.1 ≤ pa && pa < r.1 + r.2

/-- The byte of a context's view table at a partition address, if it lies there (R144). -/
def viewTableByte (s : State) (c pa : Nat) : Option Byte :=
  let x := s.ctx c
  let base := x.vpbase.toNat / 4096 * 4096
  if poolPages x != 0 && base ≤ pa && pa < base + 512 then
    some (BitVec.ofNat 8 (s.viewWord c ((pa - base) / 8) / 2 ^ (8 * ((pa - base) % 8))))
  else none

/-- The byte that the host reads (R22, R144, R307): zero in the reserved range and in tagged granules, such as those of the images and cells
of protected contexts. -/
def hostByte (s : State) (lead pa : Nat) : Byte :=
  let dies := s.diesOf lead
  let key := physKey dies pa
  if reservedStart dies ≤ pa then 0
  else match (s.boundIn lead).findSome? fun c => s.viewTableByte c pa with
    | some b => b
    | none =>
      if (s.granuleOpen none key) && (s.boundIn lead).any (fun c => s.deviceOwn c pa) then Config.deviceByte s.free key
      else (s.physRead none key 1).headD 0

/-- The host writes a byte: dropped in the reserved range, in a view table, and in tagged granules (R22, R144, R307). -/
def hostPut (s : State) (lead pa : Nat) (b : Byte) : State :=
  let dies := s.diesOf lead
  if reservedStart dies ≤ pa || (s.boundIn lead).any (fun c => (s.viewTableByte c pa).isSome) then s
  else s.physWrite none (physKey dies pa) [b]

end State

/-- `HOST_MEMORY_ACCESS` (R140): the host reads or writes the window of a partition. A write may consume records of fault queues,
so the records that waited are tried again (R283). -/
def execHostMemoryAccess (lead pa : Nat) (acc : HostMem) (s : State) : Host.Outcome State Fault Refusal :=
  if !s.powered || s.leadOf lead != lead || 16 ≤ lead then .next s
  else match acc with
    | .read n => .next (s.draw.emit (.memoryData lead pa ((span pa n).map (s.hostByte lead))))
    | .write bs =>
      let s := ((span pa bs.length).zip bs).foldl (fun s e => s.hostPut lead e.1 e.2) s
      .next ((s.boundIn lead).foldl (fun s c => s.recordPending c) s)

end Sys2Proof.Machine
end

