-- ==== Sys2Proof/Machine/Xu.lean ====
section
/-! DEFINITION. The XU pipe: FP32 arithmetic, compares and functions, packed half precision, and conversions (R368 to R376,
R413). -/

namespace Sys2Proof.Machine

/-- A code of a register. -/
def f32 (n : Nat) : W32 := BitVec.ofNat 32 n

def execFadd (rnd : Rnd) (d a b : Reg) (s : State) := alu d a b (fun x y => f32 (fAdd fp32 rnd x.toNat y.toNat)) s
def execFmul (rnd : Rnd) (d a b : Reg) (s : State) := alu d a b (fun x y => f32 (fMul fp32 rnd x.toNat y.toNat)) s
def execFma (rnd : Rnd) (d a b : Reg) (s : State) :=
  alu4 d a b (fun z x y => f32 (fFma fp32 rnd x.toNat y.toNat z.toNat)) s
def execFmin (d a b : Reg) (s : State) := alu d a b (fun x y => f32 (fMinMax fp32 false x.toNat y.toNat)) s
def execFmax (d a b : Reg) (s : State) := alu d a b (fun x y => f32 (fMinMax fp32 true x.toNat y.toNat)) s
def execFcmpEq (d a b : Reg) (m : Bool) (s : State) := compare d a b m fcEq s
def execFcmpLt (d a b : Reg) (m : Bool) (s : State) := compare d a b m fcLt s
def execFcmpLe (d a b : Reg) (m : Bool) (s : State) := compare d a b m fcLe s
def execFcmpUn (d a b : Reg) (m : Bool) (s : State) := compare d a b m fcUn s

/-- The format of a packed element: BF16 when m is set (R174). -/
def halfFmt (m : Bool) : Fmt := if m then bf16 else fp16

/-- An element of a packed register (R174). -/
def halfAt (x : W32) (e : Nat) : Nat := bitsAt x.toNat (16 * e) 16

/-- Both elements, computed independently (R174). -/
def packed (f : Nat → Nat → Nat) (x y : W32) : W32 :=
  f32 (f (halfAt x 0) (halfAt y 0) + 65536 * f (halfAt x 1) (halfAt y 1))

def execHadd2 (d a b : Reg) (m : Bool) (s : State) := alu d a b (packed (fAdd (halfFmt m) .rne)) s
def execHmul2 (d a b : Reg) (m : Bool) (s : State) := alu d a b (packed (fMul (halfFmt m) .rne)) s
def execHfma2 (d a b : Reg) (m : Bool) (s : State) :=
  alu4 d a b (fun z x y =>
    f32 (fFma (halfFmt m) .rne (halfAt x 0) (halfAt y 0) (halfAt z 0)
      + 65536 * fFma (halfFmt m) .rne (halfAt x 1) (halfAt y 1) (halfAt z 1))) s
def execHmin2 (d a b : Reg) (m : Bool) (s : State) := alu d a b (packed (fMinMax (halfFmt m) false)) s
def execHmax2 (d a b : Reg) (m : Bool) (s : State) := alu d a b (packed (fMinMax (halfFmt m) true)) s

/-- A result of variable latency from one register (R59). -/
def function (d a : Reg) (f : W32 → W32) (s : State) : Host.Outcome State Fault Refusal :=
  issueTo s (regs [d, a]) fun s => s.laterV d (f (s.v a))

def execFrcp (d a : Reg) (s : State) := function d a (fun x => f32 (fRcp x.toNat)) s
def execFrsq (d a : Reg) (s : State) := function d a (fun x => f32 (fRsq x.toNat)) s
def execFsqrt (d a : Reg) (s : State) := function d a (fun x => f32 (fSqrt x.toNat)) s
def execFexp2 (d a : Reg) (s : State) := function d a (fun x => f32 (fExp2 x.toNat)) s
def execFlog2 (d a : Reg) (s : State) := function d a (fun x => f32 (fLog2 x.toNat)) s

def execCvtFromF32 (dst : ElemFmt) (sat : Bool) (rnd : Rnd) (d a : Reg) (s : State) :=
  function d a (convert .fp32 dst sat rnd) s
def execCvtFromF16 (dst : ElemFmt) (sat : Bool) (rnd : Rnd) (d a : Reg) (s : State) :=
  function d a (convert .fp16 dst sat rnd) s
def execCvtFromBf16 (dst : ElemFmt) (sat : Bool) (rnd : Rnd) (d a : Reg) (s : State) :=
  function d a (convert .bf16 dst sat rnd) s
def execCvtFromE4m3 (dst : ElemFmt) (sat : Bool) (rnd : Rnd) (d a : Reg) (s : State) :=
  function d a (convert .e4m3 dst sat rnd) s
def execCvtFromE5m2 (dst : ElemFmt) (sat : Bool) (rnd : Rnd) (d a : Reg) (s : State) :=
  function d a (convert .e5m2 dst sat rnd) s
def execCvtFromE2m1 (dst : ElemFmt) (sat : Bool) (rnd : Rnd) (d a : Reg) (s : State) :=
  function d a (convert .e2m1 dst sat rnd) s
def execCvtFromInt32 (dst : ElemFmt) (sat : Bool) (rnd : Rnd) (d a : Reg) (s : State) :=
  function d a (convert .int32 dst sat rnd) s
def execCvtFromUint32 (dst : ElemFmt) (sat : Bool) (rnd : Rnd) (d a : Reg) (s : State) :=
  function d a (convert .uint32 dst sat rnd) s
/-- `cvt` from E8M0 gives 2^(e - 127) in FP32, exactly (R179, R338). -/
def execCvtFromE8m0 (dst : ElemFmt) (sat : Bool) (rnd : Rnd) (d a : Reg) (s : State) :=
  function d a (fun x => cvtResult dst sat rnd (e8m0 x.toNat)) s

end Sys2Proof.Machine
end

