-- ==== Sys2Proof/Machine/Dispatch.lean ====
section
/-! DEFINITION. What every instruction and event means: one arm per constructor of `Instr`, each a call of its meaning. -/

namespace Sys2Proof.Machine

/-- Executes an instruction for the thread or slot in the issue position, or an event of the module. -/
def exec (i : Instr) (s : State) : Host.Outcome State Fault Refusal :=
  match i with
  | .nop => Sys2Proof.Machine.execNop s
  | .add d a b m => Sys2Proof.Machine.execAdd d a b m s
  | .addImm d a imm => Sys2Proof.Machine.execAddImm d a imm s
  | .sub d a b m => Sys2Proof.Machine.execSub d a b m s
  | .mul d a b => Sys2Proof.Machine.execMul d a b s
  | .mulImm d a imm => Sys2Proof.Machine.execMulImm d a imm s
  | .mulh d a b m => Sys2Proof.Machine.execMulh d a b m s
  | .mad d a b => Sys2Proof.Machine.execMad d a b s
  | .and d a b m => Sys2Proof.Machine.execAnd d a b m s
  | .andImm d a imm => Sys2Proof.Machine.execAndImm d a imm s
  | .or d a b m => Sys2Proof.Machine.execOr d a b m s
  | .orImm d a imm => Sys2Proof.Machine.execOrImm d a imm s
  | .xor d a b m => Sys2Proof.Machine.execXor d a b m s
  | .xorImm d a imm => Sys2Proof.Machine.execXorImm d a imm s
  | .shl d a b m => Sys2Proof.Machine.execShl d a b m s
  | .shlImm d a imm => Sys2Proof.Machine.execShlImm d a imm s
  | .shr d a b m => Sys2Proof.Machine.execShr d a b m s
  | .shrImm d a imm => Sys2Proof.Machine.execShrImm d a imm s
  | .sar d a b m => Sys2Proof.Machine.execSar d a b m s
  | .sarImm d a imm => Sys2Proof.Machine.execSarImm d a imm s
  | .min d a b m => Sys2Proof.Machine.execMin d a b m s
  | .max d a b m => Sys2Proof.Machine.execMax d a b m s
  | .sel d a b => Sys2Proof.Machine.execSel d a b s
  | .bfx d a b m => Sys2Proof.Machine.execBfx d a b m s
  | .bfi d a b => Sys2Proof.Machine.execBfi d a b s
  | .cmpEq d a b m => Sys2Proof.Machine.execCmpEq d a b m s
  | .cmpNe d a b m => Sys2Proof.Machine.execCmpNe d a b m s
  | .cmpLt d a b m => Sys2Proof.Machine.execCmpLt d a b m s
  | .cmpLe d a b m => Sys2Proof.Machine.execCmpLe d a b m s
  | .cmpLtu d a b m => Sys2Proof.Machine.execCmpLtu d a b m s
  | .cmpLeu d a b m => Sys2Proof.Machine.execCmpLeu d a b m s
  | .pand d a b m => Sys2Proof.Machine.execPand d a b m s
  | .por d a b m => Sys2Proof.Machine.execPor d a b m s
  | .pxor d a b m => Sys2Proof.Machine.execPxor d a b m s
  | .pnot d a m => Sys2Proof.Machine.execPnot d a m s
  | .pmov d a m => Sys2Proof.Machine.execPmov d a m s
  | .ldsB d a imm => Sys2Proof.Machine.execLdsB d a imm s
  | .ldsH d a imm => Sys2Proof.Machine.execLdsH d a imm s
  | .lds d a imm => Sys2Proof.Machine.execLds d a imm s
  | .ldsD d a imm => Sys2Proof.Machine.execLdsD d a imm s
  | .stsB d a imm => Sys2Proof.Machine.execStsB d a imm s
  | .stsH d a imm => Sys2Proof.Machine.execStsH d a imm s
  | .sts d a imm => Sys2Proof.Machine.execSts d a imm s
  | .stsD d a imm => Sys2Proof.Machine.execStsD d a imm s
  | .ldB d a imm => Sys2Proof.Machine.execLdB d a imm s
  | .ldH d a imm => Sys2Proof.Machine.execLdH d a imm s
  | .ld d a imm => Sys2Proof.Machine.execLd d a imm s
  | .ldD d a imm => Sys2Proof.Machine.execLdD d a imm s
  | .stB d a imm => Sys2Proof.Machine.execStB d a imm s
  | .stH d a imm => Sys2Proof.Machine.execStH d a imm s
  | .st d a imm => Sys2Proof.Machine.execSt d a imm s
  | .stD d a imm => Sys2Proof.Machine.execStD d a imm s
  | .ldp d a imm => Sys2Proof.Machine.execLdp d a imm s
  | .ldpD d a imm => Sys2Proof.Machine.execLdpD d a imm s
  | .stp d a imm => Sys2Proof.Machine.execStp d a imm s
  | .stpD d a imm => Sys2Proof.Machine.execStpD d a imm s
  | .movi d imm => Sys2Proof.Machine.execMovi d imm s
  | .movh d imm => Sys2Proof.Machine.execMovh d imm s
  | .srd d imm => Sys2Proof.Machine.execSrd d imm s
  | .swr d imm => Sys2Proof.Machine.execSwr d imm s
  | .lit d imm => Sys2Proof.Machine.execLit d imm s
  | .pref a imm => Sys2Proof.Machine.execPref a imm s
  | .voteAny d a => Sys2Proof.Machine.execVoteAny d a s
  | .voteAll d a => Sys2Proof.Machine.execVoteAll d a s
  | .voteBallot d a => Sys2Proof.Machine.execVoteBallot d a s
  | .shfl d a b m => Sys2Proof.Machine.execShfl d a b m s
  | .copy d a b m => Sys2Proof.Machine.execCopy d a b m s
  | .gath d a b m => Sys2Proof.Machine.execGath d a b m s
  | .unfold d a b m => Sys2Proof.Machine.execUnfold d a b m s
  | .quant d a b m => Sys2Proof.Machine.execQuant d a b m s
  | .mma d a b m => Sys2Proof.Machine.execMma d a b m s
  | .mmo d a b m => Sys2Proof.Machine.execMmo d a b m s
  | .tile d a b => Sys2Proof.Machine.execTile d a b s
  | .obres d a b m => Sys2Proof.Machine.execObres d a b m s
  | .fread d a b => Sys2Proof.Machine.execFread d a b s
  | .fwrite d a b m => Sys2Proof.Machine.execFwrite d a b m s
  | .arm d a b m => Sys2Proof.Machine.execArm d a b m s
  | .cinc a b => Sys2Proof.Machine.execCinc a b s
  | .cstart d a b => Sys2Proof.Machine.execCstart d a b s
  | .renq d a m => Sys2Proof.Machine.execRenq d a m s
  | .wenq d a m => Sys2Proof.Machine.execWenq d a m s
  | .mov d a => Sys2Proof.Machine.execMov d a s
  | .clz d a => Sys2Proof.Machine.execClz d a s
  | .popc d a => Sys2Proof.Machine.execPopc d a s
  | .leaS d a => Sys2Proof.Machine.execLeaS d a s
  | .leaP d a => Sys2Proof.Machine.execLeaP d a s
  | .frcp d a => Sys2Proof.Machine.execFrcp d a s
  | .frsq d a => Sys2Proof.Machine.execFrsq d a s
  | .fsqrt d a => Sys2Proof.Machine.execFsqrt d a s
  | .fexp2 d a => Sys2Proof.Machine.execFexp2 d a s
  | .flog2 d a => Sys2Proof.Machine.execFlog2 d a s
  | .atom op w64 scope d a => Sys2Proof.Machine.execAtom op w64 scope d a s
  | .red op w64 scope d a => Sys2Proof.Machine.execRed op w64 scope d a s
  | .fence => Sys2Proof.Machine.execFence s
  | .fenceE => Sys2Proof.Machine.execFenceE s
  | .fenceW => Sys2Proof.Machine.execFenceW s
  | .clean a => Sys2Proof.Machine.execClean a s
  | .obrel a => Sys2Proof.Machine.execObrel a s
  | .spawn a => Sys2Proof.Machine.execSpawn a s
  | .disarm d a => Sys2Proof.Machine.execDisarm d a s
  | .exit => Sys2Proof.Machine.execExit s
  | .yield => Sys2Proof.Machine.execYield s
  | .ret => Sys2Proof.Machine.execRet s
  | .rfe => Sys2Proof.Machine.execRfe s
  | .brx a => Sys2Proof.Machine.execBrx a s
  | .callReg a => Sys2Proof.Machine.execCallReg a s
  | .gbar => Sys2Proof.Machine.execGbar s
  | .tbar => Sys2Proof.Machine.execTbar s
  | .wend a => Sys2Proof.Machine.execWend a s
  | .wvr d a => Sys2Proof.Machine.execWvr d a s
  | .choose a => Sys2Proof.Machine.execChoose a s
  | .barInit d a => Sys2Proof.Machine.execBarInit d a s
  | .barExpect d a => Sys2Proof.Machine.execBarExpect d a s
  | .barArrive d a => Sys2Proof.Machine.execBarArrive d a s
  | .barWait d a b m => Sys2Proof.Machine.execBarWait d a b m s
  | .barTry d a b m => Sys2Proof.Machine.execBarTry d a b m s
  | .br off => Sys2Proof.Machine.execBr off s
  | .call off => Sys2Proof.Machine.execCall off s
  | .fork d imm => Sys2Proof.Machine.execFork d imm s
  | .rgive imm => Sys2Proof.Machine.execRgive imm s
  | .rclaim imm => Sys2Proof.Machine.execRclaim imm s
  | .brk imm => Sys2Proof.Machine.execBrk imm s
  | .trap imm => Sys2Proof.Machine.execTrap imm s
  | .redux op d a => Sys2Proof.Machine.execRedux op d a s
  | .fadd rnd d a b => Sys2Proof.Machine.execFadd rnd d a b s
  | .fmul rnd d a b => Sys2Proof.Machine.execFmul rnd d a b s
  | .fma rnd d a b => Sys2Proof.Machine.execFma rnd d a b s
  | .fmin d a b => Sys2Proof.Machine.execFmin d a b s
  | .fmax d a b => Sys2Proof.Machine.execFmax d a b s
  | .fcmpEq d a b m => Sys2Proof.Machine.execFcmpEq d a b m s
  | .fcmpLt d a b m => Sys2Proof.Machine.execFcmpLt d a b m s
  | .fcmpLe d a b m => Sys2Proof.Machine.execFcmpLe d a b m s
  | .fcmpUn d a b m => Sys2Proof.Machine.execFcmpUn d a b m s
  | .hadd2 d a b m => Sys2Proof.Machine.execHadd2 d a b m s
  | .hmul2 d a b m => Sys2Proof.Machine.execHmul2 d a b m s
  | .hfma2 d a b m => Sys2Proof.Machine.execHfma2 d a b m s
  | .hmin2 d a b m => Sys2Proof.Machine.execHmin2 d a b m s
  | .hmax2 d a b m => Sys2Proof.Machine.execHmax2 d a b m s
  | .cvtFromF32 dst sat rnd d a => Sys2Proof.Machine.execCvtFromF32 dst sat rnd d a s
  | .cvtFromF16 dst sat rnd d a => Sys2Proof.Machine.execCvtFromF16 dst sat rnd d a s
  | .cvtFromBf16 dst sat rnd d a => Sys2Proof.Machine.execCvtFromBf16 dst sat rnd d a s
  | .cvtFromE4m3 dst sat rnd d a => Sys2Proof.Machine.execCvtFromE4m3 dst sat rnd d a s
  | .cvtFromE5m2 dst sat rnd d a => Sys2Proof.Machine.execCvtFromE5m2 dst sat rnd d a s
  | .cvtFromE2m1 dst sat rnd d a => Sys2Proof.Machine.execCvtFromE2m1 dst sat rnd d a s
  | .cvtFromInt32 dst sat rnd d a => Sys2Proof.Machine.execCvtFromInt32 dst sat rnd d a s
  | .cvtFromUint32 dst sat rnd d a => Sys2Proof.Machine.execCvtFromUint32 dst sat rnd d a s
  | .cvtFromE8m0 dst sat rnd d a => Sys2Proof.Machine.execCvtFromE8m0 dst sat rnd d a s
  | .fxLi h d a imm => Sys2Proof.Machine.execFxLi h d a imm s
  | .fxLd width d a imm => Sys2Proof.Machine.execFxLd width d a imm s
  | .fxSt width d a imm => Sys2Proof.Machine.execFxSt width d a imm s
  | .fxAdd form d a b => Sys2Proof.Machine.execFxAdd form d a b s
  | .fxCmp sgn a b => Sys2Proof.Machine.execFxCmp sgn a b s
  | .fxBr target => Sys2Proof.Machine.execFxBr target s
  | .fxBcc cc target => Sys2Proof.Machine.execFxBcc cc target s
  | .fxLoop a target => Sys2Proof.Machine.execFxLoop a target s
  | .fxEnd => Sys2Proof.Machine.execFxEnd s
  | .fxDeadline a imm => Sys2Proof.Machine.execFxDeadline a imm s
  | .fxQuorum off => Sys2Proof.Machine.execFxQuorum off s
  | .fxHist off => Sys2Proof.Machine.execFxHist off s
  | .fxScale a imm => Sys2Proof.Machine.execFxScale a imm s
  | .fxItin j clr a imm => Sys2Proof.Machine.execFxItin j clr a imm s
  | .fxStep a imm => Sys2Proof.Machine.execFxStep a imm s
  | .fxSend a b => Sys2Proof.Machine.execFxSend a b s
  | .fxRecv dlv sig d a b => Sys2Proof.Machine.execFxRecv dlv sig d a b s
  | .fxWait d k => Sys2Proof.Machine.execFxWait d k s
  | .fxMatch d b => Sys2Proof.Machine.execFxMatch d b s
  | .fxRed nh d a b => Sys2Proof.Machine.execFxRed nh d a b s
  | .fxResid clr d a imm => Sys2Proof.Machine.execFxResid clr d a imm s
  | .fxPack1 d a b => Sys2Proof.Machine.execFxPack1 d a b s
  | .fxPack3 d a b => Sys2Proof.Machine.execFxPack3 d a b s
  | .fxPackq d a b => Sys2Proof.Machine.execFxPackq d a b s
  | .fxUnpack code d a b => Sys2Proof.Machine.execFxUnpack code d a b s
  | .fxGather a b => Sys2Proof.Machine.execFxGather a b s
  | .fxSig a b => Sys2Proof.Machine.execFxSig a b s
  | .variableResultWrite thread idx => Sys2Proof.Machine.execVariableResultWrite thread idx s
  | .groupExchange core slot => Sys2Proof.Machine.execGroupExchange core slot s
  | .forcedExchange core => Sys2Proof.Machine.execForcedExchange core s
  | .exchangeDone core slot => Sys2Proof.Machine.execExchangeDone core slot s
  | .slotFill core slot => Sys2Proof.Machine.execSlotFill core slot s
  | .yieldResume thread => Sys2Proof.Machine.execYieldResume thread s
  | .rclaimGrant core => Sys2Proof.Machine.execRclaimGrant core s
  | .teamPlacement die => Sys2Proof.Machine.execTeamPlacement die s
  | .balanceExchange die => Sys2Proof.Machine.execBalanceExchange die s
  | .budgetPeriod => Sys2Proof.Machine.execBudgetPeriod s
  | .scratchpadCompaction team place => Sys2Proof.Machine.execScratchpadCompaction team place s
  | .wqRecordFetch q => Sys2Proof.Machine.execWqRecordFetch q s
  | .futureWalk ctx => Sys2Proof.Machine.execFutureWalk ctx s
  | .remoteEnqueueArrival fd slot msg => Sys2Proof.Machine.execRemoteEnqueueArrival fd slot msg s
  | .enqueueAck fd slot code => Sys2Proof.Machine.execEnqueueAck fd slot code s
  | .jobSector core job sector => Sys2Proof.Machine.execJobSector core job sector s
  | .sectorLand core job => Sys2Proof.Machine.execSectorLand core job s
  | .intervalRetire core idx => Sys2Proof.Machine.execIntervalRetire core idx s
  | .mmaMultiplyStart core => Sys2Proof.Machine.execMmaMultiplyStart core s
  | .mmaComplete core => Sys2Proof.Machine.execMmaComplete core s
  | .cloneStart team => Sys2Proof.Machine.execCloneStart team s
  | .outboxEntry ctx => Sys2Proof.Machine.execOutboxEntry ctx s
  | .viewSweep ctx => Sys2Proof.Machine.execViewSweep ctx s
  | .faultRetry agent value => Sys2Proof.Machine.execFaultRetry agent value s
  | .faultFatal agent value => Sys2Proof.Machine.execFaultFatal agent value s
  | .xinv agent value => Sys2Proof.Machine.execXinv agent value s
  | .xinvComplete => Sys2Proof.Machine.execXinvComplete s
  | .contextTeardown ctx => Sys2Proof.Machine.execContextTeardown ctx s
  | .watchdog thread => Sys2Proof.Machine.execWatchdog thread s
  | .fabricWatchdog proc slot => Sys2Proof.Machine.execFabricWatchdog proc slot s
  | .switchOut agent ctx => Sys2Proof.Machine.execSwitchOut agent ctx s
  | .drainLimit team => Sys2Proof.Machine.execDrainLimit team s
  | .teamSaveComplete team => Sys2Proof.Machine.execTeamSaveComplete team s
  | .switchOutComplete ctx => Sys2Proof.Machine.execSwitchOutComplete ctx s
  | .switchIn agent ctx => Sys2Proof.Machine.execSwitchIn agent ctx s
  | .teamRestore die => Sys2Proof.Machine.execTeamRestore die s
  | .contextBind agent ctx value => Sys2Proof.Machine.execContextBind agent ctx value s
  | .contextKill agent ctx => Sys2Proof.Machine.execContextKill agent ctx s
  | .scrubCoreState => Sys2Proof.Machine.execScrubCoreState s
  | .scrubGranule die => Sys2Proof.Machine.execScrubGranule die s
  | .scrubJournalWrite => Sys2Proof.Machine.execScrubJournalWrite s
  | .scrubEnd => Sys2Proof.Machine.execScrubEnd s
  | .handshakeRetry fd slot => Sys2Proof.Machine.execHandshakeRetry fd slot s
  | .keyRotationStart fd slot => Sys2Proof.Machine.execKeyRotationStart fd slot s
  | .keySwitch fd slot => Sys2Proof.Machine.execKeySwitch fd slot s
  | .oldKeyDiscard fd slot => Sys2Proof.Machine.execOldKeyDiscard fd slot s
  | .transportGiveUp fd slot pkt => Sys2Proof.Machine.execTransportGiveUp fd slot pkt s
  | .startRequest proc => Sys2Proof.Machine.execStartRequest proc s
  | .imageLoadComplete proc slot => Sys2Proof.Machine.execImageLoadComplete proc slot s
  | .deferredFireRelease ctx => Sys2Proof.Machine.execDeferredFireRelease ctx s
  | .receiveDeadline proc slot idx => Sys2Proof.Machine.execReceiveDeadline proc slot idx s
  | .storePerformed thread => Sys2Proof.Machine.execStorePerformed thread s
  | .packetRetransmit fd slot pkt => Sys2Proof.Machine.execPacketRetransmit fd slot pkt s
  | .wqDoorbell agent q tail => Sys2Proof.Machine.execWqDoorbell agent q tail s
  | .wqEnable agent q value => Sys2Proof.Machine.execWqEnable agent q value s
  | .wqDisable agent q => Sys2Proof.Machine.execWqDisable agent q s
  | .wqErrClear agent q => Sys2Proof.Machine.execWqErrClear agent q s
  | .claim agent window byte => Sys2Proof.Machine.execClaim agent window byte s
  | .release agent => Sys2Proof.Machine.execRelease agent s
  | .ownerLinkDown => Sys2Proof.Machine.execOwnerLinkDown s
  | .deniedRead agent => Sys2Proof.Machine.execDeniedRead agent s
  | .errdropRead agent ctx => Sys2Proof.Machine.execErrdropRead agent ctx s
  | .partcfgWrite agent value => Sys2Proof.Machine.execPartcfgWrite agent value s
  | .registerWrite agent off size value => Sys2Proof.Machine.execRegisterWrite agent off size value s
  | .hostMemoryAccess lead pa acc => Sys2Proof.Machine.execHostMemoryAccess lead pa acc s
  | .attestationRequest agent value => Sys2Proof.Machine.execAttestationRequest agent value s
  | .attestationDone => Sys2Proof.Machine.execAttestationDone s
  | .warmReset agent => Sys2Proof.Machine.execWarmReset agent s
  | .coldReset => Sys2Proof.Machine.execColdReset s
  | .resetReq value => Sys2Proof.Machine.execResetReq value s
  | .pwrReq value => Sys2Proof.Machine.execPwrReq value s
  | .agentkeyWrite idx byte => Sys2Proof.Machine.execAgentkeyWrite idx byte s
  | .agentlock value => Sys2Proof.Machine.execAgentlock value s
  | .throttle die temp power => Sys2Proof.Machine.execThrottle die temp power s
  | .thermalTrip die temp => Sys2Proof.Machine.execThermalTrip die temp s
  | .sessionEnable agent fd slot value => Sys2Proof.Machine.execSessionEnable agent fd slot value s
  | .sessionDisable agent fd slot => Sys2Proof.Machine.execSessionDisable agent fd slot s
  | .sessionFailedClear agent fd slot => Sys2Proof.Machine.execSessionFailedClear agent fd slot s
  | .handshakeOffer fd slot dgram => Sys2Proof.Machine.execHandshakeOffer fd slot dgram s
  | .handshakeAnswer fd slot dgram => Sys2Proof.Machine.execHandshakeAnswer fd slot dgram s
  | .packetArrival fd slot pkt => Sys2Proof.Machine.execPacketArrival fd slot pkt s
  | .acceptResponse fd slot pkt => Sys2Proof.Machine.execAcceptResponse fd slot pkt s
  | .lateResponse fd slot pkt => Sys2Proof.Machine.execLateResponse fd slot pkt s
  | .portLinkDown port => Sys2Proof.Machine.execPortLinkDown port s
  | .portLinkUp port => Sys2Proof.Machine.execPortLinkUp port s
  | .throttleEnd die temp power => Sys2Proof.Machine.execThrottleEnd die temp power s
  | .powerRemoval => Sys2Proof.Machine.execPowerRemoval s
  | .remoteSlotRelease fd slot => Sys2Proof.Machine.execRemoteSlotRelease fd slot s
  | .partitionSwap agent lead out => Sys2Proof.Machine.execPartitionSwap agent lead out s
  | .debuggerHalt team => Sys2Proof.Machine.execDebuggerHalt team s

end Sys2Proof.Machine
end

