-- ==== Sys2Proof/Machine/Issue.lean ====
section
/-! DEFINITION. Fetching and issuing: words, guards and chains (R315, R319, R320, R340), the switch marker (R61), the bundle of a
core (R38, R39, R348), one slot of a fabric processor (R217), and the other turns of the machine. -/

namespace Sys2Proof.Machine

/-! ## Words and chains (R318 to R321, R340) -/

/-- A fetched word that is an instruction. -/
structure FetchedWord where
  addr : W64
  hdr : Header
  ins : Instr
deriving DecidableEq, Repr

/-- The four pipes (R321). -/
inductive Pipe where
  | alu | xu | mem | ctl
deriving DecidableEq, Repr

/-- The pipe of an instruction (R321, R334 to R338). -/
def pipeOf : Instr → Pipe
  | .frcp .. | .frsq .. | .fsqrt .. | .fexp2 .. | .flog2 .. | .fadd .. | .fmul .. | .fma .. | .fmin .. | .fmax .. | .fcmpEq ..
  | .fcmpLt .. | .fcmpLe .. | .fcmpUn .. | .hadd2 .. | .hmul2 .. | .hfma2 .. | .hmin2 .. | .hmax2 .. | .cvtFromF32 ..
  | .cvtFromF16 .. | .cvtFromBf16 .. | .cvtFromE4m3 .. | .cvtFromE5m2 .. | .cvtFromE2m1 .. | .cvtFromInt32 ..
  | .cvtFromUint32 .. | .cvtFromE8m0 .. => .xu
  | .ldsB .. | .ldsH .. | .lds .. | .ldsD .. | .stsB .. | .stsH .. | .sts .. | .stsD .. | .ldB .. | .ldH .. | .ld .. | .ldD ..
  | .stB .. | .stH .. | .st .. | .stD .. | .ldp .. | .ldpD .. | .stp .. | .stpD .. | .lit .. | .pref .. | .copy .. | .gath ..
  | .unfold .. | .quant .. | .mma .. | .mmo .. | .tile .. | .obres .. | .obrel .. | .fread .. | .fwrite .. | .arm ..
  | .disarm .. | .cinc .. | .cstart .. | .renq .. | .wenq .. | .spawn .. | .atom .. | .red .. | .fence | .fenceE | .fenceW
  | .clean .. => .mem
  | .nop | .voteAny .. | .voteAll .. | .voteBallot .. | .shfl .. | .redux .. | .exit | .yield | .ret | .rfe | .brx .. | .callReg ..
  | .gbar | .tbar | .wend .. | .wvr .. | .choose .. | .barInit .. | .barExpect .. | .barArrive .. | .barWait .. | .barTry ..
  | .br .. | .call .. | .fork .. | .rgive .. | .rclaim .. | .brk .. | .trap .. => .ctl
  | _ => .alu

/-- The registers of a result that is a pair when m is set. -/
def destOf (m : Bool) (d : Reg) : List Touch := if m then pair d else regs [d]

/-- The registers and predicates that an instruction writes (R320). -/
def dests : Instr → List Touch
  | .add d _ _ m | .sub d _ _ m | .and d _ _ m | .or d _ _ m | .xor d _ _ m | .shl d _ _ m | .shr d _ _ m
  | .sar d _ _ m => destOf m d
  | .addImm d _ _ | .mul d _ _ | .mulImm d _ _ | .mulh d _ _ _ | .mad d _ _ | .andImm d _ _ | .orImm d _ _ | .xorImm d _ _
  | .shlImm d _ _ | .shrImm d _ _ | .sarImm d _ _ | .min d _ _ _ | .max d _ _ _ | .sel d _ _ | .bfx d _ _ _ | .bfi d _ _
  | .ldsB d _ _ | .ldsH d _ _ | .lds d _ _ | .ldB d _ _ | .ldH d _ _ | .ld d _ _ | .ldp d _ _ | .movi d _ | .movh d _
  | .srd d _ | .lit d _ | .mov d _ | .clz d _ | .popc d _ | .frcp d _ | .frsq d _ | .fsqrt d _ | .fexp2 d _ | .flog2 d _
  | .wvr d _ | .barArrive d _ | .shfl d _ _ _ | .redux _ d _ | .voteBallot d _ | .fork d _ | .fadd _ d _ _ | .fmul _ d _ _
  | .fma _ d _ _ | .fmin d _ _ | .fmax d _ _ | .hadd2 d _ _ _ | .hmul2 d _ _ _ | .hfma2 d _ _ _ | .hmin2 d _ _ _
  | .hmax2 d _ _ _ | .cvtFromF32 _ _ _ d _ | .cvtFromF16 _ _ _ d _ | .cvtFromBf16 _ _ _ d _ | .cvtFromE4m3 _ _ _ d _
  | .cvtFromE5m2 _ _ _ d _ | .cvtFromE2m1 _ _ _ d _ | .cvtFromInt32 _ _ _ d _ | .cvtFromUint32 _ _ _ d _
  | .cvtFromE8m0 _ _ _ d _ => regs [d]
  | .ldsD d _ _ | .ldD d _ _ | .ldpD d _ _ | .leaS d _ | .leaP d _ | .tile d _ _ => pair d
  | .cmpEq d _ _ m | .cmpNe d _ _ m | .cmpLt d _ _ m | .cmpLe d _ _ m | .cmpLtu d _ _ m | .cmpLeu d _ _ m | .pand d _ _ m
  | .por d _ _ m | .pxor d _ _ m | .pnot d _ m | .pmov d _ m | .fcmpEq d _ _ m | .fcmpLt d _ _ m | .fcmpLe d _ _ m
  | .fcmpUn d _ _ m | .barWait d _ _ m | .barTry d _ _ m | .fwrite d _ _ m => preds [d] m
  | .disarm d _ | .voteAny d _ | .voteAll d _ => preds [d] false
  | .obres d _ b m | .arm d _ b m => regs [d] ++ preds [b] m
  | .fread d _ b => pair d ++ preds [b] false
  | .atom _ w64 _ d _ => destOf w64 d
  | _ => []

/-- Whether a list holds an entry twice. -/
def repeats {α : Type} [BEq α] : List α → Bool
  | [] => false
  | x :: xs => xs.contains x || repeats xs

/-- Whether a chain breaks a rule of R320; a CHAIN bit in its last word stands in slot 2. -/
def chainBad (ws : List FetchedWord) : Bool :=
  (ws.getLast?.any fun w => w.hdr.chain) || repeats (ws.map fun w => pipeOf w.ins) || repeats (ws.flatMap fun w => dests w.ins) ||
    (1 < ws.length && ws.any fun w => isConvergence w.ins)

/-- When a word of a chain takes effect: a word that only reads memory first, then the reads and updates of barriers and of the stack, then
the stores and the job instructions, so that no word sees another's result; a job's descriptor is read as it stood before the chain; a kill comes after every word that does not end the chain, and a transfer or an `exit`
last (R276, R320, R371). DEDUCED (log 26): two read-modify-writes of one chain that meet, of a barrier and of its bytes, take their places
in the order of their words, and a job is counted on a barrier after a barrier instruction of its chain. -/
def chainRank : Instr → Nat
  | .ret | .barInit .. | .barExpect .. | .barArrive .. | .atom .. | .red .. => 1
  | .stsB .. | .stsH .. | .sts .. | .stsD .. | .stB .. | .stH .. | .st .. | .stD .. | .stp .. | .stpD .. | .copy .. | .gath .. | .unfold ..
  | .quant .. => 2
  | .swr _ n => if n = 0x112 then 3 else 0
  | .br .. | .brx .. | .call .. | .callReg .. | .rfe | .exit => 4
  | _ => 0

/-- The words of a chain in the order of their effects (R320). -/
def chainOrder (ws : List FetchedWord) : List FetchedWord :=
  (span 0 5).flatMap fun n => ws.filter fun w => chainRank w.ins == n

/-- Reads fetched words as instructions, all or none (R340). -/
def readWords : List (W64 × W32) → Option (List FetchedWord)
  | [] => some []
  | (a, w) :: ws =>
    match decodeWord w, readWords ws with
    | .ok (h, i), some rest => some (⟨a, h, i⟩ :: rest)
    | _, _ => none

namespace State

/-- Fetches a chain, up to a number of words (R318 to R320). -/
def fetchChain : Nat → State → W64 → Res (List (W64 × W32))
  | 0, s, _ => .ok [] s
  | n + 1, s, a =>
    (s.fetchWord a).andThen fun w s =>
      if (headerOf w).chain then (fetchChain n s (nextPc a)).andThen fun ws s => .ok ((a, w) :: ws) s
      else .ok [(a, w)] s

/-- The words from a program counter to the end of its packet (R319). -/
def wordsLeft (pc : W64) : Nat := 3 - pc.toNat % 12 / 4

/-! ## Guards and effects (R61, R273, R315, R320) -/

/-- Executes one word: a pending guard predicate traps, a false guard has no effect (R315). -/
def runWord (s : State) (w : FetchedWord) : Host.Outcome State Fault Refusal :=
  let s := { s with iss := { s.iss with word := w.addr } }
  let n := w.hdr.gsel.toNat
  if n = 7 then exec w.ins s
  else if s.opnd.predPending n then .next (s.raise 0x04 0 (BitVec.ofNat 32 (n + 128)))
  else if s.p n != w.hdr.gneg then exec w.ins s
  else .next s

/-- Executes words one after another, until one ends the thread. -/
def runAll : State → List FetchedWord → Host.Outcome State Fault Refusal
  | s, [] => .next s
  | s, w :: ws =>
    match s.runWord w with
    | .next t => if t.iss.out = .done ∧ t.thr.live then runAll t ws else .next t
    | o => o

/-- Whether an outcome leaves the issuing thread in a given way. -/
def leaves (x : Issued) : Host.Outcome State Fault Refusal → Bool
  | .next t => t.iss.out == x
  | _ => x == .trapped

/-- Whether an outcome is the illegal-instruction trap. -/
def illegal : Host.Outcome State Fault Refusal → Bool
  | .next t => t.iss.raised.any fun e => e.1 == 0x01
  | _ => false

/-- The trap of a chain whose words have been run each alone: of the first word that is illegal, else of the first that traps (R275, R340). -/
def chainTrap (os : List (Host.Outcome State Fault Refusal)) : Option (Host.Outcome State Fault Refusal) :=
  (os.find? illegal).or (os.find? (leaves .trapped))

/-- The pages that have come under fault in the current context between two states are so again from the first, and its free values go on
as far. -/
def refault (s t : State) : State :=
  let c := s.curCtx
  let new := (t.ctx c).under.filter fun u => !(s.ctx c).under.any fun v => v.page == u.page
  new.foldl (fun s u => (s.pageFault c u).2) { s with free := t.free }

/-- The machine after a chain whose words, run in turn, have come to a state: where a later word has met a trap, or a wait, that it did
not meet alone, no word has taken effect (R273, R320). -/
def chainEnd (s t : State) : State :=
  match t.iss.out, t.iss.raised with
  | .trapped, some (cause, addr, info) => s.raise cause addr info
  | .waiting, _ => (s.refault t).park t.thr.wait
  | _, _ => t

/-- Executes a chain (R273, R320): no word takes effect when one traps or has to wait; else all read their operands as they stood
before the chain. -/
def runChain (s : State) (ws : List FetchedWord) : Host.Outcome State Fault Refusal :=
  match ws with
  | [w] => s.runWord w
  | _ =>
    let alone := ws.map s.runWord
    match chainTrap alone, alone.find? (leaves .waiting) with
    | some o, _ => o
    | none, some o => o
    | none, none =>
      match runAll { s with iss := { s.iss with snap := some s.thr, spSnap := some (s.team s.curTeam).sp } } (chainOrder ws) with
      | .next t => .next (s.chainEnd t)
      | o => o

/-- A thread of a context whose translations have ended exits without more ado (R295). -/
def vanish (s : State) (i : Nat) : State := if (s.thread i).live then s.onThread i fun t => { t with live := false } else s

/-- A thread has issued: it is no longer one that a pausing thread waits for (R464). -/
def noteIssued (s : State) (i : Nat) : State :=
  { s with threads := s.threads.mapVals fun _ t =>
      if t.wait = .pause then { t with yieldSet := t.yieldSet.filter fun j => j != i } else t }

/-- What a thread that has executed its chain waits for: the end of its pause, its pending results at a switch marker, or the version line
that its store has made (R61, R152, R464). -/
def afterWait (t : Thread) (switch version : Bool) : Wait :=
  if t.wait = .pause then .pause
  else if switch && !t.pending.isEmpty then .marker
  else if version then .version
  else t.wait

/-- A thread that has executed its chain goes on. -/
def advance (s : State) (i : Nat) (switch version : Bool) : State :=
  s.onThread i fun t =>
    let w := afterWait t switch version
    { t with pc := s.iss.npc, wait := w, waited := w, waitCount := 0, readyAt := s.cycle, chained := false,
             marked := w == .pause && switch }

/-- What an issue leaves behind; a thread that has issued is awaited by no pausing thread (R464). -/
def settleIssue (s : State) (i : Nat) (switch version : Bool) : State :=
  let s' := match s.iss.out with
    | .done => if (s.thread i).live then s.advance i switch version else s
    | .gone => s.vanish i
    | .trapped => s
    | .waiting => s
  s'.noteIssued i

/-- The lines of the current view: none are counted for the root, whose stores allocate no version (R152). -/
def versionLines (s : State) : Nat := if s.curView = 0 then 0 else (s.view s.curCtx s.curView).lines.length

/-- The issue position for a thread at its program counter. -/
def place (s : State) (i : Nat) : State :=
  let pc := (s.thread i).pc
  { s with iss := { s.iss with cur := i, first := pc, word := pc, npc := nextPc pc, after := nextPc pc, inChain := false,
                               switch := false, snap := none, spSnap := none, out := .done, raised := none, joint := [] } }

/-- The issue position for the fetched words of a chain. -/
def placeChain (s : State) (ws : List (W64 × W32)) : State :=
  let last := (ws.getLast?.map (·.1)).getD s.iss.first
  { s with iss := { s.iss with npc := nextPc last, after := nextPc last, inChain := 1 < ws.length,
                               switch := ws.any fun w => (headerOf w.2).switch } }

/-- A chain that breaks a rule of R320: an illegal word of it comes first, by its lower code (R275, R340). -/
def badChain (s : State) (fs : List FetchedWord) : Host.Outcome State Fault Refusal :=
  ((fs.map s.runWord).find? illegal).getD (.next (s.raise 0x02 0 0))

/-- Executes the fetched words of a thread's chain: illegal words first, then the rules of R320 (R340). -/
def runFetched (s : State) (ws : List (W64 × W32)) : Host.Outcome State Fault Refusal :=
  match readWords ws with
  | none => .next (s.raise 0x01 0 0)
  | some fs => if chainBad fs then s.badChain fs else s.runChain fs

/-- Settles an issue where the machine goes on; the lines of the thread's view were a number before it. -/
def settled_ (i : Nat) (switch : Bool) (lines : Nat) : Host.Outcome State Fault Refusal → Host.Outcome State Fault Refusal
  | .next s => .next (s.settleIssue i switch (lines < s.versionLines))
  | o => o

/-- One thread issues the chain at its program counter (R272, R274, R319, R320). -/
def issueThread (s : State) (i : Nat) : Host.Outcome State Fault Refusal :=
  let s := s.place i
  match fetchChain (wordsLeft s.iss.first) s s.iss.first with
  | .ok ws s =>
    let s := s.placeChain ws
    settled_ i s.iss.switch s.versionLines (s.runFetched ws)
  | .wait w s => .next (s.park w)
  | .trap c a x s => .next (s.raise c a x)
  | .gone s => .next (s.vanish i)

/-! ## Turns of cores and fabric processors (R38, R39, R91, R217, R313) -/

/-- Whether the instruction of the thread in the issue position is a convergence point; a word that cannot be fetched is none. -/
def atPoint (s : State) : Bool × State :=
  match s.fetchWord s.iss.first with
  | .ok w s =>
    match decodeWord w with
    | .ok (_, i) => (isConvergence i, s)
    | .error _ => (false, s)
  | .wait _ s => (false, s)
  | .trap _ _ _ s => (false, s)
  | .gone s => (false, s)

/-- The threads of a bundle issue one after another, so that their accesses take consecutive places (R348); one that an earlier one has
stopped or moved does not issue. -/
def issueAll (pc : W64) : State → List Nat → Host.Outcome State Fault Refusal
  | s, [] => .next s
  | s, i :: is =>
    if s.canIssue i && (s.thread i).pc == pc then
      match s.issueThread i with
      | .next t => issueAll pc t is
      | o => o
    else issueAll pc s is

/-- Forms the bundle of a key thread and issues it, at a charge of one issue cycle (R38, R39, R90, R91). Threads that come to a convergence
point wait there; the bundle of their group is charged when it executes (R39, R44). -/
def formBundle (s : State) (k key : Nat) : Host.Outcome State Fault Refusal :=
  let (point, s) := (s.place key).atPoint
  let b := s.bundleOf k key point
  let s := { s.bump with iss := { s.iss with bundle := b, bundleId := s.serial } }
  let c := s.ctxOf key
  let pc := (s.thread key).pc
  if point then issueAll pc s b
  else if s.hasBudget c 0 k then issueAll pc (s.charge c 0 k 1) b
  else .next (b.foldl (fun s i => s.parkThread i .budget) s)

/-- A turn of a core: the bundle of its key thread issues (R38, R39). A throttled die issues in every other cycle only (R313): in the odd
ones, among which are those that choose the thread with the longest wait (R38). -/
def coreTurn (s : State) (k : Nat) : Host.Outcome State Fault Refusal :=
  if s.throttled (k / 96) && s.cycle % 2 == 0 then .next s
  else match s.keyThread k with
    | none => .next s
    | some key => s.formBundle k key

/-- The slot whose turn it is: a ready one, or one that looks whether its residual object is still held (R217, R253). -/
def nextSlot (s : State) (p : Nat) : Option Nat :=
  let n := (s.fab p).turn
  ((span 0 16).map fun j => (n + j) % 16).find? fun i =>
    (s.fslot p i).any fun x => x.wait == .ready || x.wait == .residual

/-- The instruction at a slot's program counter; none beyond LEN or where the word is no instruction (R218, R342). -/
def slotInstr (s : State) (p : Nat) (x : FSlot) : Option Instr :=
  ((s.fab p).images.find? x.image).bind fun im =>
    if x.pc < im.len then (im.code[x.pc]?).bind fun w => (decodeFx w).toOption else none

/-- The folds that are due between two instructions of a slot are made; one whose page faults holds the slot (R256, R267), and one outside the
global window ends its collective with status 8 (R382). -/
def foldTurn (s : State) (p i : Nat) : State :=
  let s := s.foldSlot p i
  if s.foldsBad p i then (s.dropBad p i).beginEnd p i 8
  else if s.foldsDue p i then s.waitFSlot p i .memory else s

/-- One slot of a processor issues (R217, R218, R249, R267, R342, R388). -/
def issueSlot (s : State) (p i : Nat) (x : FSlot) : Host.Outcome State Fault Refusal :=
  if s.slotStopped x then .next (s.waitFSlot p i .switchedOut)
  else if x.ending.isSome then .next (s.finishSlot p i)
  else if x.prog == 0 && s.foldsDue p i then .next (s.foldTurn p i)
  else match s.slotInstr p x with
    | none => .next (s.beginEnd p i 4)
    | some ins => exec ins { s with iss := { s.iss with proc := p, slot := i, fnext := x.pc + 1, joint := [] } }

/-- A slot's turn (R217, R240): between two instructions its receives whose deadline has passed close first; a deadline that ends its
collective ends the turn. -/
def slotTurn (s : State) (p i : Nat) (x : FSlot) : Host.Outcome State Fault Refusal :=
  let s := if x.prog == 0 then s.lapseSlot p i x else s
  match s.fslot p i with
  | none => .next s
  | some x => s.issueSlot p i x

/-- A turn of a fabric processor (R217). -/
def fabricTurn (s : State) (p : Nat) : Host.Outcome State Fault Refusal :=
  match s.nextSlot p with
  | none => .next s
  | some i =>
    match s.fslot p i with
    | none => .next s
    | some x => (s.onFab p fun f => { f with turn := (i + 1) % 16 }).slotTurn p i x

end State

/-! ## The other turns -/

/-- Whether an instruction is an event of the module, and not a word of a program. -/
def isEvent (i : Instr) : Bool := (encodeWord Header.plain i).isNone && (encodeFx i).isNone

/-- The events that the board brings about, which need no power in the module (R312). -/
def isBoardEvent : Instr → Bool
  | .pwrReq .. | .resetReq .. | .coldReset | .powerRemoval => true
  | _ => false

namespace State

/-- An event happens, unless the module has no power or its data has the wrong size. -/
def eventTurn (s : State) (i : Instr) : Host.Outcome State Fault Refusal :=
  if isEvent i && i.illFormed.isNone && (s.powered || isBoardEvent i) then exec i s.newRequest else .next s

/-- Performs a turn. DESIGN CHOICE (log 38): the I3C registers answer in every power state, SELFREF and OFF included, which PWR_STATE has values
for: a read gives what they hold, and a write of AGENTSEL or PCAP takes effect (R28, R312). -/
def perform_ (s : State) : Turn → Host.Outcome State Fault Refusal
  | .core k => if s.powered && k < 1536 then s.coreTurn k else .next s
  | .fabric p => if s.powered && p < 32 then s.fabricTurn p else .next s
  | .event i => s.eventTurn i
  | .cycles n => .next (s.pass_ n)
  | .dropTlb c => .next (s.onCtx c fun x => { x with tlb := [] })
  | .dropCode k key => .next (s.onCore k fun x => { x with icache := x.icache.erase key })
  | .writeBack t => if s.onCores t then .next (s.writeBackTeam t) else .next s
  | .debugger on => .next { s with dbg := on }
  | .resume i => .next (s.resumeThread i)
  | .arrival t => .next (s.arriveTeam t)
  | .registerRead agent off size => .next (s.readBy agent off size)
  | .boardRead a => .next (s.emit (.boardData a (s.boardByte a)))
  | .hostLink agent up => .next (s.hostLinkTo agent up)
  | .mask agent v on => .next (s.maskVector agent v on)
  | .agentsel x => .next { s with hub := { s.hub with agentsel := x } }
  | .pcap x => .next (if 2000 ≤ x.toNat ∧ x.toNat ≤ 10000 then s.writePcap x else s)

/-! ## What moves next when no turn has been chosen -/

/-- The events that the module brings about by itself, chosen by a number, with two arguments. -/
def ownEvent (n a b : Nat) : Instr :=
  match n % 45 with
  | 0 => .variableResultWrite a b | 1 => .groupExchange a b | 2 => .forcedExchange a | 3 => .exchangeDone a b
  | 4 => .slotFill a b | 5 => .yieldResume a | 6 => .rclaimGrant a | 7 => .teamPlacement a | 8 => .balanceExchange a
  | 9 => .budgetPeriod | 10 => .scratchpadCompaction a b | 11 => .wqRecordFetch a | 12 => .futureWalk a
  | 13 => .jobSector a (b / 1024) (b % 1024) | 14 => .sectorLand a b | 15 => .intervalRetire a b | 16 => .mmaMultiplyStart a
  | 17 => .mmaComplete a | 18 => .cloneStart a | 19 => .outboxEntry a | 20 => .viewSweep a | 21 => .xinvComplete
  | 22 => .contextTeardown a | 23 => .watchdog a | 24 => .fabricWatchdog a b | 25 => .drainLimit a | 26 => .teamSaveComplete a
  | 27 => .switchOutComplete a | 28 => .teamRestore a | 29 => .scrubCoreState | 30 => .scrubGranule a | 31 => .scrubJournalWrite
  | 32 => .scrubEnd | 33 => .attestationDone | 34 => .handshakeRetry a b | 35 => .keyRotationStart a b | 36 => .keySwitch a b
  | 37 => .oldKeyDiscard a b | 38 => .startRequest a | 39 => .imageLoadComplete a b | 40 => .deferredFireRelease a
  | 41 => .receiveDeadline a (b / 64) (b % 64) | 42 => .storePerformed a | 43 => .transportGiveUp (a % 4) (a / 4) b
  | _ => .packetRetransmit (a % 4) (a / 4) b

/-- A turn by a number: every core, every processor, the passing of a cycle, the arrival of a team, or an event of the module itself. -/
def ownTurn (n : Nat) : Turn :=
  match n % 5 with
  | 0 => .core (n / 5)
  | 1 => .fabric (n / 5)
  | 2 => .cycles 1
  | 3 => .arrival (n / 5)
  | _ => .event (ownEvent (n / 5) (n / 225 % 4194304) (n / 943718400))

end State

end Sys2Proof.Machine
end

