-- ==== Sys2Proof/Machine/Place.lean ====
section
/-! DEFINITION. The placing of one instruction where the next step fetches it: a Gorbex word at the program counter of a thread whose
turn it is, or an Akpor word in the image of a slot whose turn it is. It stands for what software does to get there: the boot and
the binding of a context (R299, R302, R310), the acceptance of a task record (R78) or the loading of an image (R218). -/

namespace Sys2Proof.Machine

/-- The kept translation of the page at virtual address 0, onto partition address 0 (R281). -/
def placedPage : TlbEntry := ⟨0, 4096, 0, true, true, 0, false, false, true⟩

/-- A running context in the partition of a die, whose first page is translated (R302). -/
def placedCtx (lead : Nat) : Ctx :=
  { Ctx.reset with part := BitVec.ofNat 4 lead, ptroot := 1, state := 1, tlb := [placedPage] }

/-- A team of one group of 16 threads on core 0, with 64 registers a thread (R33, R63). -/
def placedTeam : Team :=
  { Team.queued with record := { TaskRecord.zero with x := 1, y := 1, z := 1, regs := 64 }, slot := some 0, phase := .placed }

namespace State

/-- Context 0 runs, on a module with power that is not throttled. -/
def placeCtx (s : State) : State :=
  { s with ctxs := s.ctxs.set 0 (placedCtx (s.leadOf 0)), hub := { s.hub with power := .active, temps := [], watts := 0 } }

/-- Bytes stand at the start of context 0's first page, in a granule without a tag, and core 0 keeps no older copy of them. -/
def placeBytes (s : State) (bs : List Byte) : State :=
  let key := physKey (s.ctxDies 0) 0
  let s := { s with mem := s.mem.writes key bs, hub := { s.hub with
    tags := s.hub.tags.erase (key / 4096), enciphered := s.hub.enciphered.erase (key / 16) } }
  s.onCore 0 fun k => { k with icache := (k.icache.erase key).erase (key + 4) |>.erase (key + 8) }

/-- Thread 0 of team 0 stands ready at address 0, alone of its group, with the guard predicate of a header true, and the next turn
is its. -/
def placeThread (s : State) (h : Header) : State :=
  let t := ({ Thread.start with limit := 64 }).setPred h.gsel.toNat (!h.gneg)
  let s := { s with threads := s.threads.set 0 t, groups := s.groups.set 0 ⟨0, 64, none, [], none, [0]⟩,
                    teams := s.teams.set 0 placedTeam, turns := [.core 0] }
  s.onCore 0 fun k => { k with slots := [(0, ⟨0, none, 0⟩)] }

/-- A Gorbex word, and words of zeros up to the end of its packet, stand where thread 0 fetches its chain. -/
def placeGorbex (s : State) (w : Nat) : State :=
  (s.placeCtx.placeBytes (leBytes 4 w ++ leBytes 8 0)).placeThread (headerOf (BitVec.ofNat 32 w))

/-- An Akpor word is the loaded image that slot 0 of fabric processor 0 runs, and the next turn is that slot's. -/
def placeAkpor (s : State) (w : Nat) : State :=
  let s := s.placeCtx.onFab 0 fun f =>
    { f with turn := 0, images := [(0, ⟨0, 0, 1, 1, [BitVec.ofNat 64 w], 0, true⟩)], slots := [(0, FSlot.start)] }
  { s with turns := [.fabric 0] }

end State

end Sys2Proof.Machine
end

