-- ==== Sys2Proof/Machine/Step.lean ====
section
/-! DEFINITION. One step of the machine, and the placing of a word where the next step fetches it. -/

namespace Sys2Proof.Machine

/-- One step: the first turn that has been chosen, or, where none has been, one that the model leaves open. -/
def step (s : State) : Host.Outcome State Fault Refusal :=
  match s.turns with
  | t :: ts => ({ s with turns := ts } : State).perform_ t
  | [] => s.draw.perform_ (State.ownTurn (Config.nextAgent s.free))

/-- The instruction stands where the next step fetches it: a Gorbex word of 32 bits, or an Akpor word of 64. -/
def State.withFetchWord (s : State) (nbits w : Nat) : State := if nbits ≤ 32 then s.placeGorbex w else s.placeAkpor w

end Sys2Proof.Machine
end

