-- ==== Sys2Proof/Safety.lean ====
section
/-! DEFINITION. The terms in which statements about the machine are made: when a thread or a slot can execute, when a step goes on,
and what holds of every state that the machine reaches. -/

namespace Sys2Proof.Machine

/-- A register or predicate of a thread that a word may touch: below the limit, and not pending (R53, R60). -/
abbrev Touch.clear (x : Touch) (t : Thread) : Bool := !x.above t.limit && !x.pendingIn t

/-- The thread in the issue position is live, and the registers and predicates that its word touches are clear. -/
abbrev Ready (s : State) (ts : List Touch) : Prop := s.thr.live = true ∧ ts.all (fun x => x.clear s.opnd) = true

/-- The slot in the issue position runs a collective. -/
abbrev SlotReady (s : State) (x : FSlot) : Prop := s.fslot s.iss.proc s.iss.slot = some x

/-- A step that neither faults nor is refused. -/
def GoesOn : Host.Outcome State Fault Refusal → Prop
  | .next _ => True
  | _ => False

/-- The memory holds its canonical form, so that equal memories are equal data. -/
abbrev Canonical (s : State) : Prop := s.mem.wf = true

end Sys2Proof.Machine
end

