-- ==== Sys2Proof/Certificates/Slice0/Obligations.lean ====
section
/-! DEFINITION. The statements about the machine, from the numbered rules of the spec. -/

open Sys2Proof Sys2Proof.Machine

/-! ## Terms that several statements share -/

/-- The state in which a load of n bytes leaves a thread: a register, or a pair for eight bytes, is pending with the value. -/
def filed (s : State) (d : Reg) (n : Nat) (bs : List Byte) : State :=
  if n = 8 then s.later [(d.toNat, BitVec.ofNat 32 (leNat (bs.take 4))), (d.toNat + 1, BitVec.ofNat 32 (leNat (bs.drop 4)))] []
  else s.later [(d.toNat, BitVec.ofNat 32 (leNat bs))] []

/-- The bytes that a store of n bytes stores: the low bytes of the data register, or of the pair for eight bytes. -/
def storeData (s : State) (d : Reg) (n : Nat) : List Byte := natLe n (if n = 8 then (s.vd d).toNat else (s.v d).toNat)

/-- Fewer than 256 memory requests of the current core await their value (R17). -/
abbrev RequestRoom (s : State) : Prop := ((s.core s.curCore).requests.filter fun e => (s.thread e.1).regPending e.2).length < 256

/-- The state in which the value of a register is one more request that the current core awaits (R17). -/
def awaiting (s : State) (d : Reg) : State := s.onCore s.curCore fun k => { k with
  requests := (k.requests.filter fun e => (s.thread e.1).regPending e.2) ++ [(s.iss.cur, d.toNat)] }

/-- The state in which a result that returns to a thread answers the requests that wait for its registers (R17, R60). -/
def answers (s : State) (i : Nat) (r : Reply) : State := s.onCore (s.coreOf i) fun k => { k with
  requests := k.requests.filter fun e => !(e.1 == i && r.regs.any fun w => w.1 == e.2) }

/-- A unit's access of n bytes is translated, and served at the charge of R90: the key, the page and the state after both (R91, R283). -/
abbrev Served (s : State) (c va n : Nat) (w : Want) (agent source key : Nat) (leaf : TlbEntry) (t : State) : Prop :=
  ∃ u, s.xlat c va w agent source 0 = (.ok key leaf, u) ∧ u.memTurn c key n = some t

/-- A unit's load of n bytes is translated and served, and finds these bytes (R91, R283). -/
abbrev Loaded (s : State) (c va n agent source : Nat) (bs : List Byte) (t : State) : Prop :=
  ∃ key leaf, Served s c va n .read agent source key leaf t ∧ bs = t.pageRead c leaf.prot key n

/-! ## The ALU pipe -/

/-- R344, R345, R419, R428, R433, R456, R463: the two- and three-operand integer instructions, on registers and on pairs. -/
def Obligations.IntegerArithmetic : Prop :=
  ∀ (s : State) (d a b : Reg) (m : Bool),
    (Ready s (if m then pairs [d, a, b] else regs [d, a, b]) →
      let result (f : W32 → W32 → W32) (g : W64 → W64 → W64) : Host.Outcome State Fault Refusal :=
        .next (if m then s.setVd d (g (s.vd a) (s.vd b)) else s.setV d (f (s.v a) (s.v b)))
      exec (.add d a b m) s = result (fun x y => x + y) (fun x y => x + y) ∧
      exec (.sub d a b m) s = result (fun x y => x - y) (fun x y => x - y) ∧
      exec (.and d a b m) s = result (fun x y => x &&& y) (fun x y => x &&& y) ∧
      exec (.or d a b m) s = result (fun x y => x ||| y) (fun x y => x ||| y) ∧
      exec (.xor d a b m) s = result (fun x y => x ^^^ y) (fun x y => x ^^^ y)) ∧
    (Ready s (regs [d, a, b]) →
      exec (.mul d a b) s = .next (s.setV d (BitVec.ofNat 32 ((s.v a).toNat * (s.v b).toNat))) ∧
      exec (.mulh d a b m) s = .next (s.setV d
        (if m then BitVec.ofNat 32 ((s.v a).toNat * (s.v b).toNat / 2 ^ 32)
         else BitVec.ofInt 32 ((s.v a).toInt * (s.v b).toInt / 2 ^ 32))) ∧
      exec (.mad d a b) s = .next (s.setV d
        (BitVec.ofNat 32 ((s.v a).toNat * (s.v b).toNat + (s.v d).toNat))))

/-- R344, R345, R417, R426 to R428, R433, R450, R463: the forms with an immediate, the moves, and the shifts, by a count that is not
reduced to the width, on registers, pairs and with an immediate. -/
def Obligations.ImmediatesAndShifts : Prop :=
  (∀ (s : State) (d a : Reg) (imm : BitVec 7) (imm13 : BitVec 13),
    (Ready s (regs [d, a]) →
      exec (.addImm d a imm) s = .next (s.setV d (s.v a + imm.signExtend 32)) ∧
      exec (.mulImm d a imm) s = .next (s.setV d (s.v a * imm.signExtend 32)) ∧
      exec (.andImm d a imm) s = .next (s.setV d (s.v a &&& imm.signExtend 32)) ∧
      exec (.orImm d a imm) s = .next (s.setV d (s.v a ||| imm.signExtend 32)) ∧
      exec (.xorImm d a imm) s = .next (s.setV d (s.v a ^^^ imm.signExtend 32)) ∧
      exec (.mov d a) s = .next (s.setV d (s.v a))) ∧
    (Ready s (regs [d]) →
      exec (.movi d imm13) s = .next (s.setV d (imm13.signExtend 32)) ∧
      exec (.movh d imm13) s = .next (s.setV d (BitVec.ofNat 32 ((s.v d).toNat * 2 ^ 13 + imm13.toNat)))) ∧
    (Ready s (pair d ++ regs [a]) →
      exec (.leaS d a) s = .next (s.setVd d (BitVec.ofNat 64 (0xFE * 2 ^ 56 + (s.v a).toNat))) ∧
      exec (.leaP d a) s = .next (s.setVd d (BitVec.ofNat 64 (0xFD * 2 ^ 56 + (s.v a).toNat))))) ∧
  (∀ (s : State) (d a b : Reg) (m : Bool) (imm : BitVec 7),
    (Ready s (if m then pairs [d, a] ++ regs [b] else regs [d, a, b]) →
      let c := (s.v b).toNat % 256
      exec (.shl d a b m) s = .next (if m then s.setVd d (BitVec.ofNat 64 ((s.vd a).toNat * 2 ^ c))
        else s.setV d (BitVec.ofNat 32 ((s.v a).toNat * 2 ^ c))) ∧
      exec (.shr d a b m) s = .next (if m then s.setVd d (BitVec.ofNat 64 ((s.vd a).toNat / 2 ^ c))
        else s.setV d (BitVec.ofNat 32 ((s.v a).toNat / 2 ^ c))) ∧
      exec (.sar d a b m) s = .next (if m then s.setVd d (BitVec.ofInt 64 ((s.vd a).toInt / 2 ^ c))
        else s.setV d (BitVec.ofInt 32 ((s.v a).toInt / 2 ^ c)))) ∧
    (Ready s (regs [d, a]) →
      exec (.shlImm d a imm) s = .next (s.setV d (BitVec.ofNat 32 ((s.v a).toNat * 2 ^ imm.toNat))) ∧
      exec (.shrImm d a imm) s = .next (s.setV d (BitVec.ofNat 32 ((s.v a).toNat / 2 ^ imm.toNat))) ∧
      exec (.sarImm d a imm) s = .next (s.setV d (BitVec.ofInt 32 ((s.v a).toInt / 2 ^ imm.toNat)))))

/-- R363, R435: `clz` and `popc` have their words and write their counts at once. Beside them `bfi`, `bfx`, `min`, `max` and `sel` (R354, R355,
R420, R448): bit fields bit by bit, minimum, maximum and selection. -/
def Obligations.BitFieldsAndSelection : Prop :=
  ∀ (s : State) (d a b : Reg) (m : Bool),
    (Ready s (regs [d, a, b]) →
      let pos := (s.v b).toNat % 32
      let len := min ((s.v b).toNat / 256 % 64) (32 - pos)
      (∃ x : W32, exec (.bfi d a b) s = .next (s.setV d x) ∧ ∀ i < 32, x.getLsbD i =
        if pos ≤ i ∧ i < pos + len then (s.v a).getLsbD (i - pos) else (s.v d).getLsbD i) ∧
      (∃ x : W32, exec (.bfx d a b m) s = .next (s.setV d x) ∧ ∀ i < 32, x.getLsbD i =
        if i < len then (s.v a).getLsbD (pos + i)
        else m && decide (0 < len) && (s.v a).getLsbD (pos + len - 1)) ∧
      exec (.min d a b m) s = .next (s.setV d
        (if m then BitVec.ofNat 32 (min (s.v a).toNat (s.v b).toNat) else BitVec.ofInt 32 (min (s.v a).toInt (s.v b).toInt))) ∧
      exec (.max d a b m) s = .next (s.setV d
        (if m then BitVec.ofNat 32 (max (s.v a).toNat (s.v b).toNat) else BitVec.ofInt 32 (max (s.v a).toInt (s.v b).toInt))) ∧
      exec (.sel d a b) s = .next (s.setV d (if s.v d = 0 then s.v b else s.v a))) ∧
    (Ready s (regs [d, a]) →
      (∃ x : W32, exec (.clz d a) s = .next (s.setV d x) ∧ x.toNat ≤ 32 ∧ (s.v a).toNat < 2 ^ (32 - x.toNat) ∧
        (s.v a ≠ 0 → 2 ^ (31 - x.toNat) ≤ (s.v a).toNat) ∧ (s.v a = 0 → x.toNat = 32)) ∧
      exec (.popc d a) s = .next (s.setV d
        (BitVec.ofNat 32 ((List.range 32).countP fun i => (s.v a).getLsbD i)))) ∧
    ∀ e ∈ [(Instr.clz d a, 1), (.popc d a, 2)],
      decodeWord (BitVec.ofNat 32 (7 * 2 ^ 26 + 0x50 * 2 ^ 19 + d.toNat * 2 ^ 13 + a.toNat * 2 ^ 7 + e.2)) = .ok (.plain, e.1)

/-- R364, R434: integer compares into predicates, and predicate logic; the half of every predicate is the word's m bit. -/
def Obligations.ComparesAndPredicates : Prop :=
  ∀ (s : State) (d a b : Reg) (m : Bool),
    let half (r : Reg) : Nat := r.toNat + (if m then 64 else 0)
    (Ready s (preds [d] m ++ regs [a, b]) →
      exec (.cmpEq d a b m) s = .next (s.setP (half d) (decide (s.v a = s.v b))) ∧
      exec (.cmpNe d a b m) s = .next (s.setP (half d) (decide (s.v a ≠ s.v b))) ∧
      exec (.cmpLt d a b m) s = .next (s.setP (half d) (decide ((s.v a).toInt < (s.v b).toInt))) ∧
      exec (.cmpLe d a b m) s = .next (s.setP (half d) (decide ((s.v a).toInt ≤ (s.v b).toInt))) ∧
      exec (.cmpLtu d a b m) s = .next (s.setP (half d) (decide ((s.v a).toNat < (s.v b).toNat))) ∧
      exec (.cmpLeu d a b m) s = .next (s.setP (half d) (decide ((s.v a).toNat ≤ (s.v b).toNat)))) ∧
    (Ready s (preds [d, a, b] m) →
      exec (.pand d a b m) s = .next (s.setP (half d) (s.p (half a) && s.p (half b))) ∧
      exec (.por d a b m) s = .next (s.setP (half d) (s.p (half a) || s.p (half b))) ∧
      exec (.pxor d a b m) s = .next (s.setP (half d) (s.p (half a) ^^ s.p (half b)))) ∧
    (Ready s (preds [d, a] m) →
      exec (.pnot d a m) s = .next (s.setP (half d) (!s.p (half a))) ∧
      exec (.pmov d a m) s = .next (s.setP (half d) (s.p (half a))))

/-- What `setV`, `setVd` and `setP` do: one register, one pair or one predicate of the thread in the issue position changes, and nothing
else of the machine (R92, R344). -/
def Obligations.RegisterWrites : Prop :=
  ∀ (s : State) (r : Reg) (x : W32) (y : W64) (n : Nat) (b : Bool), n < 128 →
    let i := s.iss.cur
    (∀ t ∈ [s.setV r x, s.setVd r y, s.setP n b],
      { t with threads := s.threads } = s ∧ (∀ j, j ≠ i → t.thread j = s.thread j) ∧
      { t.thread i with regs := (s.thread i).regs, preds := (s.thread i).preds } = s.thread i) ∧
    (∀ k, ((s.setV r x).thread i).regs.get k 0 = if k = r.toNat then x else (s.thread i).regs.get k 0) ∧
    (∀ k, ((s.setVd r y).thread i).regs.get k 0 =
      if k = r.toNat then y.truncate 32 else if k = r.toNat + 1 then (y >>> 32).truncate 32 else (s.thread i).regs.get k 0) ∧
    (∀ k, ((s.setP n b).thread i).regs.get k 0 = (s.thread i).regs.get k 0) ∧
    (∀ k < 128, ((s.setP n b).thread i).preds.getLsbD k = if k = n then b else (s.thread i).preds.getLsbD k) ∧
    ((s.setV r x).thread i).preds = (s.thread i).preds ∧ ((s.setVd r y).thread i).preds = (s.thread i).preds

/-! ## The XU pipe -/

/-- Whether a 32-bit code is an FP32 NaN: the exponent field is all ones and the fraction is not zero (R170). -/
def nanBits (x : W32) : Bool := x.extractLsb' 23 8 == 0xFF && x.extractLsb' 0 23 != 0

/-- R372, R373, R376: FP32 arithmetic and compares on single registers. -/
def Obligations.FloatArithmetic : Prop :=
  ∀ (s : State) (rnd : Rnd) (d a b : Reg) (m : Bool),
    let x := (s.v a).toNat
    let y := (s.v b).toNat
    let half (r : Reg) : Nat := r.toNat + (if m then 64 else 0)
    (Ready s (regs [d, a, b]) →
      exec (.fadd rnd d a b) s = .next (s.setV d (BitVec.ofNat 32 (fAdd fp32 rnd x y))) ∧
      exec (.fmul rnd d a b) s = .next (s.setV d (BitVec.ofNat 32 (fMul fp32 rnd x y))) ∧
      exec (.fma rnd d a b) s = .next (s.setV d (BitVec.ofNat 32 (fFma fp32 rnd x y (s.v d).toNat))) ∧
      exec (.fmin d a b) s = .next (s.setV d (BitVec.ofNat 32 (fMinMax fp32 false x y))) ∧
      exec (.fmax d a b) s = .next (s.setV d (BitVec.ofNat 32 (fMinMax fp32 true x y)))) ∧
    (Ready s (preds [d] m ++ regs [a, b]) →
      exec (.fcmpEq d a b m) s = .next (s.setP (half d) ((fp32.decode x).eqv (fp32.decode y))) ∧
      exec (.fcmpLt d a b m) s = .next (s.setP (half d) ((fp32.decode x).lt (fp32.decode y))) ∧
      exec (.fcmpLe d a b m) s =
        .next (s.setP (half d) ((fp32.decode x).lt (fp32.decode y) || (fp32.decode x).eqv (fp32.decode y))) ∧
      exec (.fcmpUn d a b m) s = .next (s.setP (half d) (nanBits (s.v a) || nanBits (s.v b))))

/-- R174, R413: the packed instructions compute both 16-bit elements independently, FP16 or, when m is set, BF16. -/
def Obligations.PackedHalfPrecision : Prop :=
  ∀ (s : State) (d a b : Reg) (m : Bool), Ready s (regs [d, a, b]) →
    let fmt := if m then bf16 else fp16
    let el (r : Reg) (e : Nat) : Nat := (s.v r).toNat / 2 ^ (16 * e) % 2 ^ 16
    ∀ c ∈ [(Instr.hadd2 d a b m, fun e => fAdd fmt .rne (el a e) (el b e)),
           (Instr.hmul2 d a b m, fun e => fMul fmt .rne (el a e) (el b e)),
           (Instr.hfma2 d a b m, fun e => fFma fmt .rne (el a e) (el b e) (el d e)),
           (Instr.hmin2 d a b m, fun e => fMinMax fmt false (el a e) (el b e)),
           (Instr.hmax2 d a b m, fun e => fMinMax fmt true (el a e) (el b e))],
      ∃ x : W32, exec c.1 s = .next (s.setV d x) ∧ ∀ e < 2, x.toNat / 2 ^ (16 * e) % 2 ^ 16 = c.2 e

/-- R172, R173: an FP32 result is the canonical NaN when an operand is NaN, whatever its payload and sign, in every rounding direction (of
`fma` the third operand, which is the destination register, too), and a compare of R373 with such an operand is false, but for `fcmp.un`; the special inputs of the FP32 functions. -/
def Obligations.NanAndSpecialInputs : Prop :=
  (∀ (s : State) (rnd : Rnd) (d a b : Reg) (m : Bool), nanBits (s.v a) = true ∨ nanBits (s.v b) = true →
    (Ready s (regs [d, a, b]) → ∀ i ∈ [Instr.fadd rnd d a b, .fmul rnd d a b, .fma rnd d a b, .fmin d a b, .fmax d a b],
      exec i s = .next (s.setV d 0x7FC00000)) ∧
    (Ready s (preds [d] m ++ regs [a, b]) →
      (∀ i ∈ [Instr.fcmpEq d a b m, .fcmpLt d a b m, .fcmpLe d a b m],
        exec i s = .next (s.setP (d.toNat + if m then 64 else 0) false)) ∧
      exec (.fcmpUn d a b m) s = .next (s.setP (d.toNat + if m then 64 else 0) true))) ∧
  (∀ (s : State) (rnd : Rnd) (d a b : Reg), nanBits (s.v d) = true → Ready s (regs [d, a, b]) →
    exec (.fma rnd d a b) s = .next (s.setV d 0x7FC00000)) ∧
  ([0x00000000, 0x80000000, 0x7F800000, 0xFF800000, 0x7F800001, 0xFFC00000].map fRcp =
    [0x7F800000, 0xFF800000, 0, 0x80000000, 0x7FC00000, 0x7FC00000] ∧
  [0x00000000, 0x80000000, 0xBF800000, 0x7F800000, 0xFF800000, 0x7F800001].map fRsq =
    [0x7F800000, 0xFF800000, 0x7FC00000, 0, 0x7FC00000, 0x7FC00000] ∧
  [0x00000000, 0x80000000, 0xBF800000, 0x7F800000, 0xFF800000, 0x7F800001].map fSqrt =
    [0, 0x80000000, 0x7FC00000, 0x7F800000, 0x7FC00000, 0x7FC00000] ∧
  [0x00000000, 0x80000000, 0x7F800000, 0xFF800000, 0x7F800001].map fExp2 = [0x3F800000, 0x3F800000, 0x7F800000, 0, 0x7FC00000] ∧
  [0x00000000, 0x80000000, 0xBF800000, 0x7F800000, 0xFF800000, 0x7F800001].map fLog2 =
    [0xFF800000, 0xFF800000, 0x7FC00000, 0x7F800000, 0x7FC00000, 0x7FC00000])

/-- R59, R60, R173, R179, R338, R368, R369, R375: the FP32 functions and `cvt` from every source format file a result of variable
latency, the source's value rounded to the destination; the destination is pending until then. -/
def Obligations.LatentFloatResults : Prop :=
  (∀ (s : State) (d a : Reg), Ready s (regs [d, a]) →
    ∀ c ∈ [(Instr.frcp d a, fRcp), (.frsq d a, fRsq), (.fsqrt d a, fSqrt), (.fexp2 d a, fExp2), (.flog2 d a, fLog2)],
      ∃ t, exec c.1 s = .next t ∧ t = s.later [(d.toNat, BitVec.ofNat 32 (c.2 (s.v a).toNat))] [] ∧
        t.thr.regPending d.toNat = true ∧ t.thr.regs = s.thr.regs) ∧
  (∀ (s : State) (dst : ElemFmt) (sat : Bool) (rnd : Rnd) (d a : Reg), Ready s (regs [d, a]) →
    let put (x : W32) : Host.Outcome State Fault Refusal := .next (s.later [(d.toNat, x)] [])
    let low (n : Nat) : Nat := (s.v a).toNat % 2 ^ n
    exec (.cvtFromF32 dst sat rnd d a) s = put (cvtResult dst sat rnd (fp32.decode (low 32))) ∧
    exec (.cvtFromF16 dst sat rnd d a) s = put (cvtResult dst sat rnd (fp16.decode (low 16))) ∧
    exec (.cvtFromBf16 dst sat rnd d a) s = put (cvtResult dst sat rnd (bf16.decode (low 16))) ∧
    exec (.cvtFromE4m3 dst sat rnd d a) s = put (cvtResult dst sat rnd (e4m3.decode (low 8))) ∧
    exec (.cvtFromE5m2 dst sat rnd d a) s = put (cvtResult dst sat rnd (e5m2.decode (low 8))) ∧
    exec (.cvtFromE2m1 dst sat rnd d a) s = put (cvtResult dst sat rnd (e2m1.decode (low 4))) ∧
    exec (.cvtFromInt32 dst sat rnd d a) s =
      put (cvtResult dst sat rnd (.fin (decide ((s.v a).toInt < 0)) (s.v a).toInt.natAbs 0)) ∧
    exec (.cvtFromUint32 dst sat rnd d a) s = put (cvtResult dst sat rnd (.fin false (s.v a).toNat 0)) ∧
    exec (.cvtFromE8m0 dst sat rnd d a) s =
      put (cvtResult dst sat rnd (if low 8 = 255 then .nan else .fin false 1 ((low 8 : Int) - 127))))

/-! ## Special registers -/

/-- R31, R93, R124, R145, R276, R452: `srd` of every special register. Those of the third list may be read in the supervisor handler only; elsewhere
the read is an illegal instruction. Of the registers of variable latency, a lease counter reads the events counted since its last
read, which are free, and keeps the sum. -/
def Obligations.SpecialRegisterReads : Prop :=
  (∀ (s : State) (d : Reg), Ready s (regs [d]) →
    let i := s.iss.cur
    let team := s.team (i / 1024)
    let t := s.opnd
    let lo (x : W64) : W32 := x.truncate 32
    let hi (x : W64) : W32 := (x >>> 32).truncate 32
    let num (n : Nat) : W32 := BitVec.ofNat 32 n
    let tvec := (s.ctx team.ctx).tvec &&& 0x1FFFFFFFFFFFFFF
    let gidx := i % 1024 / max 1 team.record.width
    (∀ c ∈ ([(0x000, num (i % 1024 % max 1 team.record.width)), (0x001, num gidx), (0x002, num (i % 1024)),
        (0x003, num team.record.width), (0x004, num team.record.groups), (0x005, team.tx), (0x006, team.ty), (0x007, team.tz),
        (0x008, num (team.record.roles.toNat / 2 ^ (2 * gidx) % 4)), (0x009, num team.rival), (0x00A, num s.curCore),
        (0x00B, num team.ctx), (0x00C, num team.view), (0x00D, num (team.record.scratch * 4096)), (0x020, t.stklim),
        (0x108, lo t.udvec), (0x109, hi t.udvec), (0x10B, t.ucause), (0x10C, lo t.uepc), (0x10D, hi t.uepc), (0x10E, lo t.uaddr),
        (0x10F, hi t.uaddr), (0x110, t.uinfo), (0x111, t.mode.zeroExtend 32),
        (0x10A, (t.udmask &&& (s.ctx team.ctx).deleg.truncate 3).zeroExtend 32)] : List (BitVec 13 × W32)),
      exec (.srd d c.1) s = .next (s.setV d c.2)) ∧
    (∀ n : BitVec 13, 0x010 ≤ n.toNat → n.toNat ≤ 0x01F →
      exec (.srd d n) s = .next (s.setV d (t.consts.get (n.toNat - 0x010) 0))) ∧
    (∀ c ∈ ([(0x100, lo tvec), (0x101, hi tvec), (0x102, t.tcause), (0x103, lo t.tepc), (0x104, hi t.tepc), (0x105, lo t.taddr),
        (0x106, hi t.taddr), (0x107, t.tinfo), (0x112, 0)] : List (BitVec 13 × W32)),
      exec (.srd d c.1) s = .next (if t.mode = 2 then s.setV d c.2 else s.raise 0x01 0 0))) ∧
  (∀ (s : State) (d : Reg), Ready s (regs [d]) →
    let k := s.core s.curCore
    exec (.srd d 0x030) s = .next (s.later [(d.toNat, BitVec.ofNat 32 s.cycle)] []) ∧
    exec (.srd d 0x031) s = .next (s.later [(d.toNat, BitVec.ofNat 32 (s.cycle / 2 ^ 32))] []) ∧
    exec (.srd d 0x150) s = .next (s.later [(d.toNat, BitVec.ofNat 32 (s.freeViews s.curCtx).length)] []) ∧
    ∃ e : W32,
      exec (.srd d 0x140) s =
        .next ((s.setCore s.curCore { k with lsrenew := k.lsrenew + e }).draw.later [(d.toNat, k.lsrenew + e)] []) ∧
      exec (.srd d 0x141) s =
        .next ((s.setCore s.curCore { k with lsstale := k.lsstale + e }).draw.later [(d.toNat, k.lsstale + e)] []) ∧
      exec (.srd d 0x142) s =
        .next ((s.setCore s.curCore { k with wsbump := k.wsbump + e }).draw.later [(d.toNat, k.wsbump + e)] []))

/-- R98, R276, R452: `swr` of the registers that any mode may write, and of those that only the supervisor handler may write; a wrong
stack limit, and every register that the mode may not write, is an illegal instruction. `sr.kill` in the supervisor handler ends the
thread's team, or with the value 2 every rival of its world, and ignores every other value (R279, R453). That `sr.tepc` keeps every bit
written, and that `sr.udvec` keeps the 57 bits of an address and drops the others, is the model's choice, of which R276 says nothing
(log 27). -/
def Obligations.SpecialRegisterWrites : Prop :=
  ∀ (s : State) (d : Reg), Ready s (regs [d]) →
    let x := s.v d
    let y : W64 := x.zeroExtend 64
    let lo (r : W64) : W64 := (r >>> 32 <<< 32) ||| y
    let hi (r : W64) : W64 := (r.truncate 32 : W32).zeroExtend 64 ||| y <<< 32
    let put (f : Thread → Thread) : Host.Outcome State Fault Refusal := .next (s.onThread s.iss.cur f)
    (exec (.swr d 0x020) s =
      if x.toNat % 4 = 0 ∧ x.toNat ≤ s.stackBytes s.curCtx then put fun t => { t with stklim := x } else .next (s.raise 0x01 0 0)) ∧
    (exec (.swr d 0x108) s = put fun t => { t with udvec := lo t.udvec }) ∧
    (exec (.swr d 0x109) s = put fun t => { t with udvec := hi t.udvec &&& 0x1FFFFFFFFFFFFFF }) ∧
    (exec (.swr d 0x10A) s = put fun t => { t with udmask := x.truncate 3 }) ∧
    (exec (.swr d 0x10B) s = put fun t => { t with ucause := x &&& 0xFF }) ∧
    (exec (.swr d 0x10C) s = put fun t => { t with uepc := lo t.uepc }) ∧
    (exec (.swr d 0x10D) s = put fun t => { t with uepc := hi t.uepc }) ∧
    (exec (.swr d 0x10E) s = put fun t => { t with uaddr := lo t.uaddr }) ∧
    (exec (.swr d 0x10F) s = put fun t => { t with uaddr := hi t.uaddr }) ∧
    (exec (.swr d 0x110) s = put fun t => { t with uinfo := x }) ∧
    (s.opnd.mode = 2 →
      (exec (.swr d 0x102) s = put fun t => { t with tcause := x &&& 0x7FF }) ∧
      (exec (.swr d 0x103) s = put fun t => { t with tepc := lo t.tepc }) ∧
      (exec (.swr d 0x104) s = put fun t => { t with tepc := hi t.tepc }) ∧
      (exec (.swr d 0x105) s = put fun t => { t with taddr := lo t.taddr }) ∧
      (exec (.swr d 0x106) s = put fun t => { t with taddr := hi t.taddr }) ∧
      (exec (.swr d 0x107) s = put fun t => { t with tinfo := x }) ∧
      (exec (.swr d 0x140) s = .next (s.onCore s.curCore fun k => { k with lsrenew := x })) ∧
      (exec (.swr d 0x141) s = .next (s.onCore s.curCore fun k => { k with lsstale := x })) ∧
      (exec (.swr d 0x142) s = .next (s.onCore s.curCore fun k => { k with wsbump := x })) ∧
      let t := s.curTeam
      let ends (u : State) : Prop := ∃ v, exec (.swr d 0x112) s = .next v ∧ { v with iss := s.iss } = { u with iss := s.iss }
      (x ≠ 1 → x ≠ 2 → exec (.swr d 0x112) s = .next s) ∧
      (x = 1 ∨ (x = 2 ∧ (s.team t).world = none) → ends (s.endRival t true) ∧
        ((s.team t).world = none → ∀ i, State.teamOf i = t → ((s.endRival t true).thread i).live = false)) ∧
      (x = 2 → ∀ w, (s.team t).world = some w → ends (s.killWorld (s.team t).ctx w))) ∧
    (s.opnd.mode ≠ 2 → ∀ n ∈ ([0x102, 0x103, 0x104, 0x105, 0x106, 0x107, 0x112, 0x140, 0x141, 0x142] : List (BitVec 13)),
      exec (.swr d n) s = .next (s.raise 0x01 0 0))

/-! ## Register checks, traps and the return from a handler -/

/-- The delegable causes and their bits (R271, R275). -/
def delegBitOf (c : Byte) : Option Nat := if c = 0x04 then some 0 else if c = 0x12 then some 1 else if c = 0x23 then some 2 else none

/-- R277: the delivery of a trap. With nothing pending, the user handler takes a delegated trap of normal mode, the supervisor handler every
other trap of normal and of user mode, and in the supervisor handler the context is torn down; nothing but the trapping thread
changes where a handler takes the trap. With a register or predicate pending, the trap is kept and the thread waits, until the last
reply is written. -/
def Obligations.TrapDelivery : Prop :=
  (∀ (s : State) (i : Nat) (e : TrapDue),
    let t := s.thread i
    let s' := s.deliver i e
    let t' := s'.thread i
    let user := t.mode = 0 ∧ ∃ b, delegBitOf e.cause = some b ∧ (s.udmask i).getLsbD b = true
    t.pending = [] →
      (t.mode = 2 → t.mode = t'.mode ∧ s' = (s.setThread i t').beginTeardown (s.ctxOf i) 0x50) ∧
      (t.mode ≠ 2 → s' = s.setThread i t' ∧ t'.regs = t.regs ∧ t'.preds = t.preds ∧ t'.live = t.live ∧ t'.limit = t.limit ∧
        (user → t'.mode = 1 ∧ t'.pc = t.udvec ∧ t'.ucause = e.cause.zeroExtend 32 ∧ t'.uepc = e.epc ∧ t'.uaddr = e.addr ∧
          t'.uinfo = e.info ∧ t'.tcause = t.tcause ∧ t'.tepc = t.tepc ∧ t'.taddr = t.taddr ∧ t'.tinfo = t.tinfo) ∧
        (¬ user → t'.mode = 2 ∧ t'.pc = (s.ctx (s.ctxOf i)).tvec &&& 0x1FFFFFFFFFFFFFF ∧
          t'.tcause.toNat = e.cause.toNat + 256 * t.mode.toNat + (if e.chain then 0x400 else 0) ∧ t'.tepc = e.epc ∧
          t'.taddr = e.addr ∧ t'.tinfo = e.info ∧ t'.ucause = t.ucause ∧ t'.uepc = t.uepc ∧ t'.uaddr = t.uaddr ∧
          t'.uinfo = t.uinfo))) ∧
  (∀ (s : State) (i : Nat) (e : TrapDue), (s.thread i).pending ≠ [] →
    let t' := (s.deliver i e).thread i
    t'.trapDue = some e ∧ t'.wait = .marker ∧ t'.mode = (s.thread i).mode ∧ t'.pc = (s.thread i).pc ∧
      t'.pending = (s.thread i).pending ∧ (s.deliver i e).canIssue i = false) ∧
  (∀ (s : State) (i : Nat) (e : TrapDue) (r : Reply), (s.thread i).pending = [r] → (s.thread i).trapDue = some e →
    exec (.variableResultWrite i 0) s = .next (((answers s i r).onThread i fun t => { t.reply r with pending := [] }).deliver i e))

/-- The registers and predicates that a Gorbex instruction of the current thread reads or writes; an event and an Akpor instruction touch
none (R53, R60, R316, R317). -/
def operands (s : State) : Instr → List Touch
  | .add d a b m | .sub d a b m | .and d a b m | .or d a b m | .xor d a b m => if m then pairs [d, a, b] else regs [d, a, b]
  | .shl d a b m | .shr d a b m | .sar d a b m => if m then pairs [d, a] ++ regs [b] else regs [d, a, b]
  | .mulh d a b _ | .min d a b _ | .max d a b _ | .bfx d a b _ | .shfl d a b _ | .hadd2 d a b _ | .hmul2 d a b _ | .hfma2 d a b _
  | .hmin2 d a b _ | .hmax2 d a b _ => regs [d, a, b]
  | .mul d a b | .mad d a b | .sel d a b | .bfi d a b | .fmin d a b | .fmax d a b => regs [d, a, b]
  | .fadd _ d a b | .fmul _ d a b | .fma _ d a b => regs [d, a, b]
  | .addImm d a _ | .mulImm d a _ | .andImm d a _ | .orImm d a _ | .xorImm d a _ | .shlImm d a _ | .shrImm d a _ | .sarImm d a _ => regs [d, a]
  | .mov d a | .clz d a | .popc d a | .frcp d a | .frsq d a | .fsqrt d a | .fexp2 d a | .flog2 d a | .wvr d a | .barInit d a
  | .barExpect d a | .barArrive d a => regs [d, a]
  | .cvtFromF32 _ _ _ d a | .cvtFromF16 _ _ _ d a | .cvtFromBf16 _ _ _ d a | .cvtFromE4m3 _ _ _ d a | .cvtFromE5m2 _ _ _ d a
  | .cvtFromE2m1 _ _ _ d a | .cvtFromInt32 _ _ _ d a | .cvtFromUint32 _ _ _ d a | .cvtFromE8m0 _ _ _ d a | .redux _ d a => regs [d, a]
  | .cmpEq d a b m | .cmpNe d a b m | .cmpLt d a b m | .cmpLe d a b m | .cmpLtu d a b m | .cmpLeu d a b m | .fcmpEq d a b m
  | .fcmpLt d a b m | .fcmpLe d a b m | .fcmpUn d a b m | .barWait d a b m | .barTry d a b m => preds [d] m ++ regs [a, b]
  | .pand d a b m | .por d a b m | .pxor d a b m => preds [d, a, b] m
  | .pnot d a m | .pmov d a m => preds [d, a] m
  | .leaS d a | .leaP d a => pair d ++ regs [a]
  | .ldsB d a _ | .ldsH d a _ | .lds d a _ | .stsB d a _ | .stsH d a _ | .sts d a _ | .ldp d a _ | .stp d a _ => regs [d, a]
  | .ldsD d a _ | .stsD d a _ | .ldpD d a _ | .stpD d a _ => pair d ++ regs [a]
  | .ldB d a _ | .ldH d a _ | .ld d a _ | .stB d a _ | .stH d a _ | .st d a _ => regs [d] ++ pair a
  | .ldD d a _ | .stD d a _ => pair d ++ pair a
  | .atom op w64 _ d a | .red op w64 _ d a => atomTouch op w64 d ++ pair a
  | .movi d _ | .movh d _ | .srd d _ | .swr d _ | .lit d _ | .fork d _ => regs [d]
  | .pref a _ | .clean a | .spawn a | .brx a | .callReg a => pair a
  | .obrel a | .wend a | .choose a => regs [a]
  | .voteAny d a | .voteAll d a => preds [d, a] false
  | .voteBallot d a => (if s.widthOf s.iss.cur = 64 ∧ d.toNat % 2 = 0 then pair d else regs [d]) ++ preds [a] false
  | .copy d a b m | .unfold d a b m | .quant d a b m => jobTouch d a b m
  | .gath d a b m => jobTouch d a b m ++ [.reg (a.toNat + 4), .reg (a.toNat + 5)]
  | .mma d a b _ | .mmo d a b _ => matrixTouch s d a b
  | .tile d a b => pair d ++ regs [a, b]
  | .obres d a b m => regs [d] ++ (span a.toNat 4).map Touch.reg ++ preds [b] m
  | .fread d a b => pair d ++ (span a.toNat 4).map Touch.reg ++ preds [b] false
  | .fwrite d a b m => preds [d] m ++ pair a ++ pair b
  | .arm d a b m => regs [d] ++ (span a.toNat 6).map Touch.reg ++ preds [b] m
  | .disarm d a => preds [d] false ++ regs [a]
  | .cinc a b => pair a ++ regs [b]
  | .cstart d a b => pair d ++ pair a ++ pair b
  | .renq d a m => (if m then pair d else []) ++ (span a.toNat 3).map Touch.reg
  | .wenq d a m => (if m then pair d else []) ++ (span a.toNat 8).map Touch.reg
  | _ => []

/-- R53, R60, R276, R357, R459: a register at or above the thread's limit, and else a pending register or predicate, among all that an
instruction reads or writes, traps before any effect, with its number as the detail; an access to a special register that the mode does
not allow has its lower trap first. `brk` and `trap` raise their traps with no address, and `trap` with its immediate as the detail, at
the first word of the chain. -/
def Obligations.RaisedTraps : Prop :=
  (∀ (s : State) (i : Instr), s.thr.live = true → (∀ d n, i = .srd d n → s.srReadable n.toNat = true) →
    (∀ d n, i = .swr d n → s.srWritable n.toNat = true) →
    let ts := operands s i
    let high (x : Touch) : Prop := ∃ n, x = .reg n ∧ s.opnd.limit ≤ n
    let pends (x : Touch) : Prop := (∃ n, x = .reg n ∧ s.opnd.regPending n = true) ∨ (∃ n, x = .pred n ∧ s.opnd.predPending n = true)
    let detail (x : Touch) : W32 := match x with
      | .reg n => BitVec.ofNat 32 n
      | .pred n => BitVec.ofNat 32 (n + 128)
    ((∃ x ∈ ts, high x) → ∃ x ∈ ts, high x ∧ exec i s = .next (s.raise 0x03 0 (detail x))) ∧
    ((∀ x ∈ ts, ¬high x) → (∃ x ∈ ts, pends x) → ∃ x ∈ ts, pends x ∧ exec i s = .next (s.raise 0x04 0 (detail x)))) ∧
  (∀ (s : State) (d : Reg) (n : BitVec 13), s.thr.live = true →
    (s.srReadable n.toNat = false → exec (.srd d n) s = .next (s.raise 0x01 0 0)) ∧
    (s.srWritable n.toNat = false → exec (.swr d n) s = .next (s.raise 0x01 0 0))) ∧
  (∀ (s : State) (imm : BitVec 13), s.thr.live = true →
    let at_ (cause : Byte) (info : W32) : State := s.deliver s.iss.cur ⟨cause, 0, info, s.iss.first, s.iss.inChain⟩
    (∃ t, exec (.brk imm) s = .next t ∧ { t with iss := s.iss } = { at_ 0x07 0 with iss := s.iss } ∧ t.iss.out = .trapped) ∧
    (∃ t, exec (.trap imm) s = .next t ∧ { t with iss := s.iss } = { at_ 0x08 (imm.zeroExtend 32) with iss := s.iss } ∧
      t.iss.out = .trapped))

/-- R278, R318, R447: `rfe` by mode. That the trap of a wrong target reports the target is the model's reading (log 27). -/
def Obligations.ReturnFromHandler : Prop :=
  ∀ (s : State), s.thr.live = true →
    let ok (a : W64) := a.toNat < 2 ^ 57 ∧ a.toNat % 4 = 0
    let pmode : BitVec 2 := s.opnd.tcause.extractLsb' 8 2
    let to_ (m : BitVec 2) (a : W64) (t : State) := t.thr = { s.thr with mode := m } ∧ t.iss = { s.iss with npc := a } ∧
      t = { s with threads := t.threads, iss := t.iss } ∧ ∀ j, j ≠ s.iss.cur → t.thread j = s.thread j
    (s.opnd.mode = 1 → ok s.opnd.uepc → ∃ t, exec .rfe s = .next t ∧ to_ 0 s.opnd.uepc t) ∧
    (s.opnd.mode = 2 → pmode ≠ 3 → ok s.opnd.tepc → ∃ t, exec .rfe s = .next t ∧ to_ pmode s.opnd.tepc t) ∧
    (∀ a, (s.opnd.mode = 1 ∧ a = s.opnd.uepc) ∨ (s.opnd.mode = 2 ∧ pmode ≠ 3 ∧ a = s.opnd.tepc) →
      (2 ^ 57 ≤ a.toNat → exec .rfe s = .next (s.raise 0x10 a 0)) ∧
      (a.toNat < 2 ^ 57 → a.toNat % 4 ≠ 0 → exec .rfe s = .next (s.raise 0x11 a 0))) ∧
    (s.opnd.mode = 2 → pmode = 3 → exec .rfe s = .next (s.raise 0x01 0 0)) ∧
    (s.opnd.mode = 0 → exec .rfe s = .next (s.raise 0x01 0 0))

/-! ## Memory -/

/-- A span is in a team's scratchpad, aligned, and no outstanding interval keeps it from an access of a class (R103, R131). -/
abbrev SpanOpen (s : State) (off n : Nat) (cls : IClass) : Prop :=
  off % n = 0 ∧ off + n ≤ s.scratchSize s.curTeam ∧ s.spBlocked s.curTeam off n cls = false

/-- R414, R415, R454, R455: loads and stores of the scratchpad, by offset and through the 0xFE window of a generic address: a load files the bytes
at the offset, zero-extended, a store puts the low bytes of the data there; an `.d` form takes a pair. -/
def Obligations.ScratchpadAccesses : Prop :=
  (∀ (s : State) (d a : Reg) (imm : BitVec 7),
    (∀ c ∈ [(1, Instr.ldsB d a imm), (2, .ldsH d a imm), (4, .lds d a imm), (8, .ldsD d a imm)],
      Ready s (dataTouch d c.1 ++ regs [a]) →
      let off := (s.v a + imm.signExtend 32 * BitVec.ofNat 32 c.1).toNat
      SpanOpen s off c.1 .r → exec c.2 s = .next (filed s d c.1 (s.spBytes s.curTeam off c.1))) ∧
    (∀ c ∈ [(1, Instr.ldB d a imm), (2, .ldH d a imm), (4, .ld d a imm), (8, .ldD d a imm)],
      Ready s (dataTouch d c.1 ++ pair a) → ∀ off < 2 ^ 24,
      s.vd a + imm.signExtend 64 * BitVec.ofNat 64 c.1 = BitVec.ofNat 64 (0xFE * 2 ^ 56 + off) →
      SpanOpen s off c.1 .r → exec c.2 s = .next (filed s d c.1 (s.spBytes s.curTeam off c.1)))) ∧
  (∀ (s : State) (d a : Reg) (imm : BitVec 7),
    (∀ c ∈ [(1, Instr.stsB d a imm), (2, .stsH d a imm), (4, .sts d a imm), (8, .stsD d a imm)],
      Ready s (dataTouch d c.1 ++ regs [a]) →
      let off := (s.v a + imm.signExtend 32 * BitVec.ofNat 32 c.1).toNat
      SpanOpen s off c.1 .w → exec c.2 s = .next (s.spPut s.curTeam off (storeData s d c.1))) ∧
    (∀ c ∈ [(1, Instr.stB d a imm), (2, .stH d a imm), (4, .st d a imm), (8, .stD d a imm)],
      Ready s (dataTouch d c.1 ++ pair a) → ∀ off < 2 ^ 24,
      s.vd a + imm.signExtend 64 * BitVec.ofNat 64 c.1 = BitVec.ofNat 64 (0xFE * 2 ^ 56 + off) →
      SpanOpen s off c.1 .w → exec c.2 s = .next (s.spPut s.curTeam off (storeData s d c.1))))

/-- A piece of a private store within one word: its page is kept translated, and is normal (R97, R99). -/
abbrev PieceOpen (s : State) (va : Nat) : Prop :=
  ∃ key leaf, s.xlatThread va .write = (.ok key leaf, s) ∧ leaf.type = 0

/-- A word of the private stack as a load finds it: its page is translated and normal, its dirty bytes come from the L1 and the others
from memory, and it is charged to the memory controller unless the L1 holds all of it (R90, R100). -/
abbrev PieceFound (s : State) (va : Nat) (bs : List Byte) (s' : State) : Prop :=
  let dirty := (s'.team s'.curTeam).dirty
  ∃ key leaf s0, s.xlatThread va .read = (.ok key leaf, s0) ∧ leaf.type = 0 ∧
    (if (span va 4).all (fun a => ((s0.team s0.curTeam).dirty.find? a).isSome) then s' = s0 else s0.hbm key 4 = some s') ∧
    bs = ((span va 4).zip (s'.pageRead s'.curCtx leaf.prot key 4)).map fun e => (dirty.find? e.1).getD e.2

/-- The core's L1 of 2,048 lines has room for the lines of these addresses, dirty, in the current team's private stack (R17, R100). -/
abbrev LinesFit (s : State) (vas : List Nat) : Prop :=
  let held := s.dirtyLines s.curCore
  held.length + (((vas.map fun va => va / 64).eraseDups.filter fun l => !held.contains (s.curTeam, l)).length) ≤ 2048

/-- R17, R97, R99, R100, R414, R454: private loads and stores of a word, by offset and through the 0xFD window, and the 8-byte forms, which act
on two consecutive words, each at its own place; none takes effect when the access passes the stack limit or is not aligned, in either
form. A store makes its lines dirty in an L1 of 2,048 lines: where they do not fit, one of the other lines is written back, which one the
model leaves open, and a store for which none can be tries again (log 52, DESIGN CHOICE). -/
def Obligations.PrivateAccesses : Prop :=
  (∀ (s : State) (d a : Reg) (imm : BitVec 7) (off : Nat),
    let va := s.privVa s.iss.cur off
    let at_ : W64 := BitVec.ofNat 64 (0xFD * 2 ^ 56 + off)
    ∀ c ∈ [(Instr.ldp d a imm, Instr.stp d a imm, regs [d, a],
            s.v a + imm.signExtend 32 * 4 = BitVec.ofNat 32 off ∧ off < 2 ^ 32),
           (.ld d a imm, .st d a imm, regs [d] ++ pair a,
            s.vd a + imm.signExtend 64 * 4 = BitVec.ofNat 64 (0xFD * 2 ^ 56 + off) ∧ off < 2 ^ 16)],
      Ready s c.2.2.1 → c.2.2.2 →
      (off % 4 = 0 → off + 4 ≤ s.opnd.stklim.toNat →
        (∀ bs s', PieceFound s va bs s' → exec c.1 s = .next (s'.later [(d.toNat, BitVec.ofNat 32 (leNat bs))] [])) ∧
        (PieceOpen s va → LinesFit s [va] → exec c.2.1 s = .next (s.onTeam s.curTeam fun t =>
          { t with dirty := tabPut t.dirty va (natLe 4 (s.v d).toNat) }))) ∧
      ∀ i ∈ [c.1, c.2.1],
        (off % 4 ≠ 0 → exec i s = .next (s.raise 0x11 at_ 0)) ∧
        (off % 4 = 0 → s.opnd.stklim.toNat < off + 4 → exec i s = .next (s.raise 0x12 at_ 0))) ∧
  (∀ (s : State) (d a : Reg) (imm : BitVec 7) (off n : Nat), off < 2 ^ 16 →
    s.vd a + imm.signExtend 64 * BitVec.ofNat 64 n = BitVec.ofNat 64 (0xFD * 2 ^ 56 + off) →
    let at_ : W64 := BitVec.ofNat 64 (0xFD * 2 ^ 56 + off)
    ∀ c ∈ [(1, Instr.ldB d a imm), (2, .ldH d a imm), (8, .ldD d a imm), (1, .stB d a imm), (2, .stH d a imm), (8, .stD d a imm)], c.1 = n →
      Ready s (dataTouch d n ++ pair a) →
        (off % n ≠ 0 → exec c.2 s = .next (s.raise 0x11 at_ 0)) ∧
        (off % n = 0 → s.opnd.stklim.toNat < off + n → exec c.2 s = .next (s.raise 0x12 at_ 0))) ∧
  (∀ (s : State) (lines : List Nat) (n : Nat),
    (LinesFit s (lines.map fun l => 64 * l) → State.l1Room lines n s = .ok () s) ∧
    (¬LinesFit s (lines.map fun l => 64 * l) → ∃ es, (∀ e, e ∈ es ↔ e ∈ s.dirtyLines s.curCore ∧ ¬(e.1 = s.curTeam ∧ e.2 ∈ lines)) ∧
      State.l1Room lines (n + 1) s = match s.draw.evictLine es with
        | (true, t) => State.l1Room lines n t
        | (false, t) => .wait .ready t) ∧
    s.evictLine [] = (false, s) ∧ ∀ e es, let t := s.writeBackLine e.1 e.2
      s.evictLine (e :: es) = if (t.team e.1).dirty.any (fun b => b.1 / 64 == e.2) then t.evictLine es else (true, t)) ∧
  (∀ (s : State) (d a : Reg) (imm : BitVec 7), Ready s (pair d ++ regs [a]) →
    let off := (s.v a + imm.signExtend 32 * 8).toNat
    let va0 := s.privVa s.iss.cur off
    let va1 := s.privVa s.iss.cur (off + 4)
    let data := natLe 8 (s.vd d).toNat
    (off % 8 ≠ 0 → ∀ i ∈ [Instr.ldpD d a imm, .stpD d a imm], exec i s = .next (s.raise 0x11 (BitVec.ofNat 64 (0xFD * 2 ^ 56 + off)) 0)) ∧
    (off % 8 = 0 → s.opnd.stklim.toNat < off + 8 →
      ∀ i ∈ [Instr.ldpD d a imm, .stpD d a imm], exec i s = .next (s.raise 0x12 (BitVec.ofNat 64 (0xFD * 2 ^ 56 + off)) 0)) ∧
    (off % 8 = 0 → off + 8 ≤ s.opnd.stklim.toNat →
      (∀ b0 s0 b1 s1, PieceFound s va0 b0 s0 → PieceFound s0 va1 b1 s1 → s0.privVa s0.iss.cur (off + 4) = va1 →
        exec (.ldpD d a imm) s = .next (s1.later
          [(d.toNat, BitVec.ofNat 32 (leNat b0)), (d.toNat + 1, BitVec.ofNat 32 (leNat b1))] [])) ∧
      (PieceOpen s va0 → PieceOpen s va1 → LinesFit s [va0, va1] →
        exec (.stpD d a imm) s = .next (s.onTeam s.curTeam fun t =>
          { t with dirty := tabPut (tabPut t.dirty va0 (data.take 4)) va1 (data.drop 4) }))))

/-- R17, R94, R95, R113, R151, R152, R414, R415, R454, R455: loads and stores of the global window, with the state after their translation and
charge; a load's value is a request that its core awaits, and a load that finds 256 of them tries again (log 52, DESIGN CHOICE). In the root view a load of a normal page gives the bytes of memory, and a store that is not queued writes them at the address's key; on
a page that is not protected, in memory that is not enciphered, they are stored as they are. A strongly ordered access whose thread has
stores waiting that the side log has no room for waits with that reason (log 14, DESIGN CHOICE). -/
def Obligations.GlobalAccesses : Prop :=
  (∀ (s : State) (d a : Reg) (imm : BitVec 7),
    ∀ c ∈ [(1, Instr.ldB d a imm), (2, .ldH d a imm), (4, .ld d a imm), (8, .ldD d a imm)],
      Ready s (dataTouch d c.1 ++ pair a) →
      let va := (s.vd a + imm.signExtend 64 * BitVec.ofNat 64 c.1).toNat
      va < 2 ^ 57 → va % c.1 = 0 → (¬RequestRoom s → exec c.2 s = .next (s.park .ready)) ∧ (RequestRoom s → ∀ key leaf s' s'',
        s.xlatThread va .read = (.ok key leaf, s') → (s'.curView = 0 ∨ leaf.type = 0) →
        (leaf.type = 3 → s'.drainReady s'.iss.cur = false → exec c.2 s = .next (s'.park .sideLog)) ∧
        ((leaf.type = 3 → s'.drainReady s'.iss.cur = true) → s'.hbm key c.1 = some s'' →
          let r := s''.loadTyped key c.1 leaf
          exec c.2 s = .next (awaiting (filed r.2 d c.1 r.1) d) ∧
          (leaf.type = 0 → r.2 = s'' ∧ (s''.curView = 0 → r.1 = s''.pageRead s''.curCtx leaf.prot key c.1))))) ∧
  (∀ (s : State) (d a : Reg) (imm : BitVec 7),
    ∀ c ∈ [(1, Instr.stB d a imm), (2, .stH d a imm), (4, .st d a imm), (8, .stD d a imm)],
      Ready s (dataTouch d c.1 ++ pair a) →
      let va := (s.vd a + imm.signExtend 64 * BitVec.ofNat 64 c.1).toNat
      va < 2 ^ 57 → va % c.1 = 0 → ∀ key leaf s' s'',
        s.xlatThread va .write = (.ok key leaf, s') → s'.queuesStore leaf = false → s'.cellReady s'.curCtx s'.curView key = true →
        (leaf.type = 3 → s'.drainReady s'.iss.cur = false → exec c.2 s = .next (s'.park .sideLog)) ∧
        ((leaf.type = 3 → s'.drainReady s'.iss.cur = true) → s'.hbm key c.1 = some s'' →
          exec c.2 s = .next ((s''.notePage s''.curCtx s''.curView va).storeTyped va key (storeData s d c.1) leaf) ∧
          (leaf.type = 0 → s''.curView = 0 → leaf.prot = false → s''.granuleOpen (some s''.curCtx) key = true →
            (∀ k ∈ span key c.1, s''.hub.enciphered.find? (k / 16) = none) →
            exec c.2 s = .next { s'' with mem := s''.mem.writes key (storeData s d c.1) })))

/-- What a walk finds in the device table at an address, from the entry that an address selects there (R280, R281, R482): no entry, a
malformed one, one that names a forbidden byte, a page, or the next table. -/
def walkStep (s : State) (c va table level low bits : Nat) (rest : List (Nat × Nat × Nat)) : Prop :=
  let key := physKey (s.ctxDies c) (table + 8 * (va / 2 ^ low % 2 ^ bits))
  let e := leNat (s.physRead (some c) key 8)
  let bit (n : Nat) : Prop := e / 2 ^ n % 2 = 1
  let pa := e / 2 ^ 12 % 2 ^ 44 * 4096
  let bad : Prop := bit 4 ∨ bit 11 ∨ e / 2 ^ 56 % 2 ^ 8 ≠ 0 ∨ (bit 1 ∧ (level = 5 ∨ level = 4)) ∨ (¬bit 1 ∧ level = 0) ∨
    (¬bit 1 ∧ e / 2 ^ 2 % 2 ^ 9 ≠ 0) ∨ (bit 1 ∧ pa % 2 ^ low ≠ 0)
  let out := s.forbidden (s.ctx c).part.toNat pa
  let w := s.walkDevice c va table ((level, low, bits) :: rest)
  (¬bit 0 → w = .fault 0x40) ∧ (bit 0 → bad → w = .fault 0x43) ∧
  (bit 0 → ¬bad → bit 1 → out (2 ^ low) = true → w = .fault 0x44) ∧ (bit 0 → ¬bad → ¬bit 1 → out 4096 = true → w = .fault 0x44) ∧
  (bit 0 → ¬bad → ¬bit 1 → out 4096 = false → w = s.walkDevice c va pa rest) ∧
  (bit 0 → ¬bad → bit 1 → out (2 ^ low) = false → ∃ l, w = .leaf l (some key) ∧ l.page = va / 2 ^ low * 2 ^ low ∧ l.size = 2 ^ low ∧
    l.pa = pa ∧ (l.write = true ↔ bit 2) ∧ (l.exec = true ↔ bit 3) ∧ l.type = e / 2 ^ 5 % 4 ∧ (l.dirty = true ↔ bit 8) ∧
    (l.prot = true ↔ bit 9) ∧ (l.wshared = true ↔ bit 10))

/-- R94, R95, R103, R131, R415: a scratchpad access that is not aligned, or passes the allocation, traps, and one that meets a conflicting interval
waits; a generic address in no window, or not a multiple of the width, traps with the address; all before any effect. R280 to R283, R482: what
a translation answers, from a page under fault, a kept entry or a walk, which marks the entry that it uses; what a walk finds; the record of a
fault, whose look at its slot and whose bytes are charged. R126, R128, R154: a load that faults waits, and a store that faults retires into
the side log, behind every logged access of its context, and its thread goes on; in a view it holds one version cell for its line, which
the stores of its bundle's instruction to that line share. The model's own choices here are the physical-range kind of a root table in a
forbidden range (log 46), the numbers that a fault record's SEQNO takes, of which R283 says that they are not zero (log 33), and that a
store which retires into the log first performs its thread's waiting stores (log 14). -/
def Obligations.AccessTraps : Prop :=
  (∀ (s : State) (d a : Reg) (imm : BitVec 7),
    ∀ c ∈ [(1, Instr.ldsB d a imm, IClass.r), (2, .ldsH d a imm, .r), (4, .lds d a imm, .r), (8, .ldsD d a imm, .r),
           (1, .stsB d a imm, .w), (2, .stsH d a imm, .w), (4, .sts d a imm, .w), (8, .stsD d a imm, .w)],
      Ready s (dataTouch d c.1 ++ regs [a]) →
      let off := (s.v a + imm.signExtend 32 * BitVec.ofNat 32 c.1).toNat
      let at_ : W64 := BitVec.ofNat 64 (0xFE * 2 ^ 56 + off)
      (off % c.1 ≠ 0 → exec c.2.1 s = .next (s.raise 0x11 at_ 0)) ∧
      (off % c.1 = 0 → s.scratchSize s.curTeam < off + c.1 → exec c.2.1 s = .next (s.raise 0x13 at_ 0)) ∧
      (off % c.1 = 0 → off + c.1 ≤ s.scratchSize s.curTeam → s.spBlocked s.curTeam off c.1 c.2.2 = true →
        exec c.2.1 s = .next (s.park .scoreboard))) ∧
  (∀ (s : State) (d a : Reg) (imm : BitVec 7),
    ∀ c ∈ [(1, Instr.ldB d a imm), (2, .ldH d a imm), (4, .ld d a imm), (8, .ldD d a imm),
           (1, .stB d a imm), (2, .stH d a imm), (4, .st d a imm), (8, .stD d a imm)],
      Ready s (dataTouch d c.1 ++ pair a) →
      let x := s.vd a + imm.signExtend 64 * BitVec.ofNat 64 c.1
      let top := x.toNat / 2 ^ 56
      (2 ≤ top → (top = 0xFD → x.toNat / 2 ^ 16 % 2 ^ 40 ≠ 0) → (top = 0xFE → x.toNat / 2 ^ 24 % 2 ^ 32 ≠ 0) →
        exec c.2 s = .next (s.raise 0x10 x 0)) ∧
      (top < 2 → x.toNat % c.1 ≠ 0 → exec c.2 s = .next (s.raise 0x11 x 0))) ∧
  (∀ (s : State) (c va : Nat) (w : Want) (agent source view : Nat),
    let x := s.ctx c
    let t := s.xlat c va w agent source view
    let runs : Prop := x.ptroot.toNat % 2 = 1 ∧ x.state ≠ 0 ∧ x.state ≠ 4 ∧ x.state ≠ 5
    let faulted := x.under.find? fun u => u.page == va / 4096
    let kept := x.tlb.find? fun e => e.serves va w
    let place (e : TlbEntry) : Nat := physKey (s.ctxDies c) (e.pa + (va - e.page))
    (¬runs → t = (.fatal, s)) ∧
    (∀ u, runs → faulted = some u → t = (if u.recorded = true ∧ 0x43 ≤ u.kind then .fatal else .hold u.recorded, s)) ∧
    (∀ e, runs → faulted = none → kept = some e → t = (.ok (place e) e, s)) ∧
    (runs → faulted = none → kept = none → x.ptroot.toNat / 2 % 2 = 0 → ∃ u : State, { u with ctxs := s.ctxs } = s ∧
      (∀ d, { u.ctx d with spent := (s.ctx d).spent } = s.ctx d) ∧
      let fails (kind : Nat) : Prop := t = u.pageFault c ⟨va / 4096, va, kind, agent, view, source, false⟩
      (∀ kind, s.walk c va = .fault kind → fails kind) ∧
      (∀ e k, s.walk c va = .leaf e k →
        (w = .write → e.write = false → fails 0x41) ∧ (w = .fetch → e.exec = false → fails 0x42) ∧
        ((w = .write → e.write = true) → (w = .fetch → e.exec = true) →
          let e' := { e with dirty := e.dirty || w == .write }
          t = (.ok (place e) e', (u.markEntry c k (w == .write)).onCtx c fun x =>
            { x with tlb := e' :: x.tlb.filter fun o => o.page != e.page })))) ∧
    (x.ptroot.toNat / 2 % 2 = 0 →
      let root := x.ptroot.toNat / 2 ^ 12 % 2 ^ 44 * 4096
      (s.forbidden x.part.toNat root 4096 = true → s.walk c va = .fault 0x44) ∧
      (s.forbidden x.part.toNat root 4096 = false → s.walk c va =
        s.walkDevice c va root [(5, 48, 9), (4, 39, 9), (3, 30, 9), (2, 21, 9), (1, 16, 5), (0, 12, 4)])) ∧
    (x.ptroot.toNat / 2 % 2 = 1 → (State.htfValid x.htf = false ∨ 2 ^ (x.htf.toNat / 2 ^ 40 % 2 ^ 6) ≤ va) → s.walk c va = .fault 0x45) ∧
    (∀ table level low bits rest, walkStep s c va table level low bits rest) ∧
    (∀ lead pa n, s.forbidden lead pa n = true ↔ reservedStart (s.diesOf lead) < pa + n ∨
      ∃ e ∈ s.ctxs, e.2.state ≠ 0 ∧ e.2.part.toNat = lead ∧ ∃ r ∈ s.regions e.1, r.2 ≠ 0 ∧ pa < r.1 + r.2 ∧ r.1 < pa + n) ∧
    (∀ key wr, let old := leNat (s.physRead (some c) key 8)
      let new := old ||| 2 ^ 7 ||| (if wr then 2 ^ 8 else 0)
      (old = new → s.markEntry c (some key) wr = s) ∧
      (old ≠ new → s.markEntry c (some key) wr = s.physWrite (some c) key (natLe 8 new))) ∧
    (∀ u : UnderFault,
      let slot := x.faultq.toNat / 4096 * 4096 + 32 * (x.faultSeq % 2 ^ (x.faultq.toNat % 32))
      let under (v : State) (r : Bool) : State := v.onCtx c fun x => { x with under := x.under ++ [{ u with recorded := r }] }
      let s1 := s.chargeAt c slot 1
      let x1 := s1.ctx c
      let v := (((s1.setCtx c { x1 with faultSeq := x1.faultSeq + 1 }).chargeAt c slot 1).ctxWrite c slot
        (natLe 4 (x1.faultSeq % (2 ^ 32 - 1) + 1) ++ natLe 1 u.kind ++ natLe 1 u.agent ++ natLe 1 u.view ++ natLe 1 0 ++ natLe 8 u.va ++
        natLe 4 u.source ++ natLe 12 0)).interrupt (2 * c)
      let old := leNat (s1.ctxRead c slot 4)
      (old ≠ 0 → s.pageFault c u = (.hold false, under s1 false)) ∧
      (old = 0 → u.kind < 0x43 → s.pageFault c u = (.hold true, under v true)) ∧
      (old = 0 → 0x43 ≤ u.kind → s.pageFault c u = (.fatal, v.beginTeardown c 0x53)))) ∧
  (∀ (s s' : State) (d a : Reg) (imm : BitVec 7) (r : Bool),
    (∀ c ∈ [(1, Instr.ldB d a imm), (2, .ldH d a imm), (4, .ld d a imm), (8, .ldD d a imm)],
      Ready s (dataTouch d c.1 ++ pair a) →
      let va := (s.vd a + imm.signExtend 64 * BitVec.ofNat 64 c.1).toNat
      va < 2 ^ 57 → va % c.1 = 0 → RequestRoom s →
        (s.xlatThread va .read = (.hold r, s') → exec c.2 s = .next (s'.park .translation)) ∧
        (s.xlatThread va .read = (.fatal, s') → exec c.2 s = .next s'.leave)) ∧
    (∀ c ∈ [(1, Instr.stB d a imm), (2, .stH d a imm), (4, .st d a imm), (8, .stD d a imm)],
      Ready s (dataTouch d c.1 ++ pair a) →
      let va := (s.vd a + imm.signExtend 64 * BitVec.ofNat 64 c.1).toNat
      let c' := s'.curCtx
      let n := s'.curView
      va < 2 ^ 57 → va % c.1 = 0 →
        (s.xlatThread va .write = (.hold false, s') → exec c.2 s = .next (s'.park .translation)) ∧
        (s.xlatThread va .write = (.fatal, s') → exec c.2 s = .next s'.leave) ∧
        (s.xlatThread va .write = (.hold true, s') →
          (s'.logRoom n [va] = false → exec c.2 s = .next (s'.park .sideLog)) ∧
          let shared : Prop := ∃ e ∈ (s'.core s'.curCore).log,
            e.bundle = some (s'.iss.bundleId, s'.iss.word) ∧ e.ctx = c' ∧ e.view = n ∧ e.va.toNat / 64 = va / 64
          (s'.logRoom n [va] = false → exec c.2 s = .next (s'.park .sideLog)) ∧
          (s'.logRoom n [va] = true → n ≠ 0 → ¬shared → s'.poolCells c' ≤ s'.usedCells c' →
            exec c.2 s = .next (s'.raise 0x23 (BitVec.ofNat 64 va) 0)) ∧
          (s'.logRoom n [va] = true → (n ≠ 0 → ¬shared → s'.usedCells c' < s'.poolCells c') → ∃ (e : LogEntry) (r : State),
            e.ctx = c' ∧ e.view = n ∧ e.va = BitVec.ofNat 64 va ∧ e.op = .store (storeData s d c.1) ∧ e.team = s'.curTeam ∧
            e.bundle = some (s'.iss.bundleId, s'.iss.word) ∧ (e.cell = true ↔ n ≠ 0 ∧ ¬shared) ∧ (n = 0 ∨ shared → r = s') ∧
            (n ≠ 0 → ¬shared → r = s'.setView c' n { s'.view c' n with reserved := (s'.view c' n).reserved + 1 }) ∧
            exec c.2 s = .next ((r.drainWc s'.iss.cur).logTo s'.curCore e))))) ∧
  (∀ (s : State) (k : Nat) (e : LogEntry), let t := s.logTo k e
    (t.core k).log = (s.core k).log ++ [{ e with place := s.logPlace e.ctx }] ∧ { t.core k with log := (s.core k).log } = s.core k ∧
      (∀ j, j ≠ k → t.core j = s.core j) ∧ { t with cores := s.cores } = s ∧
      ∀ y ∈ s.cores, ∀ l ∈ y.2.log, l.ctx = e.ctx → l.place < s.logPlace e.ctx)

/-- R455: the frame of a store to the global window, beside the state in which its translation leaves the machine: no register and no
predicate of any thread changes, and no byte of memory, as the page's accesses read it, but those stored to; the bits of the stack
change in no 16-byte block of AES-XTS but those that the store meets (R16). The blocks of the thread's earlier write-combining stores,
which a strongly ordered store performs first (R137), are set apart. -/
def Obligations.GlobalStoreFrame : Prop :=
  ∀ (s : State) (d a : Reg) (imm : BitVec 7),
    ∀ c ∈ [(1, Instr.stB d a imm), (2, .stH d a imm), (4, .st d a imm), (8, .stD d a imm)],
      Ready s (dataTouch d c.1 ++ pair a) →
      let va := (s.vd a + imm.signExtend 64 * BitVec.ofNat 64 c.1).toNat
      va < 2 ^ 57 → va % c.1 = 0 → ∀ key leaf s' t,
        s.xlatThread va .write = (.ok key leaf, s') → exec c.2 s = .next t →
        (∀ j, (t.thread j).regs = (s'.thread j).regs ∧ (t.thread j).preds = (s'.thread j).preds) ∧
        (∀ k, (∀ w ∈ s'.thr.wc, 16 * (k / 16) + 16 ≤ w.key ∨ w.key + w.data.length ≤ 16 * (k / 16)) →
          ((k < key ∨ key + c.1 ≤ k) → ∀ e, e = s'.cipherOf s'.curCtx leaf.prot → t.byteAs e k = s'.byteAs e k) ∧
          ((16 * (k / 16) + 16 ≤ key ∨ key + c.1 ≤ 16 * (k / 16)) → t.mem.read k = s'.mem.read k))

/-- R348, R440: the new value of each read-modify-write, for old value and operand below 2 to the width's bits. -/
def Obligations.AtomicValues : Prop :=
  ∀ (w64 : Bool) (old x cmpv swapv : Nat),
    let bits := if w64 then 64 else 32
    let sgn (n : Nat) : Int := (BitVec.ofNat bits n).toInt
    let new (op : AtomOp) := atomNew op (bits / 8) old x cmpv swapv
    old < 2 ^ bits → x < 2 ^ bits →
      new .add = (old + x) % 2 ^ bits ∧ (new .smin = old ∨ new .smin = x) ∧ sgn (new .smin) = min (sgn old) (sgn x) ∧
      (new .smax = old ∨ new .smax = x) ∧ sgn (new .smax) = max (sgn old) (sgn x) ∧ new .umin = min old x ∧ new .umax = max old x ∧
      new .band = old &&& x ∧ new .bor = old ||| x ∧ new .bxor = old ^^^ x ∧ new .exch = x ∧
      new .cas = (if old = cmpv then swapv else old) ∧ (w64 = false → new .fadd = fAdd fp32 .rne old x)

/-- R17, R106, R125, R348, R349, R440: `atom` and `red` on the scratchpad, and on a normal page in the root view: the old value is filed (`atom`
only) and the new one takes its place in one read-modify-write. The value of a global `atom` is a request that its core awaits, and one that
finds 256 of them tries again (log 52, DESIGN CHOICE). -/
def Obligations.AtomicAccesses : Prop :=
  (∀ (s : State) (op : AtomOp) (w64 : Bool) (scope : Scope) (d a : Reg) (off : Nat),
    Ready s (atomTouch op w64 d ++ pair a) → off < 2 ^ 24 → s.vd a = BitVec.ofNat 64 (0xFE * 2 ^ 56 + off) →
    let n := if w64 then 8 else 4
    SpanOpen s off n .w →
      let old := s.spBytes s.curTeam off n
      let x := if w64 then (s.vd d).toNat else (s.v d).toNat
      let swap := if w64 then (s.vdn (d.toNat + 2)).toNat else (s.vn (d.toNat + 1)).toNat
      let s' := s.spPut s.curTeam off (natLe n (atomNew op n (leNat old) x x swap))
      exec (.atom op w64 scope d a) s = .next (filed s' d n (natLe n (leNat old))) ∧
      exec (.red op w64 scope d a) s = .next s') ∧
  (∀ (s : State) (op : AtomOp) (w64 : Bool) (scope : Scope) (d a : Reg),
    Ready s (atomTouch op w64 d ++ pair a) →
    let n := if w64 then 8 else 4
    let va := (s.vd a).toNat
    va < 2 ^ 57 → va % n = 0 → (¬RequestRoom s → exec (.atom op w64 scope d a) s = .next (s.park .ready)) ∧
      ∀ key leaf s' s'', s.xlatThread va .write = (.ok key leaf, s') → leaf.type = 0 → s'.curView = 0 → s'.hbm key n = some s'' →
      let old := leNat (s''.pageRead s''.curCtx leaf.prot key n)
      let x := if w64 then (s.vd d).toNat else (s.v d).toNat
      let swap := if w64 then (s.vdn (d.toNat + 2)).toNat else (s.vn (d.toNat + 1)).toNat
      let t := s''.writeView s''.curCtx 0 leaf.prot key (natLe n (atomNew op n old x x swap))
      (RequestRoom s → exec (.atom op w64 scope d a) s = .next (awaiting (filed t d n (natLe n old)) d)) ∧
        exec (.red op w64 scope d a) s = .next t)

/-! ## Control flow and the life of a thread -/

/-- R318, R356, R358, R359, R429, R446: branches, calls and returns. The target takes effect after the chain, as the next program counter.
A call keeps the address after the chain on the private stack, below the calls around it; a return takes it from there. An address in
no memory window, or no multiple of 4, is refused with its own trap; a full call stack traps at address 0, which is the model's choice
(log 27). -/
def Obligations.Transfers : Prop :=
  ∀ (s : State) (off : BitVec 19) (a : Reg), s.thr.live = true →
    let goto (t : State) (x : W64) : State := { t with iss := { t.iss with npc := x } }
    let label : W64 := (s.iss.word + off.signExtend 64 * 4) &&& 0x1FFFFFFFFFFFFFF
    let legal (x : W64) : Prop := x.toNat < 2 ^ 57 ∧ x.toNat % 4 = 0
    let depth := s.opnd.depth
    let size := s.stackBytes s.curCtx
    exec .nop s = .next s ∧
    exec (.br off) s = .next (goto s label) ∧
    (Ready s (pair a) → legal (s.vd a) → exec (.brx a) s = .next (goto s (s.vd a))) ∧
    (Ready s (pair a) → ∀ i ∈ [Instr.brx a, .callReg a],
      (2 ^ 57 ≤ (s.vd a).toNat → exec i s = .next (s.raise 0x10 (s.vd a) 0)) ∧
      ((s.vd a).toNat < 2 ^ 57 → (s.vd a).toNat % 4 ≠ 0 → exec i s = .next (s.raise 0x11 (s.vd a) 0))) ∧
    (8 * (depth + 1) ≤ size → ∀ s', s.putPriv (size - 8 * (depth + 1)) (natLe 8 s.iss.after.toNat) = .ok () s' →
      let called := s'.onThread s'.iss.cur fun t => { t with depth := depth + 1 }
      exec (.call off) s = .next (goto called label) ∧
      (Ready s (pair a) → legal (s.vd a) → exec (.callReg a) s = .next (goto called (s.vd a)))) ∧
    (size < 8 * (depth + 1) → exec (.call off) s = .next (s.raise 0x12 0 0) ∧
      (Ready s (pair a) → legal (s.vd a) → exec (.callReg a) s = .next (s.raise 0x12 0 0))) ∧
    (depth = 0 → exec .ret s = .next (s.raise 0x01 0 0)) ∧
    (depth ≠ 0 → ∀ bs s', s.privPiecesRead (BitVec.ofNat 64 (0xFD * 2 ^ 56 + (size - 8 * depth))) (privPieces (size - 8 * depth) 8) =
        .ok bs s' →
      let ra : W64 := BitVec.ofNat 64 (leNat bs)
      (2 ^ 57 ≤ ra.toNat → exec .ret s = .next (s'.raise 0x10 ra 0)) ∧
      (ra.toNat < 2 ^ 57 → ra.toNat % 4 ≠ 0 → exec .ret s = .next (s'.raise 0x11 ra 0)) ∧
      (legal ra → exec .ret s = .next (goto (s'.onThread s'.iss.cur fun t => { t with depth := depth - 1 }) ra)))

/-- R34, R54, R55, R68, R69, R296, R371, R439, R464: `exit`, with its frame where the group has another live thread, and what it does where the
thread is the last of its group or of its team; how a team ends, and what becomes of its successor counter; `yield` and its end, registers
given back and claimed, and the grant of a claim; what giving and claiming do to a thread's registers and to its group's count, and their
frames. That the threads of a `yield`'s own bundle are not awaited is the model's reading (log 47). -/
def Obligations.ThreadLife : Prop :=
  (∀ s : State, s.thr.live = true →
    let i := s.iss.cur
    let g := s.groupOf i
    let t := State.teamOf i
    let gone := s.onThread i fun th => { th with
      live := false, regs := [], pending := [], trapDue := none, arrival := none, wait := .ready, waited := .ready, waitCount := 0,
      barAt := none }
    ((∀ j ∈ s.liveOfGroup g, j = i) → (∃ j ∈ s.liveOf t, j ≠ i) → exec .exit s = .next ((gone.endGroup g).remeet t).leave) ∧
    ((∀ j ∈ s.liveOf t, j = i) → exec .exit s = .next (gone.endRival t false).leave)) ∧
  (∀ (s : State) (g : Nat),
    let k := (s.group g).core
    let u := s.endGroup g
    u.groups.find? g = none ∧ (∀ c ∈ (u.core k).claims, c.group ≠ g) ∧ (∀ m ∈ (u.core k).mms, m.group ≠ g) ∧
      (∀ e ∈ (u.core k).slots, e.2.incoming.getD e.2.group ≠ g) ∧
      ((∀ m ∈ (s.core k).mms, m.group ≠ g) → { u with groups := s.groups, cores := s.cores } = s ∧
        (∀ h, h ≠ g → u.group h = s.group h) ∧ (∀ j, j ≠ k → u.core j = s.core j) ∧
        { u.core k with claims := (s.core k).claims, slots := (s.core k).slots } = s.core k)) ∧
  (∀ (s : State) (t : Nat) (killed : Bool),
    let x := s.team t
    ((x.world = none → s.endRival t killed = (s.endTeam t killed).dropImages t) ∧
     ∃ u : State, s.endTeam t killed = u.finishEnd t ∧ (u.team t).phase = .ending ∧ (u.team t).killed = killed ∧
      (u.team t).resv = [] ∧ (u.team t).sp = [] ∧ (u.team t).record = x.record ∧ (u.team t).view = x.view ∧ (u.team t).ctx = x.ctx ∧
      (∀ i, State.teamOf i = t → (u.thread i).live = false) ∧ (∀ g, g / 16 = t → u.groups.find? g = none) ∧
      ∀ k ∈ s.coresOfTeam t, (∀ j ∈ (u.core k).jobs, j.team ≠ t) ∧ (∀ m ∈ (u.core k).mms, m.team ≠ t) ∧
        (∀ c ∈ (u.core k).claims, c.group / 16 ≠ t)) ∧
    (x.dirty = [] →
      let free (v : State) : State := { v with teams := v.teams.erase t }
      let s0 := s.onTeam t fun y => { y with slot := none }
      (x.killed = true ∨ x.view ≠ 0 ∨ x.record.succ = 0 → s.finishEnd t = free s0) ∧
      (x.killed = false → x.view = 0 → x.record.succ ≠ 0 →
        (∀ r s1, s0.xlat x.ctx x.record.succ.toNat .write 0 x.core 0 = (.hold r, s1) → s.finishEnd t = s1) ∧
        ∀ key leaf s1 s2, s0.xlat x.ctx x.record.succ.toNat .write 0 x.core 0 = (.ok key leaf, s1) →
          s1.newRequest.memTurn x.ctx key 8 = some s2 →
          let n : W64 := BitVec.ofNat 64 (leNat (s2.pageRead x.ctx leaf.prot key 8)) - 1
          let v := s2.writeView x.ctx 0 leaf.prot key (natLe 8 n.toNat)
          let w := (v.memTurn x.ctx (key + 64) 64).getD v
          (0 < n.toInt → s.finishEnd t = free v) ∧
          (n.toInt < 0 → s.finishEnd t = free (v.errorRecord x.ctx 0x02 0 0 x.record.succ x.record.seq.toNat x.core)) ∧
          (n = 0 → s.finishEnd t = free (w.acceptRecord x.ctx (x.record.succ + 64) (w.pageRead x.ctx leaf.prot (key + 64) 64) 3 none
            (fun _ => x.core / 96) x.core))))) ∧
  (∀ (s : State) (j : Nat), s.thr.live = true → j ≠ s.iss.cur → (s.thread j).live = true → j ∈ s.liveOfGroup (s.groupOf s.iss.cur) →
    s.groupOf s.iss.cur / 16 = State.teamOf s.iss.cur → s.arrivedOf (State.teamOf s.iss.cur) = [] →
    ∃ t, exec .exit s = .next t ∧ t.thr.live = false ∧ t.thr.regs = [] ∧ (∀ k, k ≠ s.iss.cur → t.thread k = s.thread k) ∧
      t.mem = s.mem ∧ t.teams = s.teams ∧ t.cores = s.cores ∧ t.ctxs = s.ctxs) ∧
  (∀ (s : State) (imm : BitVec 13), s.thr.live = true →
    let i := s.iss.cur
    let g := s.groupOf i
    let n := imm.toNat
    (exec .exit s = .next (s.exitThread i).leave) ∧
    (exec .yield s = .next (s.onThread i fun t =>
      { t with wait := .pause, waited := .pause, waitCount := 0, yieldUntil := s.cycle + 64,
               yieldSet := (s.readyOn s.curCore).filter fun j => j != i && !s.iss.bundle.contains j })) ∧
    (∀ j, (s.thread j).wait = .pause → ((s.thread j).yieldUntil ≤ s.cycle ∨ ∀ k ∈ (s.thread j).yieldSet, (s.thread k).live = false) →
      let parks := (s.thread j).marked = true ∧ (s.thread j).pending ≠ []
      (¬ parks → exec (.yieldResume j) s = .next (s.onThread j fun t => { t with wait := .ready, readyAt := s.cycle })) ∧
      (parks → ∃ t, exec (.yieldResume j) s = .next t ∧ (t.thread j).wait = .marker ∧ (∀ k, k ≠ j → t.thread k = s.thread k) ∧
        { t with threads := s.threads } = s)) ∧
    (s.opnd.limit ≤ n → exec (.rgive imm) s = .next s) ∧
    (n < s.opnd.limit → exec (.rgive imm) s = .next ((s.onThread i fun t => t.giveTo n).lowerCount g)) ∧
    (s.opnd.limit ≤ n → n ≤ (s.group g).count → exec (.rclaim imm) s = .next (s.onThread i fun t => t.claimTo n)) ∧
    (n < s.opnd.limit → n ≤ (s.group g).count →
      exec (.rclaim imm) s = .next ((s.onThread i fun t => t.giveTo n).lowerCount g)) ∧
    ((s.group g).count < n →
      exec (.rclaim imm) s = .next (((s.onThread i fun t => { t with claimN := n }).fileClaim g n).park .claim)) ∧
    (∀ c rest, (s.core s.curCore).claims = c :: rest →
      (s.team (c.group / 16)).record.width * (c.n - (s.group c.group).count) ≤ s.freeRegs s.curCore →
      ∃ t, exec (.rclaimGrant s.curCore) s = .next t ∧ (t.core s.curCore).claims = rest ∧
        (t.group c.group).count = max (s.group c.group).count c.n ∧ t.mem = s.mem ∧ t.teams = s.teams ∧
        (∀ j ∈ s.liveOfGroup c.group, (s.thread j).wait = .claim →
          t.thread j = { (s.thread j).claimTo (s.thread j).claimN with wait := .ready, readyAt := s.cycle }) ∧
        (∀ j, j ∉ s.liveOfGroup c.group ∨ (s.thread j).wait ≠ .claim → t.thread j = s.thread j)) ∧
    (∀ c rest, (s.core s.curCore).claims = c :: rest →
      s.freeRegs s.curCore < (s.team (c.group / 16)).record.width * (c.n - (s.group c.group).count) →
      exec (.rclaimGrant s.curCore) s = .next s)) ∧
  (∀ (t : Thread) (n k : Nat),
    ((t.giveTo n).limit = n ∧ (t.giveTo n).regs.get k 0 = if k < n then t.regs.get k 0 else 0) ∧
    ((t.claimTo n).limit = n ∧ (t.claimTo n).regs.get k 0 = if k < t.limit then t.regs.get k 0 else 0) ∧
    { t.giveTo n with limit := t.limit, regs := t.regs, pending := t.pending } = t ∧
    (t.giveTo n).pending = t.pending.map (fun r => { r with regs := r.regs.filter fun w => w.1 < n }) ∧
    { t.claimTo n with limit := t.limit, regs := t.regs } = t) ∧
  (∀ (s : State) (g : Nat),
    let live := s.liveOfGroup g
    let old := (s.group g).count
    let t := s.lowerCount g
    let new := (t.group g).count
    { t with groups := s.groups } = s ∧ (∀ h, h ≠ g → t.group h = s.group h) ∧ { t.group g with count := old } = s.group g ∧
      (live = [] ∨ (∃ j ∈ live, old ≤ (s.thread j).limit) → new = old) ∧
      (live ≠ [] → (∀ j ∈ live, (s.thread j).limit < old) →
        (∀ j ∈ live, (s.thread j).limit ≤ new) ∧ ∃ j ∈ live, (s.thread j).limit = new)) ∧
  (∀ (s : State) (g n : Nat),
    let k := (s.group g).core
    let old := (s.core k).claims
    let t := s.fileClaim g n
    let new := (t.core k).claims
    { t with cores := s.cores } = s ∧ (∀ j, j ≠ k → t.core j = s.core j) ∧ { t.core k with claims := old } = s.core k ∧
      ((∀ c ∈ old, c.group ≠ g) → new = old ++ [⟨g, n⟩]) ∧
      ((∃ c ∈ old, c.group = g) → new.length = old.length ∧ ∀ (j : Nat) c, old[j]? = some c →
        new[j]? = some (if c.group = g then { c with n := max c.n n } else c)))

/-! ## Convergence points, barriers and worlds -/

/-- The state in which a thread stands at a convergence point that it has reached (R44, R49). -/
def standing (s : State) (op : Instr) : State :=
  let s' := (s.onThread s.iss.cur fun t => { t with arrival := some ⟨op, s.iss.switch⟩, chained := false }).parkThread s.iss.cur
    .convergence
  { s' with iss := { s'.iss with out := .waiting } }

/-- A thread of normal mode reaches a convergence point, no thread of its group or team waits at another one, and for a matrix
instruction no thread of its group has exited (R44, R47 to R49). -/
abbrev Arrives (s : State) (op : Instr) : Prop :=
  let i := s.iss.cur
  let s' := standing s op
  s.thr.mode = 0 ∧ s.thr.arrival = none ∧ (s'.waitPcs (s'.liveOfGroup (s.groupOf i))).length ≤ 1 ∧
    (s'.waitPcs (s'.teamWaiters (State.teamOf i))).length ≤ 1 ∧
    (isMatrix op = true → (s.team (s.groupOf i / 16)).record.width ≤ (s'.liveOfGroup (s.groupOf i)).length)

/-- Every live thread of the scope stands at the point, with the current one (R44, R45). -/
abbrev AllMet (s : State) (op : Instr) : Prop :=
  let s' := standing s op
  ∀ j ∈ s'.scopeOf s.iss.cur op, (s'.thread j).arrival.isSome = true ∧ (s'.thread j).pc = s.thr.pc

/-- The cores on which a scope issues, one bundle for each of its groups (R39, R91). -/
def scopeCores (s : State) (op : Instr) : List Nat :=
  (dedupNat (((standing s op).scopeOf s.iss.cur op).map s.groupOf)).map fun g => (s.group g).core

/-- The thread in the issue position is the last of its scope to reach a convergence point, and the context has issue budget left on
every core of the scope (R44, R91). -/
abbrev Completes (s : State) (op : Instr) : Prop :=
  Arrives s op ∧ AllMet s op ∧ (scopeCores s op).all ((standing s op).hasBudget s.curCtx 0) = true

/-- A state after the issue budget has been charged for the point, one bundle for each group (R39, R90). -/
def charged (s : State) (op : Instr) (t : State) : State := (scopeCores s op).foldl (fun u k => u.charge s.curCtx 0 k 1) t

/-- The outcome in which every thread of the scope goes on from a state (R44). -/
def goOn (s : State) (op : Instr) (t : State) : Host.Outcome State Fault Refusal :=
  .next (((standing s op).scopeOf s.iss.cur op).foldl (fun u j => u.pass j) (charged s op t))

/-- R44, R411, R442, R449, R457, R461: the last thread to arrive lets the scope go on, with the results of `vote`, `shfl` and `redux`
filed in every live thread of the group; an exited lane counts as 0. -/
def Obligations.GroupOperations : Prop :=
  ∀ (s : State) (o : ReduxOp) (d a b : Reg) (m : Bool),
    let g := s.groupOf s.iss.cur
    let lanes := s.lanes g
    let width := s.widthOf s.iss.cur
    let set (j : Nat) : Bool := (s.thread j).live && (s.thread j).preds.getLsbD a.toNat
    let val (j : Nat) : W32 := if (s.thread j).live then (s.thread j).regs.get a.toNat 0 else 0
    let mask : Nat := (lanes.zipIdx.map fun e => if set e.1 then 2 ^ e.2 else 0).sum
    let replied (op : Instr) (f : Nat → Reply) := goOn s op ((standing s op).replyAll g f)
    (s.thr.live = true →
      (Completes s .gbar → exec .gbar s = goOn s .gbar (standing s .gbar)) ∧
      (Completes s .tbar → exec .tbar s = goOn s .tbar (standing s .tbar))) ∧
    (Ready s (preds [d, a] false) →
      (Completes s (.voteAny d a) →
        exec (.voteAny d a) s = replied (.voteAny d a) fun _ => ⟨[], [(d.toNat, lanes.any set)]⟩) ∧
      (Completes s (.voteAll d a) →
        exec (.voteAll d a) s = replied (.voteAll d a) fun _ => ⟨[], [(d.toNat, lanes.all set)]⟩)) ∧
    (width ≠ 64 → (s.team (g / 16)).record.width = width → Ready s (regs [d] ++ preds [a] false) → Completes s (.voteBallot d a) →
      exec (.voteBallot d a) s = replied (.voteBallot d a) fun _ => ⟨[(d.toNat, BitVec.ofNat 32 mask)], []⟩) ∧
    (width = 64 → (s.team (g / 16)).record.width = width → d.toNat % 2 = 0 → Ready s (pair d ++ preds [a] false) → Completes s (.voteBallot d a) →
      exec (.voteBallot d a) s = replied (.voteBallot d a) fun _ =>
        ⟨[(d.toNat, BitVec.ofNat 32 mask), (d.toNat + 1, BitVec.ofNat 32 (mask / 2 ^ 32))], []⟩) ∧
    (Ready s (regs [d, a, b]) → Completes s (.shfl d a b m) →
      exec (.shfl d a b m) s = replied (.shfl d a b m) fun j =>
        let sel := ((s.thread j).regs.get b.toNat 0).toNat % 64
        ⟨[(d.toNat, ((lanes.map val)[if m then s.laneOf j ^^^ sel else sel]?).getD 0)], []⟩) ∧
    (Ready s (regs [d, a]) → Completes s (.redux o d a) →
      exec (.redux o d a) s = replied (.redux o d a) fun _ => ⟨[(d.toNat, redux o (lanes.map val))], []⟩)

/-- The convergence points with the registers that each checks as a thread arrives (R44, R422). -/
def points (s : State) (o : ReduxOp) (d a b : Reg) (m : Bool) (n : BitVec 13) : List (Instr × List Touch) :=
  [(.gbar, []), (.tbar, []), (.voteAny d a, preds [d, a] false), (.voteAll d a, preds [d, a] false),
   (.voteBallot d a, (if s.widthOf s.iss.cur = 64 ∧ d.toNat % 2 = 0 then pair d else regs [d]) ++ preds [a] false),
   (.shfl d a b m, regs [d, a, b]), (.redux o d a, regs [d, a]), (.mma d a b m, matrixTouch s d a b),
   (.mmo d a b m, matrixTouch s d a b), (.fork d n, regs [d]), (.wend a, regs [a]), (.choose a, regs [a])]

/-- The state in which a group no longer stands at a matrix instruction whose operand fetch has been accepted (R47, R213, R423). -/
def unfetched (s : State) (g : Nat) : State :=
  if (s.group g).fetch = none then s else s.onGroup g fun x => { x with fetch := none }

/-- The state in which each of these threads that has no trap due has taken a trap, at its own program counter, with an enqueue of its own
that has not left taken back (R47, R48, R486). -/
def allTrap (s : State) (is : List Nat) (cause : Byte) (addr : W64) : State :=
  is.foldl (fun u j => if (u.thread j).trapDue.isSome then u
    else
      let v := unfetched ((u.takeBackOuts fun k => k == j).passLeft j) (u.groupOf j)
      v.deliver j ⟨cause, addr, 0, (v.thread j).pc, (v.thread j).chained && (v.thread j).wait != .ready⟩) s

/-- R44, R46 to R49, R61: at every convergence point, a thread that is not the last of its scope waits, with no result, and outside normal
mode it traps. Where threads of the group, or of the team at its points, wait at two program counters, all of them that are not stopped
at a breakpoint take the illegal-convergence trap; `mma` and `mmo` in a group of which a thread has exited give the partial-group trap
to the threads that have arrived. A thread that traps has executed the instruction where it stands only if that is an enqueue which has
left: one that has not left is taken back. A thread that goes on past the point stands at the next word and is ready, or waits for its
replies when its word carried the switch marker. -/
def Obligations.ArrivalAndGoingOn : Prop :=
  (∀ (s : State) (j : Nat),
    let t := s.thread j
    let t' := (s.pass j).thread j
    let parks := (∃ a, t.arrival = some a ∧ a.switch = true) ∧ t.pending ≠ []
    t'.pc = (t.pc + 4) &&& 0x1FFFFFFFFFFFFFF ∧ t'.arrival = none ∧ (parks → t'.wait = .marker) ∧ (¬ parks → t'.wait = .ready) ∧
      t'.regs = t.regs ∧ t'.preds = t.preds ∧ t'.pending = t.pending ∧ t'.live = t.live ∧
      (∀ k, k ≠ j → (s.pass j).thread k = s.thread k) ∧ { s.pass j with threads := s.threads } = s) ∧
  (∀ (s : State) (j n : Nat) (p : Nat → Bool),
    let t := s.thread j
    let u := s.takeBackOuts p
    { u with sessions := s.sessions } = s ∧
    (∀ x, s.sessions.find? n = some x →
      u.sessions.find? n = some { x with outs := x.outs.filter fun o => o.sent || !o.thread.any p }) ∧
    (s.passLeft j).thread j = (if t.left = true ∧ t.chained = false then { t with left := false, pc := (t.pc + 4) &&& 0x1FFFFFFFFFFFFFF }
      else t) ∧
    (∀ k, k ≠ j → (s.passLeft j).thread k = s.thread k) ∧ { s.passLeft j with threads := s.threads } = s) ∧
  (∀ (s : State) (o : ReduxOp) (d a b : Reg) (m : Bool) (n : BitVec 13), ∀ c ∈ points s o d a b m n, Ready s c.2 →
    let g := s.groupOf s.iss.cur
    let t := State.teamOf s.iss.cur
    let s' := standing s c.1
    let stands (js : List Nat) : List Nat := js.filter fun j => (s'.thread j).wait != .breakpoint
    (s.thr.mode ≠ 0 → exec c.1 s = .next (s.raise 0x05 0 0)) ∧
    (Arrives s c.1 → ¬ AllMet s c.1 → exec c.1 s = .next s') ∧
    (s.thr.mode = 0 → s.thr.arrival = none →
      (1 < (s'.waitPcs (s'.liveOfGroup g)).length → exec c.1 s = .next (allTrap s' (stands (s'.liveOfGroup g)) 0x05 0)) ∧
      ((s'.waitPcs (s'.liveOfGroup g)).length ≤ 1 → 1 < (s'.waitPcs (s'.teamWaiters t)).length →
        exec c.1 s = .next (allTrap s' (stands (s'.liveOf t)) 0x05 0)) ∧
      ((s'.waitPcs (s'.liveOfGroup g)).length ≤ 1 → (s'.waitPcs (s'.teamWaiters t)).length ≤ 1 →
        isMatrix c.1 = true → (s'.liveOfGroup g).length < (s.team (g / 16)).record.width →
        exec c.1 s = .next (allTrap s' ((s'.liveOfGroup g).filter fun j => (s'.thread j).arrival.isSome) 0x06 0))))

/-- R205, R206, R350 to R353: the transaction-barrier instructions on a barrier whose reserved bits are zero; and in every form the traps
of an offset that is not a multiple of 16, or whose barrier passes the allocation, the wait for a conflicting interval, and the
barrier-format trap of a reserved bit, of a count of `bar.init` out of range, of sectors that `bar.expect` would carry past 2^32 − 1, and of
a `bar.arrive` that finds PENDING 0. -/
def Obligations.Barriers : Prop :=
  ∀ (s : State) (d a b : Reg) (m : Bool),
    let at_ (off : Nat) := s.barrier s.curTeam off
    let name (off : Nat) : W64 := BitVec.ofNat 64 (0xFE * 2 ^ 56 + off)
    (∀ c ∈ [(Instr.barInit d a, regs [d, a], s.v d, IClass.w), (.barExpect d a, regs [d, a], s.v d, .w),
            (.barArrive d a, regs [d, a], s.v a, .w), (.barWait d a b m, preds [d] m ++ regs [a, b], s.v a, .r),
            (.barTry d a b m, preds [d] m ++ regs [a, b], s.v a, .r)], Ready s c.2.1 →
      let off := c.2.2.1.toNat
      let cls := c.2.2.2
      (off % 16 ≠ 0 → exec c.1 s = .next (s.raise 0x11 (name off) 0)) ∧
      (off % 16 = 0 → s.scratchSize s.curTeam < off + 16 → exec c.1 s = .next (s.raise 0x13 (name off) 0)) ∧
      (off % 16 = 0 → off + 16 ≤ s.scratchSize s.curTeam → s.spBlocked s.curTeam off 16 cls = true →
        exec c.1 s = .next (s.park .scoreboard)) ∧
      (SpanOpen s off 16 cls → (at_ off).resvd ≠ 0 → exec c.1 s = .next (s.raise 0x1A (name off) 0))) ∧
    (Ready s (regs [d, a]) →
      let offD := (s.v d).toNat
      let offA := (s.v a).toNat
      (SpanOpen s offD 16 .w → (at_ offD).resvd = 0 →
        ((s.v a).toNat = 0 ∨ 1048575 < (s.v a).toNat → exec (.barInit d a) s = .next (s.raise 0x1A (name offD) 0)) ∧
        (2 ^ 32 ≤ (at_ offD).sectors + (s.v a).toNat → exec (.barExpect d a) s = .next (s.raise 0x1A (name offD) 0))) ∧
      (SpanOpen s offA 16 .w → (at_ offA).resvd = 0 → (at_ offA).pending = 0 →
        exec (.barArrive d a) s = .next (s.raise 0x1A (name offA) 0))) ∧
    let put (off : Nat) (x : State.Barrier) : State := s.putBarrier s.curTeam off x
    let step (x : State.Barrier) : State.Barrier :=
      if x.pending = 0 ∧ x.sectors = 0 then { x with phase := (x.phase + 1) % 16, pending := x.reload, armed := false } else x
    (Ready s (regs [d, a]) →
      let offD := (s.v d).toNat
      let offA := (s.v a).toNat
      (SpanOpen s offD 16 .w → (at_ offD).resvd = 0 →
        (1 ≤ (s.v a).toNat → (s.v a).toNat ≤ 1048575 →
          exec (.barInit d a) s = .next (put offD ⟨0, (s.v a).toNat, (s.v a).toNat, 0, false, false, 0⟩)) ∧
        ((at_ offD).sectors + (s.v a).toNat < 2 ^ 32 →
          exec (.barExpect d a) s =
            .next (put offD (step { at_ offD with sectors := (at_ offD).sectors + (s.v a).toNat, armed := true })))) ∧
      (SpanOpen s offA 16 .w → (at_ offA).resvd = 0 → (at_ offA).pending ≠ 0 →
        exec (.barArrive d a) s = .next ((put offA (step { at_ offA with pending := (at_ offA).pending - 1 })).setV d
          (BitVec.ofNat 32 (at_ offA).phase)))) ∧
    (Ready s (preds [d] m ++ regs [a, b]) →
      let off := (s.v a).toNat
      let n := d.toNat + if m then 64 else 0
      SpanOpen s off 16 .r → (at_ off).resvd = 0 →
        ((at_ off).phase ≠ (s.v b).toNat % 16 →
          exec (.barWait d a b m) s = .next ((s.onThread s.iss.cur fun t => { t with barAt := none }).setP n (at_ off).error)) ∧
        ((at_ off).phase = (s.v b).toNat % 16 → exec (.barWait d a b m) s =
          .next ((s.onThread s.iss.cur fun t => { t with barAt := some off }).park .barrier)) ∧
        exec (.barTry d a b m) s = .next (s.setP n (decide ((at_ off).phase ≠ (s.v b).toNat % 16))))

/-- What a `fork` leaves (R146 to R149): the views and the world that it makes, the forking team as rival 0, and each clone with its threads,
its groups and the jobs that copy its image. -/
def Forked (s : State) (t n : Nat) (d : Reg) (u : State) : Prop :=
  let x := s.team t
  let c := x.ctx
  let ids := (s.freeViews c).take n
  (∀ j < n, ∃ v, ids[j]? = some v ∧ u.view c v = { View.free with
    state := .live, parent := x.view, depth := (s.view c x.view).depth + 1, rival := j, nriv := n - 1 }) ∧
  (∃ w : World, u.world c s.serial = some w ∧ w.resumed = false ∧ w.outerRival = x.rival ∧ w.outerWorld = x.world ∧ w.rivals.length = n ∧
    ∀ j r, w.rivals[j]? = some r → ids[j]? = some r.view ∧ r.team = (if j = 0 then t else s.serial + j) ∧ r.verdict = none ∧
      r.parked = false ∧ r.abstained = false ∧ r.chosen = none) ∧
  u.team t = { x with view := ids.getD 0 0, rival := 0, world := some s.serial } ∧
  (∀ i ∈ s.liveOf t, u.thread i = (s.thread i).setReg d.toNat 0) ∧
  ∀ j, 1 ≤ j → j < n → let k := s.serial + j
    u.team k = { x with
      die := x.core / 96, core := State.noCore, slot := none, phase := .waiting, view := ids.getD j 0, rival := j, world := some s.serial,
      sp := [], dirty := [], startedAt := s.cycle, firstQueued := s.cycle, firstInLine := none, blocking := false, transit := false,
      clone := true, copies := 1 + x.resv.length + (if s.stackBytes c = 0 then 0 else 1),
      resv := x.resv.mapVals fun _ r => { r with core := State.noCore + (r.core - x.core), bytes := [] } } ∧
    (∀ i ∈ s.threadsOf t, let th := s.thread i
      u.thread (k * 1024 + i % 1024) = { th with
        wait := .ready, waited := .ready, waitCount := 0, readyAt := s.cycle, arrival := none, wc := [], barAt := none,
        pc := if th.live then (th.pc + 4) &&& 0x1FFFFFFFFFFFFFF else th.pc,
        regs := if th.live then th.regs.set d.toNat (BitVec.ofNat 32 j) else th.regs }) ∧
    (∀ g ∈ s.groupsOf t, u.group (k * 16 + g % 16) = { s.group g with core := State.noCore, mms := [], blocks := [] }) ∧
    (∃ q ∈ (u.core x.core).jobs, q.team = t ∧ q.cloneOf = some (k, .scratch)) ∧
    (s.stackBytes c ≠ 0 → ∃ q ∈ (u.core x.core).jobs, q.team = t ∧ q.cloneOf = some (k, .stack)) ∧
    ∀ e ∈ x.resv, ∃ q ∈ (u.core e.2.core).jobs, q.team = t ∧ q.cloneOf = some (k, .resv e.1)

/-- R122, R146 to R149, R157, R159 to R164, R360, R377, R462: `fork` makes the team rival 0 of a new world and its clones the others; `wend`
records the verdict of a rival that is drained and parks it, and the last one lets all go on; `wvr` reads a verdict after the join;
`choose` records the choice, and the last one decides: the winner's bytes become the parent's at once and it goes on in the parent's
view, the losers' views are dead and their teams end as killed; a disagreement traps every rival and changes nothing; where every
rival abstains, the world ends. The cells of a dead view's outbox stay in use until its sweep. That a decision waits while a page that the
winner's view has written is under fault, or a logged access of that view is not replayed, is the model's choice (log 34): R162 decides
once all have arrived. -/
def Obligations.Worlds : Prop :=
  (∀ (s : State) (t n : Nat) (d : Reg),
    let x := s.team t
    let per := 2 + x.resv.length
    let copies := (List.range (n - 1)).flatMap fun j => s.imageJobs t (s.serial + (j + 1)) (s.serial + n + j * per)
    1 ≤ n → t < s.serial → (∀ i ∈ s.liveOf t, (s.thread i).pending = []) → s.globalJobs t = [] → (s.view x.ctx x.view).depth < 3 →
      (∀ r, s.rivalOf t = some r → r.verdict = none) → n ≤ (s.freeViews x.ctx).length →
      (∀ k ∈ s.coresOfTeam t, (s.core k).ivals.length + (s.entriesOf t k copies).length ≤ 64) →
      ∃ u, s.forkExec t n d = .done u ∧ u.serial = s.serial + n + (n - 1) * per ∧ Forked s t n d u) ∧
  (∀ (s : State) (c w : Nat) (x : World), s.world c w = some x →
    let stands (r : Rival) : Prop := r.abstained = true ∨ (r.parked = true ∧ s.onCores r.team = true)
    (x.resumed = false → (∃ r ∈ x.rivals, r.abstained = false) → (∀ r ∈ x.rivals, stands r) →
      s.tryJoin c w = (x.rivals.filter fun r => r.parked && !r.abstained).foldl
        (fun u r => (u.setViewState c r.view .live).passTeam r.team)
        (s.setWorld c w { x with resumed := true, rivals := x.rivals.map fun r => { r with parked := false } })) ∧
    (x.resumed = true ∨ (∃ r ∈ x.rivals, ¬stands r) → s.tryJoin c w = s)) ∧
  (∀ (s : State) (c w : Nat) (x : World) (r0 : Rival) (rest : List Rival) (v : W32), s.world c w = some x →
    x.rivals.filter (fun r => !r.abstained) = r0 :: rest →
    (x.resumed = false ∨ (∃ r ∈ r0 :: rest, r.chosen = none ∨ s.onCores r.team = false) → s.tryChoose c w = s) ∧
    (x.resumed = true → (∀ r ∈ r0 :: rest, r.chosen.isSome = true ∧ s.onCores r.team = true) → r0.chosen = some v →
      ((∃ r ∈ rest, r.chosen ≠ some v) ∨ (∀ q, x.rivals[v.toNat]? = some q → q.abstained = true) → s.tryChoose c w = s.disagree c w x) ∧
      (∀ q, x.rivals[v.toNat]? = some q → q.abstained = false → (∀ r ∈ rest, r.chosen = some v) →
        (s.commitHeld c q.view = true → s.tryChoose c w = s) ∧
        (s.commitHeld c q.view = false → s.tryChoose c w = s.commitWorld c w v.toNat x)))) ∧
  (∀ (s : State) (c w idx : Nat) (x : World) (q : Rival), x.rivals[idx]? = some q →
    let losers := (x.rivals.zipIdx.filter fun e => e.2 != idx).map fun e => e.1
    let merged := (s.commitView c q.view).onCtx c fun y => { y with sweep := y.sweep ++ [q.view], worlds := y.worlds.erase w }
    let dead := losers.foldl (fun u r => u.killView c r.view) merged
    let ended := (losers.filter fun r => !r.abstained).foldl (fun u r => u.endTeam r.team true) dead
    s.commitWorld c w idx x = ended.promote c q.team q.view x) ∧
  (∀ (s : State) (c n k : Nat),
    let v := s.view c n
    let u := s.commitView c n
    let p := s.view c v.parent
    (v.parent ≠ n → (u.view c n).state = .merged ∧ (u.view c n).bytes = []) ∧
    (v.parent = 0 → v.prots = [] → s.hub.tags = [] → s.hub.enciphered = [] →
      (∀ l b m, v.bytes = l ++ (k, b) :: m → (∀ e ∈ m, e.1 ≠ k) → u.mem.read k = b) ∧
      ((∀ e ∈ v.bytes, e.1 ≠ k) → u.mem.read k = s.mem.read k)) ∧
    (v.parent ≠ 0 → v.parent ≠ n → u.mem = s.mem ∧
      (∀ l b m, v.bytes = l ++ (k, b) :: m → (∀ e ∈ m, e.1 ≠ k) → (u.view c v.parent).bytes.find? k = some b) ∧
      ((∀ e ∈ v.bytes, e.1 ≠ k) → (u.view c v.parent).bytes.find? k = p.bytes.find? k) ∧
      (u.view c v.parent).state = p.state ∧ (u.view c v.parent).outbox = p.outbox)) ∧
  (∀ (s : State) (c n : Nat), (s.view c n).state = .live ∨ (s.view c n).state = .parked →
    let u := s.killView c n
    (u.view c n).state = .dead ∧ (u.view c n).outbox = [] ∧ (u.view c n).outCells = (s.view c n).outbox.length ∧ (u.view c n).bytes = [] ∧
      (u.ctx c).sweep = (s.ctx c).sweep ++ [n] ∧
      (∀ y ∈ u.cores, ∀ l ∈ y.2.log, ¬(l.ctx = c ∧ l.view = n)) ∧ u.mem = s.mem ∧ u.teams = s.teams) ∧
  (∀ (s : State) (c t n : Nat) (x : World),
    let v := s.view c n
    let inner := s.onTeam t fun y => { y with
      view := v.parent, rival := if x.outerWorld.isSome then x.outerRival else 0, world := x.outerWorld }
    let outer (u : State) : State := match x.outerWorld with
      | some w => u.onRival c w x.outerRival fun r => { r with team := t }
      | none => u
    (v.parent = 0 → v.outbox = [] → s.promote c t n x = (outer inner).passTeam t) ∧
    (v.parent = 0 → v.outbox ≠ [] → s.promote c t n x = ((outer inner).onCtx c fun y =>
      { y with runs := y.runs ++ [⟨n, t, (s.team t).core / 96, false⟩] }).holdTeam t .join) ∧
    (v.parent ≠ 0 → v.parent ≠ n → ∃ u : State, s.promote c t n x = u.passTeam t ∧ u.team t = inner.team t ∧ (u.view c n).outbox = [] ∧
      (u.view c v.parent).outbox = (s.view c v.parent).outbox ++ v.outbox ∧ u.mem = s.mem)) ∧
  (∀ (s : State) (c w : Nat) (x : World),
    let u := s.disagree c w x
    u.world c w = some { x with rivals := x.rivals.map fun r => { r with chosen := none } } ∧ (∀ n, u.view c n = s.view c n) ∧
      u.mem = s.mem ∧ u.teams = s.teams ∧
      ∀ r ∈ x.rivals, r.abstained = false → ∀ i ∈ s.arrivedOf r.team, (s.thread i).mode = 0 → (s.thread i).pending = [] →
        (u.thread i).mode = 2 ∧ (u.thread i).tcause.toNat % 2 ^ 8 = 0x22) ∧
  (∀ (s : State) (c w i fuel : Nat) (x : World), s.world c w = some x → i < x.rivals.length → x.outerWorld = none →
    (∀ j r, j ≠ i → x.rivals[j]? = some r → r.abstained = true) →
    let u := State.abstain (fuel + 1) s c w i
    u.world c w = none ∧ u.mem = s.mem ∧
      ∀ r ∈ x.rivals, (s.view c r.view).state = .live ∨ (s.view c r.view).state = .parked → (u.view c r.view).state = .dead) ∧
  ∀ (s : State) (d a : Reg) (n : BitVec 13),
    let t := s.curTeam
    let c := (s.team t).ctx
    let x := s.team t
    (Ready s (regs [d]) → Completes s (.fork d n) → 1 ≤ n.toNat →
      let s' := standing s (.fork d n)
      ∀ s'', s'.forkExec t n.toNat d = .done s'' →
        exec (.fork d n) s = goOn s (.fork d n) s'' ∧ (s''.team t).rival = 0 ∧ (s''.team t).world = some s.serial ∧
          (∃ v, (s'.freeViews c).head? = some v ∧ (s''.team t).view = v)) ∧
    (Ready s (regs [a]) → Completes s (.wend a) → ∀ w r, x.world = some w → s.rivalOf t = some r → r.parked = false →
      r.verdict = none → (standing s (.wend a)).undrained t = false →
      let s' := (standing s (.wend a)).onRival c w x.rival fun q =>
        { q with verdict := some ((s.thread (s.lowest t)).regs.get a.toNat 0), parked := true }
      exec (.wend a) s = .next (charged s (.wend a) (((s'.setViewState c x.view .parked).holdTeam t .join).tryJoin c w))) ∧
    (Ready s (regs [d, a]) → ∀ w, s.resumedWorld t = some w →
      exec (.wvr d a) s = .next (s.setV d (match (w.rivals[(s.v a).toNat]?).bind fun r => r.verdict with
        | some v => v
        | none => 0xFFFFFFFF))) ∧
    (Ready s (regs [a]) → Completes s (.choose a) → ∀ w, x.world = some w → (s.resumedWorld t).isSome = true →
      (s.ctx c).runs = [] → (standing s (.choose a)).undrained t = false →
      let s' := (standing s (.choose a)).onRival c w x.rival fun q =>
        { q with chosen := some ((s.thread (s.lowest t)).regs.get a.toNat 0) }
      exec (.choose a) s = .next (charged s (.choose a) ((s'.holdTeam t .join).tryChoose c w)))

/-! ## The copy unit, the operand buffer and the matrix engine -/

/-- The job that a copy-unit instruction starts, from the 128 bytes of its descriptor (R194, R198). -/
def jobOfDesc (s : State) (off : Nat) (c0 c1 c2 : W32) (idxa : W64) (bar : Option Nat) : Job :=
  let j := s.newJob (readDesc (s.spBefore off 128)) c0 c1 c2 idxa bar
  { j with foots := State.jobFoots j }

/-- R91, R94, R111, R197, R198, R275, R320, R365, R408, R437, R460: a copy-unit instruction whose descriptor, barrier and coordinates pass its
checks, and whose core has room, leaves a job with its intervals and its barrier count, and the thread goes on; no register changes. A
descriptor that fails a check traps, the lowest code first, a core without room makes the thread wait, and so does a die whose share of
the copy budget is spent. In a chain the descriptor is read as it stood before it. The model's own readings here: that `quant` too takes
the trap of a tile whose reservation no team holds, which R111 names for `copy` (log 51); and that a job waits where the side log has no
room for its thread's waiting stores, which it follows (log 14). -/
def Obligations.CopyUnitJobs : Prop :=
  ∀ (s : State) (d a b : Reg) (m : Bool),
    (s.iss.spSnap = none → ∀ off n, s.spBefore off n = s.spBytes s.curTeam off n) ∧
    (∀ sp, s.iss.spSnap = some sp → ∀ off n, s.spBefore off n = (List.range n).map fun k => sp.get (off + k) 0) ∧
    let off := (s.v d).toNat
    let bar := if m then none else some (s.v b).toNat
    let plain := jobOfDesc s off (s.vn a.toNat) (s.vn (a.toNat + 1)) (s.vn (a.toNat + 2)) 0 bar
    let gath := jobOfDesc s off (s.vn a.toNat) (s.vn (a.toNat + 1)) (s.vn (a.toNat + 2)) (s.vdn (a.toNat + 4)) bar
    ∀ c ∈ [(Instr.copy d a b m, 0, plain, jobTouch d a b m), (.unfold d a b m, 2, plain, jobTouch d a b m),
           (.quant d a b m, 3, plain, jobTouch d a b m),
           (.gath d a b m, 1, gath, jobTouch d a b m ++ [.reg (a.toNat + 4), .reg (a.toNat + 5)])],
      Ready s c.2.2.2 → SpanOpen s off 128 .r →
      let g := c.2.2.1.desc.gbase
      let barAt : W64 := BitVec.ofNat 64 (0xFE * 2 ^ 56 + (s.v b).toNat)
      let ok := s.descOk (s.spBefore off 128) c.2.2.1 c.2.1 off
      let room := s.jobRoom s.curCore 1 = true ∧ s.roomFor s.curTeam s.curCore (s.jobIvals c.2.2.1) = true
      let share := s.hasBudget s.curCtx 2 (s.curCore / 96) = true
      (window g = .none → exec c.1 s = .next (s.raise 0x10 g 0)) ∧
      (window g ≠ .none → m = false → (s.v b).toNat % 16 ≠ 0 → exec c.1 s = .next (s.raise 0x11 barAt 0)) ∧
      (window g ≠ .none → m = false → (s.v b).toNat % 16 = 0 → s.scratchSize s.curTeam < (s.v b).toNat + 16 →
        exec c.1 s = .next (s.raise 0x13 barAt 0)) ∧
      (window g ≠ .none → (m = false → (s.v b).toNat % 16 = 0 ∧ (s.v b).toNat + 16 ≤ s.scratchSize s.curTeam) →
        (s.namesFree s.curTeam c.2.2.1.desc = true → exec c.1 s = .next (s.raise 0x18 0 0)) ∧
        (s.namesFree s.curTeam c.2.2.1.desc = false → ok = false →
          exec c.1 s = .next (s.raise 0x19 (BitVec.ofNat 64 (0xFE * 2 ^ 56 + off)) 0)) ∧
        (ok = true → s.barOverflow c.2.2.1 = true → exec c.1 s = .next (s.raise 0x1A barAt 0)) ∧
        (ok = true → s.barOverflow c.2.2.1 = false → ¬ room → exec c.1 s = .next (s.park .scoreboard)) ∧
        (ok = true → s.barOverflow c.2.2.1 = false → room → s.drainReady s.iss.cur = false → exec c.1 s = .next (s.park .sideLog)) ∧
        (ok = true → s.barOverflow c.2.2.1 = false → room → s.drainReady s.iss.cur = true → ¬share →
          exec c.1 s = .next (s.park .budget)) ∧
        (ok = true → s.barOverflow c.2.2.1 = false → room → s.drainReady s.iss.cur = true → share →
          ∃ t, exec c.1 s = .next t ∧ t = s.acceptJob c.2.2.1 ∧ (t.core s.curCore).jobs = (s.core s.curCore).jobs ++ [c.2.2.1] ∧
            ∀ i, (t.thread i).regs = (s.thread i).regs ∧ (t.thread i).preds = (s.thread i).preds))

/-- R108 to R111, R208, R211, R430, R431, R458: `obres` takes the lowest free id and the lowest run of units, or says that there is none; `obrel`
releases a reservation of which no job is outstanding; `tile` writes a handle that fits its reservation. -/
def Obligations.OperandBuffer : Prop :=
  ∀ (s : State) (d a b : Reg) (m : Bool),
    let t := s.curTeam
    let w (i : Nat) := s.vn (a.toNat + i)
    let rec_ := resvRecord (w 0) (w 1) (w 2) s.curCore 0 s.serial
    (Ready s (regs [d] ++ [.reg a.toNat, .reg (a.toNat + 1), .reg (a.toNat + 2), .reg (a.toNat + 3)] ++ preds [b] m) →
      resvValid (w 0) (w 1) (w 2) (w 3) = true →
      (∀ id place, s.freeResvId t = some id → s.freeRun s.curCore rec_.units = some place →
        exec (.obres d a b m) s = .next ((({ s.onTeam t fun x => { x with resv := x.resv.set id { rec_ with place := place } } with
          serial := s.serial + 1 } : State).setV d (BitVec.ofNat 32 id)).setP (b.toNat + if m then 64 else 0) true)) ∧
      (s.freeResvId t = none ∨ s.freeRun s.curCore rec_.units = none →
        exec (.obres d a b m) s = .next ((s.setV d 0xFFFFFFFF).setP (b.toNat + if m then 64 else 0) false))) ∧
    (Ready s (regs [a]) → (s.resvOn t (s.v a).toNat s.curCore).isSome = true → s.resvBusy t (s.v a).toNat = false →
      exec (.obrel a) s = .next (s.onTeam t fun x => { x with resv := x.resv.erase (s.v a).toNat })) ∧
    (Ready s (pair d ++ regs [a, b]) →
      let h : Nat := (s.v a).toNat + 2 ^ 32 * (s.v b).toNat
      ∀ r, s.resvOn t (h % 16) s.curCore = some r →
        (h / 2 ^ 32 % 2 ^ 17 ≠ 0 → 16 * (h / 2 ^ 32 % 2 ^ 17) + 16 ≤ s.scratchSize t) →
        formatsFit (h / 2 ^ 4 % 16) r.fmt = true → tileFits r (h / 2 ^ 10 % 16) (h / 2 ^ 14 % 2 ^ 18) = true →
        exec (.tile d a b) s = .next (s.setVd d (BitVec.ofNat 64 h)))

/-- The job with which an operand fetch runs the descriptor at an offset: with coordinates 0 and no barrier, and a quant with the SAT bit of
the handle (R213). -/
def fetchJob (s : State) (i h o : Nat) : Job :=
  let d := readDesc (s.spBytes (State.teamOf i) o 128)
  let d := if d.kind = 3 then { d with param := if h / 2 ^ 8 % 2 = 1 then d.param ||| 16 else d.param &&& ~~~16 } else d
  let j : Job := { serial := s.serial + 1 + (o - 128 * (h / 2 ^ 49 % 2 ^ 15)) / 128, desc := d, c0 := 0, c1 := 0, c2 := 0, idxa := 0, bar := none,
                   team := State.teamOf i, thread := i, ctx := s.ctxOf i, view := s.viewOf i, core := s.coreOf i, idx := [], got := [],
                   bytes := 0, moved := [], landed := [], stopped := false, held := false, heldAt := 0, foots := [],
                   fetchFor := some s.serial, cloneOf := none, keep := [] }
  { j with foots := State.jobFoots j }

/-- The jobs of an operand fetch by the offsets of their descriptors: of a quant one, of copies that of the payload and those of the scale
regions that B's format has (R213). -/
def fetchJobsAt (s : State) (i h : Nat) (b : Option Resv) : List (Nat × Job) :=
  let o := 128 * (h / 2 ^ 49 % 2 ^ 15)
  let scales := if (fetchJob s i h o).desc.kind = 3 then [] else
    (if b.any fun r => r.blk != 0 then [o + 128] else []) ++ (if b.any fun r => isDn r.fmt then [o + 256] else [])
  (o :: scales).map fun k => (k, fetchJob s i h k)

/-- R48, R91, R131, R134, R211 to R214, R216, R275, R421 to R423, R425: what `mma` and `mmo` do once the whole group has arrived, with the D offset
and the handle of lane 0. The checks come in the order of their causes, and a trap is taken by every live thread. Then the jobs of a
fetch are accepted, once the core has room for them, and the instruction, once the engine holds fewer than four and the scoreboard
has room; until then the group waits. The engine gets the operands and the rows of A, or those of the latch, the scoreboard the
intervals over D, B and the outlier list, and the group goes on; the latch holds A where the word keeps it. The model's own readings
here (log 51): which lane's registers name the fetch, and that a group which waits makes its checks again, but those of its fetch. -/
def Obligations.MatrixInstructions : Prop :=
  ∀ (s : State) (d a b : Reg) (m : Bool), ∀ c ∈ [(Instr.mma d a b m, false), (.mmo d a b m, true)],
    Ready s (matrixTouch s d a b) → Completes s c.1 →
    let g := s.groupOf s.iss.cur
    let t := g / 16
    let k := (s.group g).core
    let width := (s.team t).record.width
    let lane0 := g / 16 * 1024 + g % 16 * width
    let s' := standing s c.1
    let reg (n : Nat) := (s'.thread lane0).regs.get n 0
    let dof := (reg d.toNat).toNat
    let h : Nat := (reg b.toNat).toNat + 2 ^ 32 * (reg (b.toNat + 1)).toNat
    let o := 128 * (h / 2 ^ 49 % 2 ^ 15)
    let ol := 16 * (h / 2 ^ 32 % 2 ^ 17)
    let count := if c.2 then leNat (s'.spBytes t ol 4) else 0
    let size := s'.scratchSize t
    let resv := s'.resvOn t (h % 16) k
    let fs := if h / 2 ^ 9 % 2 = 1 ∧ (s.group g).fetch = none then fetchJobsAt s' lane0 h resv else []
    let inside := fs.filter fun e => decide (e.1 + 128 ≤ size)
    let js := fs.map (·.2)
    let at_ (off : Nat) : W64 := BitVec.ofNat 64 (0xFE * 2 ^ 56 + off)
    let is := s'.scopeOf s.iss.cur c.1
    let traps (cause : Byte) (addr : W64) := exec c.1 s = .next (allTrap (charged s c.1 (unfetched s' g)) is cause addr)
    let waits (w : Wait) (u : State) := exec c.1 s = .next (is.foldl (fun u j => u.parkThread j w) u)
    let quiet := ∀ e ∈ inside, s'.spBlocked t e.1 128 .r = false
    let windowed := ∀ e ∈ inside, window e.2.desc.gbase ≠ .none
    let placed := quiet ∧ windowed ∧ dof % 512 = 0 ∧ dof + 256 * width ≤ size ∧ (c.2 = true → ol + 16 ≤ size) ∧ inside = fs
    let listed := placed ∧ (c.2 = true → s'.spBlocked t ol 16 .r = false ∧ ol + 16 + 4 * count ≤ size)
    let named := ∀ e ∈ fs, s'.namesFree t e.2.desc = false
    let fetches := ∀ e ∈ fs, (e.2.desc.kind = 0 ∨ e.2.desc.kind = 3 ∧ e.1 = o) ∧ 2 ≤ e.2.desc.dir ∧ e.2.desc.res = h % 16 ∧
      s'.descOk (s'.spBytes t e.1 128) e.2 e.2.desc.kind e.1 = true
    let fits (r : Resv) := formatsFit (h / 2 ^ 4 % 16) r.fmt = true ∧ tileFits r (h / 2 ^ 10 % 16) (h / 2 ^ 14 % 2 ^ 18) = true ∧
      ∀ l, (s.group g).latch = some l → l.fmt = h / 2 ^ 4 % 16
    -- the checks
    (¬quiet → waits .scoreboard s') ∧
    (quiet → ∀ e, inside.find? (fun e => window e.2.desc.gbase == .none) = some e → traps 0x10 e.2.desc.gbase) ∧
    (quiet → windowed → dof % 512 ≠ 0 → traps 0x11 (at_ dof)) ∧
    (quiet → windowed → dof % 512 = 0 → size < dof + 256 * width → traps 0x13 (at_ dof)) ∧
    (quiet → windowed → dof % 512 = 0 → dof + 256 * width ≤ size → c.2 = true → size < ol + 16 → traps 0x13 (at_ ol)) ∧
    (quiet → windowed → dof % 512 = 0 → dof + 256 * width ≤ size → (c.2 = true → ol + 16 ≤ size) → inside.length < fs.length →
      traps 0x13 (at_ o)) ∧
    (placed → c.2 = true → s'.spBlocked t ol 16 .r = true → waits .scoreboard s') ∧
    (placed → c.2 = true → s'.spBlocked t ol 16 .r = false → size < ol + 16 + 4 * count → traps 0x13 (at_ ol)) ∧
    (listed → resv = none ∨ ¬named → traps 0x18 0) ∧
    (listed → resv ≠ none → named → ¬fetches → traps 0x19 (at_ o)) ∧
    (listed → ∀ r, resv = some r → named → fetches → ¬fits r → traps 0x1B 0) ∧
    -- the acceptance
    (listed → ∀ r, resv = some r → named → fetches → fits r →
      let room := s'.jobRoom k js.length = true ∧ s'.roomFor t k (js.flatMap s'.jobIvals) = true
      let ready := s'.drainReady lane0 = true
      let share := s'.hasBudget (s.team t).ctx 2 (k / 96) = true
      (fs ≠ [] → ¬room → waits .scoreboard s') ∧
      (fs ≠ [] → room → ¬ready → waits .sideLog s') ∧
      (fs ≠ [] → room → ready → ¬share → waits .budget s') ∧
      (fs = [] ∨ room ∧ ready ∧ share →
        let fetched := ((((s'.drainWc lane0).enter t k (js.flatMap s'.jobIvals)).onCore k fun y => { y with jobs := y.jobs ++ js }).onGroup g
          fun y => { y with fetch := some ⟨s.serial, false⟩ })
        let u := if fs = [] then s' else { fetched with serial := s.serial + 1 + fs.length }
        let n := ((s.group g).fetch.map (·.serial)).getD s.serial
        let rows := match (s.group g).latch with
          | some l => l.rows
          | none => (List.range width).map fun i => (List.range 32).map fun j => (u.thread (lane0 + i)).regs.get (a.toNat + j) 0
        let x : Mm := { serial := n, team := t, group := g, outlier := c.2, dof := dof, res := h % 16, afmt := h / 2 ^ 4 % 16,
                        noff := h / 2 ^ 10 % 16, koff := h / 2 ^ 14 % 2 ^ 18, olist := ol, count := count, rows := rows, started := false,
                        abandoned := (s.group g).fetch.any (·.stopped) }
        let ivals : List Interval :=
          [State.ival (.sp t) (dof, dof + 256 * width) .acc n k, State.ival (.res t (h % 16)) (bSpan r x.noff x.koff) .r n k]
            ++ (if c.2 then [State.ival (.sp t) (ol, ol + 16 + 4 * count) .r n k] else [])
        let accepted := ((u.enter t k ivals).onCore k fun y => { y with mms := y.mms ++ [x] }).onGroup g fun y => { y with
          latch := if m then some ⟨x.afmt, rows⟩ else none, mms := y.mms ++ [n], fetch := none }
        (4 ≤ (u.core k).mms.length ∨ u.roomFor t k ivals = false → waits .scoreboard u) ∧
        ((u.core k).mms.length < 4 → u.roomFor t k ivals = true →
          exec c.1 s = goOn s c.1 { accepted with serial := u.serial + 1 })))

/-! ## Futures, counters, triggers, starts, spawns and enqueues -/

/-- An address in the global window at a multiple of an alignment (R94, R95). -/
abbrev GlobalAt (a : W64) (align : Nat) : Prop := a.toNat < 2 ^ 57 ∧ a.toNat % align = 0

/-- R81, R83, R84, R275, R378, R379, R380: futures in the root view. Once the translations of F's page and of X's have passed, `fread` of a full
future files its value, with no access to X and no charge at X's home; of another it links its block into the list and files no value;
every trap of either page comes before a wait for one. `fwrite` fills a future that is not full, and detaches the list of one that is
waited for. -/
def Obligations.Futures : Prop :=
  ∀ (s : State) (d a b : Reg) (m : Bool), s.curView = 0 →
    let c := s.curCtx
    (Ready s (pair d ++ pair a ++ [.reg (a.toNat + 2), .reg (a.toNat + 3)] ++ preds [b] false) →
      let f := s.vd a
      let x := s.vdn (a.toNat + 2)
      GlobalAt f 8 → GlobalAt x 128 →
      (∀ cause at_, s.pageTrap f .write = some (cause, at_) → exec (.fread d a b) s = .next (s.raise cause at_ 0)) ∧
      (s.pageTrap f .write = none →
        (∀ cause at_, s.pageTrap x .write = some (cause, at_) → exec (.fread d a b) s = .next (s.raise cause at_ 0)) ∧
        (s.pageTrap x .write = none → ∀ pf s1 s1', s.normalPage f .write = .ok pf s1 → s1.hbm pf.1 8 = some s1' →
          let old := leNat (s1'.pageRead c pf.2.prot pf.1 8)
          let filed (t : State) (y : Nat) (full : Bool) : Host.Outcome State Fault Refusal :=
            .next (t.later [(d.toNat, BitVec.ofNat 32 y), (d.toNat + 1, BitVec.ofNat 32 (y / 2 ^ 32))] [(b.toNat, full)])
          (old / 2 ^ 62 = 3 → exec (.fread d a b) s = .next (s1'.raise 0x1C f 0)) ∧
          (∀ px s2, s1'.normalPage x .write = .ok px s2 →
            (old / 2 ^ 62 = 1 → exec (.fread d a b) s = filed s2 (old % 2 ^ 62) true) ∧
            ∀ s3, s2.hbm px.1 8 = some s3 →
              let linked (next : Nat) : State :=
                (s3.writeView c 0 px.2.prot px.1 (natLe 8 next)).writeView c 0 pf.2.prot pf.1 (natLe 8 (2 ^ 63 + x.toNat))
              (old / 2 ^ 62 = 0 → exec (.fread d a b) s = filed (linked 0) 0 false) ∧
              (old / 2 ^ 62 = 2 → exec (.fread d a b) s = filed (linked (old % 2 ^ 62)) 0 false))))) ∧
    (Ready s (preds [d] m ++ pair a ++ pair b) → GlobalAt (s.vd a) 8 → ∀ pf s1,
      s.devPage c (s.vd a).toNat 8 .write 0 s.curCore true = .ok pf s1 →
      let old := leNat (s1.pageRead c pf.2.prot pf.1 8)
      let v := (s.vd b).toNat % 2 ^ 62
      let full := s1.writeView c 0 pf.2.prot pf.1 (natLe 8 (2 ^ 62 + v))
      let done (t : State) (ok : Bool) : Host.Outcome State Fault Refusal :=
        .next (t.markExternal.later [] [(d.toNat + (if m then 64 else 0), ok)])
      (old / 2 ^ 62 = 0 → exec (.fwrite d a b m) s = done full true) ∧
      (old / 2 ^ 62 = 1 → exec (.fwrite d a b m) s = done s1 false) ∧
      (old / 2 ^ 62 = 2 → exec (.fwrite d a b m) s = done (full.onCtx c fun y => { y with walks := y.walks ++
        [⟨BitVec.ofNat 64 (old % 2 ^ 62), BitVec.ofNat 64 v, s.curCore / 96, s.curCore⟩] }) true) ∧
      (old / 2 ^ 62 = 3 → exec (.fwrite d a b m) s = .next (s1.raise 0x1C (s.vd a) 0)))

/-- R225 to R227, R346, R361, R370: counters and triggers in the root view. `arm` on a counter below its threshold keeps a trigger under the
lowest free id, `disarm` removes an armed one, and `cinc` adds to the counter; with no threshold crossed it does nothing else. R116, R137: the
action is read after the thread's earlier accesses, with its own waiting stores to a write-combining page, and on a strongly ordered one
once these are performed. -/
def Obligations.CountersAndTriggers : Prop :=
  (∀ (s : State) (w : Who) (va n : Nat) (e : Nat × TlbEntry) (s1 : State), s.devPage w.ctx va n .read 0 w.core false = .ok e s1 →
    let bs (t : State) : List Byte := t.pageRead w.ctx e.2.prot e.1 n
    (e.2.type = 0 ∨ e.2.type = 2 → s.whoLoad w va n = .ok (bs s1) s1) ∧
    (e.2.type = 1 → s.whoLoad w va n = .ok (State.overlayWc (s1.thread w.thread).wc e.1 (bs s1)) s1) ∧
    (e.2.type = 3 → s1.drainReady w.thread = true → s.whoLoad w va n = .ok (bs (s1.drainWc w.thread)) (s1.drainWc w.thread)) ∧
    (e.2.type = 3 → s1.drainReady w.thread = false → s.whoLoad w va n = .wait .sideLog s1)) ∧
  ∀ (s : State) (d a b : Reg) (m : Bool), s.curView = 0 →
    let c := s.curCtx
    (Ready s (regs [d] ++ (span a.toNat 6).map Touch.reg ++ preds [b] m) →
      let ctr := s.vd a
      let t := s.vdn (a.toNat + 2)
      let act := s.vdn (a.toNat + 4)
      GlobalAt ctr 8 → GlobalAt act 32 → ∀ e s1 bs s2, s.devPage c ctr.toNat 8 .read 0 s.curCore true = .ok e s1 →
        s1.whoLoad s.who act.toNat 32 = .ok bs s2 →
        let word (k : Nat) : W64 := BitVec.ofNat 64 (leNat ((bs.drop (8 * k)).take 8))
        let x : Trigger := ⟨ctr, e.1, t, word 0, word 1, word 2, word 3, s2.serial⟩
        let out (u : State) (v : W32) (ok : Bool) : Host.Outcome State Fault Refusal :=
          .next ((u.markExternal.setV d v).setP (b.toNat + if m then 64 else 0) ok)
        (s2.freeTrigger c = none → exec (.arm d a b m) s = out s2 0xFFFFFFFF false) ∧
        (∀ id, s2.freeTrigger c = some id →
          (leNat (s2.pageRead c e.2.prot e.1 8) < t.toNat → exec (.arm d a b m) s =
            out (s2.onCtx c fun y => { y with trigs := y.trigs.set id x }).bump (BitVec.ofNat 32 id) true) ∧
          (t.toNat ≤ leNat (s2.pageRead c e.2.prot e.1 8) → exec (.arm d a b m) s =
            out (s2.bump.fireTrigger c (e.1 / 2 ^ 36) x) (BitVec.ofNat 32 id) true))) ∧
    (Ready s (preds [d] false ++ regs [a]) →
      let id := (s.v a).toNat
      ((s.ctx c).trigs.find? id = none → exec (.disarm d a) s = .next (s.markExternal.setP d.toNat false)) ∧
      (∀ x e s1, (s.ctx c).trigs.find? id = some x → s.devPage c x.ctr.toNat 8 .read 0 s.curCore false = .ok e s1 →
        exec (.disarm d a) s =
          .next ((s1.onCtx c fun y => { y with trigs := y.trigs.erase id }).markExternal.setP d.toNat true))) ∧
    (Ready s (pair a ++ regs [b]) → GlobalAt (s.vd a) 8 → ∀ key leaf s1 s2,
      s.markExternal.xlatThread (s.vd a).toNat .write = (.ok key leaf, s1) → leaf.type = 0 → s1.hbm key 8 = some s2 →
      let old := leNat (s2.pageRead c leaf.prot key 8)
      exec (.cinc a b) s = .next (s2.cincAt s2.who key leaf.prot (s.vd a) (s.v b)) ∧
      (old + (s.v b).toNat < 2 ^ 64 → s2.satisfied c key old (old + (s.v b).toNat) = [] →
        exec (.cinc a b) s = .next (s2.writeView c 0 leaf.prot key (natLe 8 (old + (s.v b).toNat)))))

/-- R86, R87, R220, R221, R223, R367, R443 to R445, R451: starts, spawns and remote enqueues in the root view. A start whose header names a processor that
serves the context joins that processor's queue; a spawned record is accepted at the issuing die; an enqueue goes by its station
into its session's slots, back into the context, or, where the station is not valid, into an error record and the ack word; one that
can leave at once is on the wire, and its thread waits until it has left. Each of these performs its thread's waiting stores first, and waits
where the side log has no room for them (log 14). An enqueue's pages that are not normal trap before its descriptor, and that before any
wait for a translation (R275, R444). An accepted record becomes its teams, and an invalid one a launch-error record and no team (R65 to
R67). That ADDR of that record names the record's own address is the model's reading (log 33), and so is the numbering of a session's
enqueues, PSN, as they leave, of which R87 says only that the slot is sequenced (log 36). -/
def Obligations.StartsAndEnqueues : Prop :=
  (∀ (s : State) (d a b : Reg) (m : Bool), s.curView = 0 →
    let c := s.curCtx
    let ack := if m then some (s.vd d) else none
    let ready := s.drainReady s.iss.cur = true
    let s0 := s.drainWc s.iss.cur
    (¬ready →
      (Ready s (pair d ++ pair a ++ pair b) → GlobalAt (s.vd d) 8 → GlobalAt (s.vd a) 64 → GlobalAt (s.vd b) 256 →
        exec (.cstart d a b) s = .next (s.park .sideLog)) ∧
      (Ready s (pair a) → GlobalAt (s.vd a) 64 → exec (.spawn a) s = .next (s.park .sideLog))) ∧
    (Ready s (pair d ++ pair a ++ pair b) → GlobalAt (s.vd d) 8 → GlobalAt (s.vd a) 64 → GlobalAt (s.vd b) 256 → ready →
      ((s0.ctx c).starts.any fun q => !q.fired && q.thread == s.iss.cur) = false → ∀ bs s1,
      s0.devLoad c (s.vd a).toNat 8 0 s.curCore false = .ok bs s1 →
      let h := leNat bs
      let p := h / 2 ^ 16 % 32
      h < 2 ^ 21 → s1.serves c p = true → (s1.fab p).queue.length < 256 →
        exec (.cstart d a b) s = .next (s1.onFab p fun f => { f with queue := f.queue ++
          [⟨c, s.vd d, s.vd a, s.vd b, s.iss.cur, s.curCore, false, false, false, BitVec.ofNat 16 h, 0⟩] }).markExternal) ∧
    (Ready s (pair a) → GlobalAt (s.vd a) 64 → ready → ∀ bs s1, s0.devLoad c (s.vd a).toNat 64 0 s.curCore true = .ok bs s1 →
      exec (.spawn a) s = .next (s1.acceptRecord c (s.vd a) bs 1 none (fun _ => s.curCore / 96) s.curCore).markExternal) ∧
    (Ready s ((if m then pair d else []) ++ (span a.toNat 3).map Touch.reg) →
      let r := s.vd a
      let st := (s.vn (a.toNat + 2)).toNat
      GlobalAt r 64 → (m = true → GlobalAt (s.vd d) 8) →
        let pages : List (W64 × Want) := (r, .read) :: ack.toList.map fun x => (x, .write)
        let trap := pages.findSome? fun p => s.pageTrap p.1 p.2
        (s.thr.left = true → exec (.renq d a m) s = .next (s.onThread s.iss.cur fun t => { t with left := false })) ∧
        (s.thr.left = false → s.waitingOut s.iss.cur = none →
          (∀ cause at_, trap = some (cause, at_) → exec (.renq d a m) s = .next (s.raise cause at_ 0)) ∧
          (trap = none → 2 ^ 16 ≤ st → exec (.renq d a m) s = .next (s.raise 0x19 r 0)) ∧
          (trap = none → st < 2 ^ 16 → ∀ s1 s2, s.checkPages pages = .ok () s1 → s1.renqFor s1.who r st ack true = .ok () s2 →
            exec (.renq d a m) s = .next s2.markExternal))) ∧
    (Ready s ((if m then pair d else []) ++ (span a.toNat 8).map Touch.reg) →
      let pay := s.vd a
      let target := s.vdn (a.toNat + 2)
      let r := s.vdn (a.toNat + 4)
      let len := (s.vn (a.toNat + 6)).toNat
      let st := (s.vn (a.toNat + 7)).toNat
      GlobalAt pay 1 → GlobalAt target 1 → GlobalAt r 64 → (m = true → GlobalAt (s.vd d) 8) →
        let pages : List (W64 × Want) := (r, .read) :: State.payloadPages pay len ++ ack.toList.map fun x => (x, .write)
        let trap := pages.findSome? fun p => s.pageTrap p.1 p.2
        let ok := 1 ≤ len ∧ len ≤ 4096 ∧ st < 2 ^ 16
        (s.thr.left = true → exec (.wenq d a m) s = .next (s.onThread s.iss.cur fun t => { t with left := false })) ∧
        (s.thr.left = false → s.waitingOut s.iss.cur = none →
          (∀ cause at_, trap = some (cause, at_) → exec (.wenq d a m) s = .next (s.raise cause at_ 0)) ∧
          (trap = none → ¬ok → exec (.wenq d a m) s = .next (s.raise 0x19 r 0)) ∧
          (trap = none → ok → ∀ s1 s2, s.checkPages pages = .ok () s1 →
            s1.wenqFor s1.who pay target r len st ack true = .ok () s2 → exec (.wenq d a m) s = .next s2.markExternal)))) ∧
  (∀ (s s1 s2 : State) (w : Who) (pay target r : W64) (len st : Nat) (ack : Option W64) (waits : Bool) (bs : List Byte),
    s.checkAck w ack = .ok () s1 →
    (s1.drainReady w.thread = false →
      s.renqFor w r st ack waits = .wait .sideLog s1 ∧ s.wenqFor w pay target r len st ack waits = .wait .sideLog s1) ∧
    (s1.drainReady w.thread = true → (s1.drainWc w.thread).devLoad w.ctx r.toNat 64 0 w.core true = .ok bs s2 →
      s.renqFor w r st ack waits = s2.sendEnqueue w st ack r ⟨bs, [], 0, false, ack.isSome, false, 0⟩ waits ∧
      ∀ data s3, s2.devSpan w.ctx pay.toNat len 0 w.core true = .ok data s3 →
        s.wenqFor w pay target r len st ack waits = s3.sendEnqueue w st ack r ⟨bs, data, target, true, ack.isSome, false, 0⟩ waits)) ∧
  (∀ (s s1 : State) (w : Who) (st : Nat) (ack : Option W64) (r : W64) (msg : Enqueue) (bs : List Byte) (waits : Bool),
    let va := (s.ctx w.ctx).station.toNat / 4096 * 4096 + 4 * st
    va < 2 ^ 57 → s.devLoad w.ctx va 4 0 w.core false = .ok bs s1 →
      let e := leNat bs
      let slot := e % 2 ^ 13
      let fd := e / 2 ^ 13 % 4
      let valid := e / 2 ^ 15 % 2 = 1
      let self := e / 2 ^ 16 % 2 = 1
      let sent := s.sendEnqueue w st ack r msg waits
      let x := s1.session fd slot
      let o : RemoteOut := ⟨s1.serial, w.ctx, w.core, ack, msg, false, if waits then some w.thread else none⟩
      let t := (s1.bump.onSession fd slot fun x => { x with outs := x.outs ++ [o] }).flushOuts fd slot
      let left := (t.session fd slot).outs.any fun q => q.serial == o.serial && q.sent
      (2 ^ 17 ≤ e ∨ (¬ valid ∧ ¬ self) → sent = .ok () ((s1.errorRecord w.ctx 0x04 0x83 0 r w.tag w.core).storeAck w.ctx w.core ack 0x83)) ∧
      (e < 2 ^ 17 → self → sent = .ok () (s1.loopEnqueue w.ctx w.core ack msg)) ∧
      (e < 2 ^ 17 → ¬ self → valid →
        (left = true → sent = .ok () (if waits then t.onThread w.thread fun h => { h with left := false } else t)) ∧
        (left = false → ∃ v, sent = .wait v (if waits then t.onTeam (State.teamOf w.thread) fun y => { y with external := true }
          else t.onSession fd slot fun x => { x with outs := x.outs.filter fun q => q.serial != o.serial })) ∧
        (∀ k, x.key = some k → x.failed = false → s1.keySpent k = false → (∀ q ∈ x.outs, q.sent = true) → x.outs.length < 64 →
          s1.upPorts fd slot ≠ [] → s1.hasBudget w.ctx 3 (8 * fd + slot / 1024) = true →
          left = true ∧ ∃ n, ∃ port ∈ s1.upPorts fd slot,
            t.wire = s1.wire ++ [.sealed fd slot k.epoch n port
              (.enqueue s1.serial { msg with psn := x.enqNext, keyBit := decide (k.epoch % 2 = 1) })]))) ∧
  (∀ (s : State) (c : Nat) (addr : W64) (bs : List Byte) (origin : Nat) (prio : Option Nat) (die : Nat → Nat) (source : Nat),
    let w (off n : Nat) := leNat ((bs.drop off).take n)
    let ext (i : Nat) := max 1 (w (44 + 4 * i) 4)
    let n := ext 0 * ext 1 * ext 2
    let t := s.acceptRecord c addr bs origin prio die source
    (w 0 8 % 12 ≠ 0 ∨ 2 ^ 32 ≤ n ∨ 2 ^ 57 ≤ w 8 8 ∨ (w 28 8 ≠ 0 ∧ (2 ^ 57 ≤ w 28 8 ∨ w 28 8 % 128 ≠ 0)) →
      t = s.errorRecord c 0x01 0 0 addr (w 60 2) source) ∧
    (recordValid bs = true → { t with teams := s.teams, serial := s.serial } = s ∧ t.serial = s.serial + n ∧
      (∀ k, (k < s.serial ∨ s.serial + n ≤ k) → t.team k = s.team k) ∧
      ∀ k < n, let y := t.team (s.serial + k)
        y.ctx = c ∧ y.die = die k ∧ y.phase = .waiting ∧ y.record.entry.toNat = w 0 8 ∧ y.record.args.toNat = w 8 8 ∧
          y.record.ctxtag = BitVec.ofNat 32 c ∧ y.record.origin = origin ∧ y.tx = BitVec.ofNat 32 (w 16 4 + k % ext 0) ∧
          y.ty = BitVec.ofNat 32 (w 20 4 + k / ext 0 % ext 1) ∧ y.tz = BitVec.ofNat 32 (w 24 4 + k / (ext 0 * ext 1))))

/-- What queueing an operation in the current view's outbox leaves, where there is room for it and budget for its cell, whose granule is
tagged for a protected context (R90, R155, R166, R307). -/
def Queues (s : State) (op : OutOp) (t : State) : Prop :=
  let c := s.curCtx
  let cell := s.nextCell c
  (s.view c s.curView).outbox.length < 1024 ∧ s.usedCells c < s.poolCells c ∧
  ∃ u, s.memTurn c (physKey (s.ctxDies c) cell) 128 = some u ∧
    let w := u.view c u.curView
    t = (u.tagRegion c cell 2).setView c u.curView { w with outbox := w.outbox ++ [op] }

/-- R155 to R157: in a world a store to a page that is not normal, or is shared by the world, and every operation on the outside, waits in the
view's outbox with the values of its operands; the results of the operations read as done. That `fwrite` checks its future's page as
it is queued is the model's reading (log 34). -/
def Obligations.QueuedOperations : Prop :=
  (∀ (s : State) (d a : Reg) (imm : BitVec 7),
    ∀ c ∈ [(1, Instr.stB d a imm), (2, .stH d a imm), (4, .st d a imm), (8, .stD d a imm)],
      Ready s (dataTouch d c.1 ++ pair a) →
      let va := (s.vd a + imm.signExtend 64 * BitVec.ofNat 64 c.1).toNat
      va < 2 ^ 57 → va % c.1 = 0 → ∀ key leaf s',
        s.xlatThread va .write = (.ok key leaf, s') → s'.curView ≠ 0 → (leaf.type ≠ 0 ∨ leaf.wshared = true) →
        (∀ t, Queues s' (.store (BitVec.ofNat 64 va) (storeData s d c.1)) t → exec c.2 s = .next t)) ∧
  (∀ (s : State) (d a b : Reg) (m : Bool), s.curView ≠ 0 → ∀ t : State,
    let queued (op : OutOp) : Prop := Queues s.markExternal op t
    let half (r : Reg) : Nat := r.toNat + if m then 64 else 0
    (Ready s (pair a ++ regs [b]) → GlobalAt (s.vd a) 8 → queued (.cinc (s.vd a) (s.v b)) → exec (.cinc a b) s = .next t) ∧
    (Ready s (pair d ++ pair a ++ pair b) → GlobalAt (s.vd d) 8 → GlobalAt (s.vd a) 64 → GlobalAt (s.vd b) 256 →
      queued (.cstart (s.vd d) (s.vd a) (s.vd b)) → exec (.cstart d a b) s = .next t) ∧
    (Ready s (pair a) → GlobalAt (s.vd a) 64 → queued (.spawn (s.vd a)) → exec (.spawn a) s = .next t) ∧
    (Ready s (regs [d] ++ (span a.toNat 6).map Touch.reg ++ preds [b] m) → GlobalAt (s.vd a) 8 → GlobalAt (s.vdn (a.toNat + 4)) 32 →
      queued (.arm (s.vd a) (s.vdn (a.toNat + 2)) (s.vdn (a.toNat + 4))) →
      exec (.arm d a b m) s = .next ((t.setV d 0xFFFFFFFF).setP (half b) true)) ∧
    (Ready s (preds [d] false ++ regs [a]) → queued (.disarm (s.v a).toNat) → exec (.disarm d a) s = .next (t.setP d.toNat true)) ∧
    (Ready s (preds [d] m ++ pair a ++ pair b) → GlobalAt (s.vd a) 8 →
      ∀ pf s', s.normalPage (s.vd a) .write = .ok pf s' →
        (pf.2.wshared = true → exec (.fwrite d a b m) s = .next (s'.raise 0x15 (s.vd a) 0)) ∧
        (pf.2.wshared = false → Queues s' (.fwrite (s.vd a) (s.vd b)) t →
          exec (.fwrite d a b m) s = .next (t.markExternal.later [] [(half d, true)]))) ∧
    (let ack := if m then some (s.vd d) else none
     (m = true → GlobalAt (s.vd d) 8) →
      (Ready s ((if m then pair d else []) ++ (span a.toNat 3).map Touch.reg) → GlobalAt (s.vd a) 64 →
        (s.vn (a.toNat + 2)).toNat < 2 ^ 16 → queued (.renq (s.vd a) (s.vn (a.toNat + 2)).toNat ack) →
        exec (.renq d a m) s = .next t) ∧
      (Ready s ((if m then pair d else []) ++ (span a.toNat 8).map Touch.reg) → GlobalAt (s.vd a) 1 →
        GlobalAt (s.vdn (a.toNat + 2)) 1 → GlobalAt (s.vdn (a.toNat + 4)) 64 → 1 ≤ (s.vn (a.toNat + 6)).toNat →
        (s.vn (a.toNat + 6)).toNat ≤ 4096 → (s.vn (a.toNat + 7)).toNat < 2 ^ 16 →
        queued (.wenq (s.vd a) (s.vdn (a.toNat + 2)) (s.vdn (a.toNat + 4)) (s.vn (a.toNat + 6)).toNat (s.vn (a.toNat + 7)).toNat ack) →
        exec (.wenq d a m) s = .next t)))

/-- R136, R137, R362, R374, R418, R436: `lit` files the word at its address as a fetch reads it; `pref` changes nothing; `clean` writes a dirty private
line back; a fence waits for the engine work of its thread and group, for the thread's write-combining stores, or for both. -/
def Obligations.HintsAndFences : Prop :=
  (∀ (s : State) (d a : Reg) (imm : BitVec 7) (imm13 : BitVec 13),
    (Ready s (regs [d]) → ∀ w s', s.fetchWord ((s.iss.word + imm13.signExtend 64 * 4) &&& 0x1FFFFFFFFFFFFFF) = .ok w s' →
      exec (.lit d imm13) s = .next (s'.later [(d.toNat, w)] [])) ∧
    (Ready s (pair a) →
      exec (.pref a imm) s = .next s ∧
      (∀ off < 2 ^ 16, s.vd a = BitVec.ofNat 64 (0xFD * 2 ^ 56 + off) →
        exec (.clean a) s = .next (s.writeBackLine s.curTeam (s.privVa s.iss.cur off / 64))) ∧
      ((s.vd a).toNat < 2 ^ 57 → exec (.clean a) s = .next s) ∧
      (∀ off < 2 ^ 24, s.vd a = BitVec.ofNat 64 (0xFE * 2 ^ 56 + off) → exec (.clean a) s = .next s) ∧
      (window (s.vd a) = .none → exec (.clean a) s = .next (s.raise 0x10 (s.vd a) 0)))) ∧
  (∀ (s : State), s.thr.live = true →
    let engines := (∃ j ∈ s.jobsOf s.curTeam, j.thread = s.iss.cur ∧ j.cloneOf = none) ∨ (s.group (s.groupOf s.iss.cur)).mms ≠ []
    let stores := s.thr.wc ≠ []
    let waits : Host.Outcome State Fault Refusal := .next (s.park .fence)
    (¬ engines → ¬ stores → exec .fence s = .next s) ∧ (engines ∨ stores → exec .fence s = waits) ∧
    (¬ engines → exec .fenceE s = .next s) ∧ (engines → exec .fenceE s = waits) ∧
    (¬ stores → exec .fenceW s = .next s) ∧ (stores → exec .fenceW s = waits))

/-! ## Akpor -/

/-- The slot in the issue position goes on to its next instruction with these values. -/
def slotGoesOn (s : State) (y : FSlot) : Host.Outcome State Fault Refusal :=
  .next (State.fxSettle (.ok true (s.setFSlot s.iss.proc s.iss.slot y)))

/-- The state after an array instruction's unit of work: the slot goes on when that was the last, and else stays (R382). -/
def unitDone (last : Bool) (s : State) : Host.Outcome State Fault Refusal := .next (State.fxSettle (.ok last s))

/-- The collective in the issue position ends with a status (R388). -/
def slotEnds (s : State) (status : Nat) : Host.Outcome State Fault Refusal := .next (s.beginEnd s.iss.proc s.iss.slot status)

/-- R217, R382: what it means that a slot goes on, or stays for the next unit: its program counter and progress, and nothing else. -/
def Obligations.SlotGoesOn : Prop :=
  ∀ (s : State) (x : FSlot), SlotReady s x →
    let p := s.iss.proc
    let i := s.iss.slot
    ∀ last : Bool, ∀ t, unitDone last s = .next t →
      t.fslot p i = some (if last then { x with pc := s.iss.fnext, prog := 0, wait := .ready, waited := .ready, waitCount := 0 }
        else { x with prog := x.prog + 1, wait := .ready, waited := .ready, waitCount := 0 }) ∧
      (∀ q j, ¬ (q = p ∧ j = i) → t.fslot q j = s.fslot q j) ∧ { t with fabs := s.fabs } = s ∧
      (∀ q, { t.fab q with slots := (s.fab q).slots } = s.fab q)

/-- R217, R332, R384 to R388, R390, R391, R393 to R395, R397, R401, R402, R405: the scalar Akpor instructions and transfers, those that set a slot's fields,
`fx.match`, and `fx.resid` that clears; f0 reads as zero and discards writes, and a transfer past LEN or an operand out of range ends
the collective with status 4. R224, R253, R388: the end of a collective withdraws its open receives and closes their keys, waits for its
retained sends where the status is 0, releases its residual objects, writes bytes 4 to 255 of the completion record and then DONE, and
frees the slot. -/
def Obligations.AkporScalars : Prop :=
  (∀ (s : State) (x : FSlot) (h sgn : Bool) (d a b : FReg) (imm target : W32) (cc : FxCond), SlotReady s x →
    let f (r : FReg) : W64 := if r = 0 then 0 else x.regs.get r.toNat 0
    let put (v : W64) := slotGoesOn s (if d = 0 then x else { x with regs := x.regs.set d.toNat v })
    let lo (v : W64) : W32 := v.truncate 32
    let hi (v : W64) : W32 := (v >>> 32).truncate 32
    let pair (l u : W32) : W64 := BitVec.ofNat 64 (l.toNat + 2 ^ 32 * u.toNat)
    let sum (u v : W32) : W32 := BitVec.ofNat 32 (fAdd fp32 .rne u.toNat v.toNat)
    let goto (t : State) : Host.Outcome State Fault Refusal :=
      if target.toNat < s.fxLen s.iss.proc x then unitDone true { t with iss := { t.iss with fnext := target.toNat } }
      else slotEnds t 4
    let below := if sgn then decide ((f a).toInt < (f b).toInt) else decide ((f a).toNat < (f b).toNat)
    let v := f a - 1
    let counted := s.setFSlot s.iss.proc s.iss.slot (if a = 0 then x else { x with regs := x.regs.set a.toNat v })
    exec (.fxLi h d a imm) s = put (if h then pair (lo (f a)) imm else f a + imm.signExtend 64) ∧
    exec (.fxAdd .int d a b) s = put (f a + f b) ∧
    exec (.fxAdd .half d a b) s = put (pair (sum (lo (f a)) (hi (f b))) 0) ∧
    exec (.fxAdd .pair d a b) s = put (pair (sum (lo (f a)) (lo (f b))) (sum (hi (f a)) (hi (f b)))) ∧
    exec (.fxCmp sgn a b) s = slotGoesOn s { x with cc := if f a = f b then 0 else if below then 1 else 2 } ∧
    exec (.fxBr target) s = goto s ∧
    exec (.fxBcc cc target) s = (if fxHolds cc x.cc then goto s else unitDone true s) ∧
    exec (.fxLoop a target) s = (if v = 0 then unitDone true counted else goto counted) ∧
    exec .fxEnd s = slotEnds s 0) ∧
  (∀ (s : State) (x : FSlot) (off clr : Bool) (d a b : FReg) (j : BitVec 3) (imm : W32), SlotReady s x →
    let f (r : FReg) : W64 := if r = 0 then 0 else x.regs.get r.toNat 0
    let put (y : FSlot) (v : W64) := slotGoesOn s (if d = 0 then y else { y with regs := y.regs.set d.toNat v })
    let v : Nat := ((f a).toNat + imm.toNat) % 2 ^ 64
    let wps : Tab W32 := if clr then [] else x.wps
    let nwp := if clr then 0 else x.nwp
    exec (.fxDeadline a imm) s = (if v ≤ 60000000 then slotGoesOn s { x with deadline := v } else slotEnds s 4) ∧
    exec (.fxQuorum off) s = slotGoesOn s { x with quorum := !off } ∧
    exec (.fxHist off) s = slotGoesOn s { x with histOn := !off } ∧
    exec (.fxScale a imm) s = (if v ≤ 254 then slotGoesOn s { x with scale := BitVec.ofNat 8 v } else slotEnds s 4) ∧
    exec (.fxItin j clr a imm) s =
      slotGoesOn s { x with wps := wps.set j.toNat (BitVec.ofNat 32 v), nwp := max nwp (j.toNat + 1) } ∧
    (v < 2 ^ 23 → ∀ c, PayCode.ofNat? (v / 2 ^ 20) = some c → exec (.fxStep a imm) s = slotGoesOn s
      { x with bucket := BitVec.ofNat 16 (v % 2 ^ 16), step := BitVec.ofNat 4 (v / 2 ^ 16 % 16), code := c }) ∧
    (2 ^ 23 ≤ v ∨ PayCode.ofNat? (v / 2 ^ 20) = none → exec (.fxStep a imm) s = slotEnds s 4) ∧
    exec (.fxMatch d b) s = put x (BitVec.ofNat 64 ((s.ctx x.ctx).held.countP fun h => h.proc == s.iss.proc &&
      decide (h.packet.coll = x.coll ∧ h.packet.bucket = x.bucket ∧ h.wp.toNat / 2 ^ 20 % 16 = x.step.toNat ∧
        h.packet.src.toNat = (f b).toNat % 2 ^ 16))) ∧
    exec (.fxResid true d 0 0) s = put { x with resid := none } 0) ∧
  (∀ (s : State) (p i st : Nat) (x y : FSlot), s.fslot p i = some x →
    let keys := (x.recvs.filter fun r => r.openR && !r.met).map (State.recvKey x.ctx)
    let v0 := keys.foldl (fun u k => u.closeKey x.ctx p k) (s.setFSlot p i { x with recvs := [] })
    let v1 := if st = 0 then v0 else v0.onFab p fun f =>
      { f with retained := f.retained.filter fun r => r.slot != i || r.folding.isSome }
    let v2 := v1.setFSlot p i { y with ending := some st }
    v1.fslot p i = some y → (∀ r ∈ (v1.fab p).retained, r.slot = i → r.folding = none) →
      (st = 0 → (∃ r ∈ (v1.fab p).retained, r.slot = i) → s.beginEnd p i st = v2.waitFSlot p i .send) ∧
      ((∀ r ∈ (v1.fab p).retained, r.slot ≠ i) → s.beginEnd p i st = v2.closeSlot p i st { y with ending := some st })) ∧
  (∀ (s : State) (p i st : Nat) (x : FSlot) (v t : State) (e : Nat × TlbEntry),
    s.newRequest.releaseObjs p i x.ctx x.objs = .ok () v → v.devPage x.ctx x.comp.toNat 256 .write 4 p false = .ok e t →
      let done := leNat (t.pageRead x.ctx e.2.prot e.1 4)
      let body := natLe 2 st ++ natLe 2 x.flags.toNat ++ natLe 4 x.contrib.toNat ++ natLe 4 x.omits.toNat ++ natLe 48 0 ++
        (List.range 40).flatMap (fun b => natLe 4 (x.hist.get b 0).toNat) ++ natLe 32 0
      s.closeSlot p i st x =
        ((t.writeView x.ctx 0 e.2.prot (e.1 + 4) body).writeView x.ctx 0 e.2.prot e.1 (natLe 4 (done + 1))).freeFSlot p i) ∧
  (∀ (s : State) (p i c : Nat), s.releaseObjs p i c [] = .ok () s ∧
    ∀ (o : HeldObj) (os : List HeldObj) ps t, s.fabSpan c p (s.residVa c o.id) 16 16 .write = .ok ps t →
      let held := leNat (t.readParts c ps)
      s.releaseObjs p i c (o :: os) = State.releaseObjs ((t.writeParts c (natLe 16 (putBits held 97 1 0)) ps).onFSlot p i fun x =>
        { x with objs := os }) p i c os) ∧
  ∀ (s : State) (p i j : Nat), (s.freeFSlot p i).fslot p i = none ∧ (j ≠ i → (s.freeFSlot p i).fslot p j = s.fslot p j)

/-- R382, R392: loads and stores of a slot: the bytes of the translated span, zero-extended into the register, or the register's low
bytes into the span; a span outside the global window or misaligned ends the collective with status 8. -/
def Obligations.AkporLoadsAndStores : Prop :=
  ∀ (s : State) (x : FSlot) (d a : FReg) (imm : W32), SlotReady s x →
    let f (r : FReg) : W64 := if r = 0 then 0 else x.regs.get r.toNat 0
    let va := (f a + imm.signExtend 64).toNat
    let p := s.iss.proc
    ∀ c ∈ [(FxWidth.b, 1), (.h, 2), (.w, 4), (.d, 8)],
      (∀ ps t, s.fabSpan x.ctx p va c.2 c.2 .read = .ok ps t → t.iss = s.iss → ∀ y, SlotReady t y →
        exec (.fxLd c.1 d a imm) s = slotGoesOn t (if d = 0 then y else
          { y with regs := y.regs.set d.toNat (BitVec.ofNat 64 (leNat (t.readParts x.ctx ps))) })) ∧
      (∀ ps t, s.fabSpan x.ctx p va c.2 c.2 .write = .ok ps t →
        exec (.fxSt c.1 d a imm) s = unitDone true (t.writeParts x.ctx (natLe c.2 (f d).toNat) ps)) ∧
      (2 ^ 57 < va + c.2 ∨ va % c.2 ≠ 0 →
        exec (.fxLd c.1 d a imm) s = slotEnds s 8 ∧ exec (.fxSt c.1 d a imm) s = slotEnds s 8)

/-- R189, R191, R192, R224, R257, R396, R400, R406: one block of a packing instruction in its three codes, one block of `fx.unpack`, and one
batch of `fx.red`; an invalid ternary code leaves an error record and a flag. That each invalid block leaves one record is the model's
choice (log 33). -/
def Obligations.AkporArrays : Prop :=
  (∀ (s : State) (x : FSlot) (d a b : FReg), SlotReady s x →
    ∀ c ∈ [(Instr.fxPack1 d a b, PayCode.s1), (.fxPack3 d a b, .t3), (.fxPackq d a b, .q8)],
      let n := (x.f b).toNat
      let k := x.prog
      let p := s.iss.proc
      ∀ base, x.region n = some base → n % 32 = 0 → 32 ≤ n → n ≤ 2 ^ 30 → (x.f a).toNat % 4 = 0 → (x.f d).toNat % 64 = 0 →
        ∀ pg s1 pr s2 pi s3, s.fabSpan x.ctx p ((x.f a).toNat + 128 * k) 128 1 .read = .ok pg s1 →
          s1.fabSpan x.ctx p (base + 128 * k) 128 1 .write = .ok pr s2 →
          s2.fabSpan x.ctx p ((x.f d).toNat + blockAt c.2 k) (c.2.blockBytes + slotTail c.2 k) 1 .write = .ok pi s3 →
          let v := ((bytesWords (s3.readParts x.ctx pg)).zip (bytesWords (s3.readParts x.ctx pr))).map fun e =>
            BitVec.ofNat 32 (fAdd fp32 .rne e.1.toNat e.2.toNat)
          let code := encodeBlock c.2 x.scale v
          let left := (v.zip (decodeValues c.2 x.scale code)).map fun e => diffRne (valueOf e.1) e.2
          let t := (s3.writeParts x.ctx (wordsBytes left) pr).writeParts x.ctx (code ++ natLe (slotTail c.2 k) 0) pi
          exec c.1 s = unitDone (decide (n ≤ 32 * (k + 1)))
            (if c.2 = .q8 ∧ v.any (qClips x.scale) = true then t.onCur fun y => { y with flags := y.flags ||| 1 } else t)) ∧
  (∀ (s : State) (x : FSlot) (code : PayCode) (nh : Bool) (d a b : FReg), SlotReady s x →
    let k := x.prog
    let p := s.iss.proc
    (∀ n, n = (x.f b).toNat → 1 ≤ n → n % 32 = 0 → (x.f a).toNat % 64 = 0 → (x.f d).toNat % 4 = 0 →
      ∀ pi s1 po s2, s.fabSpan x.ctx p ((x.f a).toNat + blockAt code k) code.blockBytes 1 .read = .ok pi s1 →
        s1.fabSpan x.ctx p ((x.f d).toNat + 128 * k) 128 1 .write = .ok po s2 →
        let bs := s2.readParts x.ctx pi
        let t := if blockInvalid code bs then
            (s2.errorRecord x.ctx 0x08 0 0 (x.f a) x.coll.toNat p).onCur fun y => { y with flags := y.flags ||| 16 }
          else s2
        exec (.fxUnpack code d a b) s =
          unitDone (decide (n ≤ 32 * (k + 1))) (t.writeParts x.ctx (wordsBytes (decodeBlock code x.scale bs)) po)) ∧
    (∀ n, n = (x.f d).toNat → 1 ≤ n → n ≤ 2 ^ 30 → (x.f a).toNat % 4 = 0 → (x.f b).toNat % 4 = 0 →
      ∀ pa s1 pb s2, s.fabSpan x.ctx p ((x.f a).toNat + 256 * k) (4 * min 64 (n - 64 * k)) 1 .write = .ok pa s1 →
        s1.fabSpan x.ctx p ((x.f b).toNat + 256 * k) (4 * min 64 (n - 64 * k)) 1 .read = .ok pb s2 →
        let sums := ((bytesWords (s2.readParts x.ctx pa)).zip (bytesWords (s2.readParts x.ctx pb))).map fun e =>
          BitVec.ofNat 32 (fAdd fp32 .rne e.1.toNat e.2.toNat)
        exec (.fxRed nh d a b) s = unitDone (decide (n ≤ 64 * (k + 1)))
          ((s2.writeParts x.ctx (wordsBytes sums) pa).onCur fun y => y.countSums (!nh) sums)))

/-- The slot in the issue position waits (R291, R382). -/
def slotWaits (s : State) (w : SlotWait) : Host.Outcome State Fault Refusal := .next (s.waitFSlot s.iss.proc s.iss.slot w)

/-- What an instruction does with one packet of its slot, formed in a state t (R233, R234, R241, R247, R248, R403): it goes to the station of
its first waypoint, over that station's session or, as an arrival, to a processor of the module. A station that is neither, or whose
session cannot send, ends the collective with status 6, an entry outside the global window with status 8, and a spent share makes the
slot wait. A packet that adds is retained with its residual. -/
def Sends (s : State) (x : FSlot) (i : Instr) (t : State) (pkt : Packet) (residual : Option Nat) (last : Bool) : Prop :=
  let p := s.iss.proc
  let c := x.ctx
  let va := (t.ctx c).station.toNat / 4096 * 4096 + 4 * ((pkt.wps.getD 0 0).toNat % 2 ^ 16)
  (2 ^ 57 ≤ va → exec i s = slotEnds t 8) ∧
  (va < 2 ^ 57 →
    (∀ u, t.xlat c va .read 4 p 0 = (.fatal, u) → exec i s = slotEnds u 5) ∧
    (∀ b u, t.xlat c va .read 4 p 0 = (.hold b, u) → exec i s = slotWaits u .memory) ∧
    (∀ key leaf u, t.xlat c va .read 4 p 0 = (.ok key leaf, u) → u.memTurn c key 4 = none → exec i s = slotWaits u .budget) ∧
    (∀ bs u, Loaded t c va 4 4 p bs u →
      let e := leNat bs
      let slot := e % 2 ^ 13
      let fd := e / 2 ^ 13 % 4
      let valid := e / 2 ^ 15 % 2 = 1
      let self := e / 2 ^ 16 % 2 = 1
      let n := u.serial
      let kept (sess : Option (Nat × Nat)) : State := match residual with
        | none => { u with serial := n + 1 }
        | some at_ => ({ u with serial := n + 1 } : State).onFab p fun f => { f with retained := f.retained ++
            [⟨n, t.iss.slot, sess, BitVec.ofNat 64 (at_ + 4 * (x.prog * x.code.slotElems)), x.code, x.scale, x.prog, pkt.payload, none⟩] }
      (2 ^ 17 ≤ e ∨ (¬valid ∧ ¬self) → exec i s = slotEnds u 6) ∧
      (e < 2 ^ 17 → self → exec i s = unitDone last
        ((((kept none).onFSlot p t.iss.slot fun y => { y with prog := x.prog + 1 }).pumpAll c
          [⟨p, pkt, residual.map fun _ => n⟩]).onFSlot p t.iss.slot fun y => { y with prog := x.prog })) ∧
      (e < 2 ^ 17 → ¬self → valid →
        let y := u.session fd slot
        (y.failed = true ∨ y.en = false → exec i s = slotEnds u 6) ∧
        (y.failed = false → y.en = true →
          (u.hasBudget c 3 p = false → exec i s = slotWaits u .budget) ∧
          (u.hasBudget c 3 p = true →
            let w := (kept (some (fd, slot))).charge c 3 p (State.fabricUnits pkt.payload.length)
            let v := w.sendOn fd slot (.packet n pkt)
            ((∃ k, y.key = some k ∧ u.keySpent k = true ∧ y.next = none) → exec i s = slotEnds v 6) ∧
            (y.key = none → exec i s = unitDone last v ∧ v = w.setSession fd slot { y with pend := y.pend ++ [.packet n pkt] }) ∧
            (∀ k, y.key = some k → u.keySpent k = true ∧ y.next.isSome = true ∨ u.keySpent k = false → exec i s = unitDone last v) ∧
            (∀ k, y.key = some k → u.keySpent k = false → u.upPorts fd slot ≠ [] → ∃ port ∈ u.upPorts fd slot,
              v.wire = u.wire ++ [.sealed fd slot k.epoch (State.gcmNonce k) port
                (.packet n { pkt with keyBit := decide (k.epoch % 2 = 1), psn := n })] ∧
              (v.session fd slot).unacked = y.unacked.filter (fun q => q.1 != n) ++ [(n, pkt)]))))))

/-- R225, R227, R228, R232 to R234, R236, R241, R247, R248, R254, R389, R398, R401, R403, R404, R407: one chunk of `fx.send` and of `fx.gather` is
formed and sent, retained where it adds, and one that is looped back arrives in the module, a packet of the module going on from
station to station; an answer goes over the session of its packet or to the send that is retained. `fx.recv` posts a receive that takes
what is held for it, `fx.wait` answers whether the step's receives are met, or waits while one is open, but where the collective runs
without quorum and the session to the sender of one has failed, for it then ends with status 6; `fx.resid` binds an object, and
`fx.sig` adds to a counter, firing its triggers in their order. The model's own readings here: what becomes of a forwarded packet
whose session cannot send (log 36), the chunk number above 65,535 (log 51), and the charge of a send to the collective's own
processor (log 16). -/
def Obligations.AkporMessages : Prop :=
  (∀ (s : State) (x : FSlot) (a b : FReg), SlotReady s x →
    let n := (x.f b).toNat
    let p := s.iss.proc
    let k := x.prog
    let wps := (List.range 8).map fun j => x.wps.get j 0
    let act (w : W32) : Nat := w.toNat / 2 ^ 16 % 16
    let counted := n % 32 = 0 ∧ 32 ≤ n ∧ n ≤ 2 ^ 30
    let routed := 1 ≤ x.nwp ∧ ∀ w ∈ wps, act w ≤ 5 ∧ w.toNat < 2 ^ 25
    let adds := ∃ w ∈ wps.take x.nwp, act w = 1 ∨ act w = 2
    let packet (payload : List Byte) : Packet :=
      { coll := x.coll, bucket := x.bucket, chunk := BitVec.ofNat 16 k, src := x.station, nwp := BitVec.ofNat 8 x.nwp,
        code := BitVec.ofNat 8 x.code.toNat, len := BitVec.ofNat 16 payload.length, wps := wps, tail := 0, payload := payload,
        unsupported := false, keyBit := false, psn := 0 }
    (∀ r, x.region n = some r ↔ ∃ id r0 o, x.resid = some (id, r0) ∧ x.objs.find? (fun o => o.id == id) = some o ∧
      r0 + n ≤ o.nelem ∧ r = o.addr.toNat + 4 * r0) ∧
    (¬counted ∨ ¬routed ∨ act (x.wps.get 0 0) = 5 → exec (.fxSend a b) s = slotEnds s 4) ∧
    (¬counted ∨ ¬routed ∨ act (x.wps.get 0 0) ≠ 5 ∨ 1 < x.code.toNat → exec (.fxGather a b) s = slotEnds s 4) ∧
    (counted → routed →
      (act (x.wps.get 0 0) ≠ 5 →
        (adds → x.region n = none → exec (.fxSend a b) s = slotEnds s 7) ∧
        ((adds → (x.region n).isSome = true) →
          ((x.f a).toNat % 64 ≠ 0 → exec (.fxSend a b) s = slotEnds s 8) ∧
          ((x.f a).toNat % 64 = 0 →
            ∀ ps t, s.fabSpan x.ctx p ((x.f a).toNat + 4096 * k)
              (min x.code.slotBlocks (n / 32 - k * x.code.slotBlocks) * x.code.blockBytes) 1 .read = .ok ps t →
              let last := decide (n / 32 ≤ (k + 1) * x.code.slotBlocks)
              (adds → Sends s x (.fxSend a b) t (packet (t.readParts x.ctx ps)) (x.region n) last) ∧
              (¬adds → Sends s x (.fxSend a b) t (packet (t.readParts x.ctx ps)) none last)))) ∧
      (act (x.wps.get 0 0) = 5 → x.code.toNat ≤ 1 →
        ((x.f a).toNat % 4 ≠ 0 → exec (.fxGather a b) s = slotEnds s 8) ∧
        ((x.f a).toNat % 4 = 0 →
          ∀ ps t, s.fabSpan x.ctx p ((x.f a).toNat + 4 * x.code.slotElems * k)
            (4 * min x.code.slotElems (n - k * x.code.slotElems)) 1 .read = .ok ps t →
            Sends s x (.fxGather a b) t (packet (encodeBlock x.code x.scale (bytesWords (t.readParts x.ctx ps)))) none
              (decide (n ≤ (k + 1) * x.code.slotElems)))))) ∧
  (∀ (s : State) (fuel c : Nat) (f : Fwd) (fs : List Fwd),
    let va := (s.ctx c).station.toNat / 4096 * 4096 + 4 * ((f.packet.wps.getD 0 0).toNat % 2 ^ 16)
    let pumped := State.pump (fuel + 1) s c (f :: fs)
    let dropped (t : State) : Prop := pumped = State.pump fuel (t.onFab f.proc fun q => { q with drop := q.drop + 1 }) c fs
    let stalls (t : State) : Prop := pumped = State.pump fuel (t.onCtx c fun x => { x with fwds := x.fwds ++ [f] }) c fs
    (∀ q, s.pumpAll c [q] = State.pump 32 s c [q]) ∧ State.pump fuel s c [] = s ∧
    (2 ^ 57 ≤ va → dropped s) ∧
    (va < 2 ^ 57 →
      (∀ u, s.xlat c va .read 4 f.proc 0 = (.fatal, u) → dropped u) ∧
      (∀ b u, s.xlat c va .read 4 f.proc 0 = (.hold b, u) → stalls u) ∧
      (∀ key leaf u, s.xlat c va .read 4 f.proc 0 = (.ok key leaf, u) → u.memTurn c key 4 = none → stalls u) ∧
      (∀ bs u, Loaded s c va 4 4 f.proc bs u →
        let e := leNat bs
        let slot := e % 2 ^ 13
        let fd := e / 2 ^ 13 % 4
        let valid := e / 2 ^ 15 % 2 = 1
        let self := e / 2 ^ 16 % 2 = 1
        let y := u.session fd slot
        (2 ^ 17 ≤ e ∨ (¬valid ∧ ¬self) → dropped u) ∧
        (e < 2 ^ 17 → self →
          (∀ v more, u.arriveAt c (slot % 32) f.packet none f.retained = .done v more → pumped = State.pump fuel v c (fs ++ more)) ∧
          (∀ v, u.arriveAt c (slot % 32) f.packet none f.retained = .refused v → stalls v)) ∧
        (e < 2 ^ 17 → ¬self → valid →
          (y.failed = true ∨ y.en = false → dropped u) ∧
          (y.failed = false → y.en = true →
            (u.hasBudget c 3 f.proc = false → stalls u) ∧
            (u.hasBudget c 3 f.proc = true →
              let v := ((({ u with serial := u.serial + 1 } : State).charge c 3 f.proc (State.fabricUnits f.packet.payload.length)).sendOn fd
                slot (.packet u.serial f.packet))
              ((v.session fd slot).failed = true ∨ (v.session fd slot).en = false → dropped v) ∧
              ((v.session fd slot).failed = false → (v.session fd slot).en = true → pumped = State.pump fuel v c fs))))))) ∧
  (∀ (s : State) (p fd slot n : Nat) (kept : Option Nat) (pkt : Packet) (late : Bool),
    let t := if late then s.onFab p fun f => { f with late := f.late + 1 } else s
    s.answer p (some (fd, slot)) kept pkt late =
      (t.setSession fd slot { t.session fd slot with seen := (t.session fd slot).seen.set pkt.psn (some late) }).sendOn fd slot
        (.answer late pkt) ∧
    s.answer p none none pkt late = t ∧
    (t.retainedOf n = none → s.answer p none (some n) pkt late = t) ∧
    (∀ q r, t.retainedOf n = some (q, r) →
      s.answer p none (some n) pkt late = if late then t.foldRetained q r false else t.dropRetained q r)) ∧
  (∀ (s : State) (x : FSlot) (dlv : Bool) (d a b : FReg) (k : BitVec 4) (imm : W32), SlotReady s x →
    let p := s.iss.proc
    let v := (x.f b).toNat
    let n := v / 2 ^ 16 % 2 ^ 32
    (v < 2 ^ 48 → n % 32 = 0 → 32 ≤ n → GlobalAt (x.f a) (if dlv then 64 else 4) →
      let posted (t : State) (ctr : Option W64) : State :=
        let r : Recv := ⟨t.serial, x.coll, x.bucket, x.step.toNat, BitVec.ofNat 16 v, dlv, ctr, x.f a, n, x.code, [], false, true,
          if x.deadline = 0 then none else some (t.cycle + 1250 * x.deadline), false⟩
        (t.bump.onCur fun y => { y with recvs := y.recvs ++ [r] }).feed x.ctx p t.iss.slot x.recvs.length
      (d = 0 → exec (.fxRecv dlv false d a b) s = unitDone true (posted s none)) ∧
      (dlv = true → GlobalAt (x.f d) 8 → ∀ e t, s.devPage x.ctx (x.f d).toNat 0 .read 4 p true = .ok e t →
        exec (.fxRecv dlv true d a b) s = unitDone true (posted t (some (x.f d))))) ∧
    (let rs := x.recvs.filter fun r => r.step == k.toNat
     let open_ := rs.filter fun r => r.openR && !r.met
     (open_ = [] → exec (.fxWait d k) s = slotGoesOn s (x.setF d (if rs.all fun r => r.met then 1 else 0))) ∧
     (open_ ≠ [] → x.quorum = true → exec (.fxWait d k) s = .next (s.waitFSlot p s.iss.slot .receive)) ∧
     (open_ ≠ [] → x.quorum = false → ∀ bad t, s.peersFailed x.ctx p (open_.map fun r => r.src.toNat) = .ok bad t → t.iss = s.iss →
       (bad = false → exec (.fxWait d k) s = .next (t.waitFSlot p s.iss.slot .receive)) ∧
       (bad = true → exec (.fxWait d k) s = slotEnds t 6))) ∧
    (imm.toNat < 4096 → (x.f a).toNat % 32 = 0 → ∀ o t, s.nameObject p s.iss.slot x imm.toNat = .ok o t → t.iss = s.iss →
      ∀ y, SlotReady t y → exec (.fxResid false d a imm) s =
        slotGoesOn t ({ y with resid := some (o.id, (x.f a).toNat) }.setF d (BitVec.ofNat 64 o.nelem))) ∧
    (¬GlobalAt (x.f a) 8 → exec (.fxSig a b) s = slotEnds s 8) ∧
    (GlobalAt (x.f a) 8 →
      let c := x.ctx
      let va := (x.f a).toNat
      (∀ t, s.xlat c va .write 4 p 0 = (.fatal, t) → exec (.fxSig a b) s = slotEnds t 5) ∧
      (∀ h t, s.xlat c va .write 4 p 0 = (.hold h, t) → exec (.fxSig a b) s = slotWaits t .memory) ∧
      (∀ key leaf t, s.xlat c va .write 4 p 0 = (.ok key leaf, t) →
        (leaf.type ≠ 0 → exec (.fxSig a b) s = slotEnds t 8) ∧
        (leaf.type = 0 → t.memTurn c key 8 = none → exec (.fxSig a b) s = slotWaits t .budget) ∧
        (leaf.type = 0 → ∀ u, t.memTurn c key 8 = some u →
          let old := leNat (u.pageRead c leaf.prot key 8)
          let sum := old + (x.f b).toNat % 2 ^ 32
          let added := u.writeView c 0 leaf.prot key (natLe 8 sum)
          (sum < 2 ^ 64 → exec (.fxSig a b) s = unitDone true ((u.satisfied c key old sum).foldl (fun v e =>
            (v.onCtx c fun y => { y with trigs := y.trigs.erase e.1 }).fireTrigger c (key / 2 ^ 36) e.2) added)) ∧
          (2 ^ 64 ≤ sum → exec (.fxSig a b) s = unitDone true (added.errorRecord c 0x07 0 0 (x.f a) x.coll.toNat p)))))) ∧
  (∀ (s : State) (c key old sum : Nat),
    (∀ e, e ∈ s.satisfied c key old sum ↔ e ∈ (s.ctx c).trigs ∧ e.2.key = key ∧ old < e.2.threshold.toNat ∧ e.2.threshold.toNat ≤ sum) ∧
    (s.satisfied c key old sum).Pairwise fun e f => e.2.threshold.toNat < f.2.threshold.toNat ∨
      (e.2.threshold = f.2.threshold ∧ e.2.order ≤ f.2.order))

/-! ## Events: scheduling -/

/-- R37, R40, R41, R60, R146, R483: a result returns and is no longer pending, and what waited for the last one goes on; the exchanges of
an active set, and their end after 16 cycles. Which cycle the 2,048-cycle check falls in, that a slot's fill counts as an exchange under way, and
which of equal groups comes first are the model's choices (log 47). -/
def Obligations.SchedulingEvents : Prop :=
  ∀ (s : State) (k slot i idx : Nat),
    let slots := (s.core k).slots
    let put (n : Nat) (x : ActSlot) : Host.Outcome State Fault Refusal := .next (s.onCore k fun y => { y with slots := y.slots.set n x })
    (∀ r, (s.thread i).pending[idx]? = some r →
      let t := (answers s i r).onThread i fun t => { t.reply r with pending := t.pending.eraseIdx idx }
      ((s.thread i).pending.length ≠ 1 → exec (.variableResultWrite i idx) s = .next t) ∧
      ((s.thread i).pending = [r] → ∀ e, (s.thread i).trapDue = some e →
        exec (.variableResultWrite i idx) s = .next (t.enterHandler i e)) ∧
      ((s.thread i).pending = [r] → (s.thread i).trapDue = none →
        ((s.thread i).arrival = none → exec (.variableResultWrite i idx) s =
          .next (if (s.thread i).wait = .marker then t.onThread i fun t => { t with wait := .ready, readyAt := s.cycle } else t)) ∧
        (∀ a, (s.thread i).arrival = some a → exec (.variableResultWrite i idx) s =
          .next (if (∃ d n, a.instr = .fork d n) ∧ s.onCores (State.teamOf i) = true then t.meet i a.instr else t)))) ∧
    (∀ g u g', slots.find? slot = some ⟨g, none, u⟩ → s.allLong g = true → s.nextGroup k = some g' →
      exec (.groupExchange k slot) s = put slot ⟨g, some g', s.cycle + 16⟩) ∧
    (∀ n x g', s.cycle % 2048 = 0 → (∀ e ∈ slots, e.2.incoming = none) → s.forcedSlot slots = some (n, x) → s.nextGroup k = some g' →
      exec (.forcedExchange k) s = put n ⟨x.group, some g', s.cycle + 16⟩) ∧
    (∀ g g' u, slots.find? slot = some ⟨g, some g', u⟩ → u ≤ s.cycle → exec (.exchangeDone k slot) s = put slot ⟨g', none, 0⟩) ∧
    (∀ g', slot < 8 → slots.find? slot = none → s.nextGroup k = some g' →
      exec (.slotFill k slot) s = put slot ⟨g', some g', s.cycle + 16⟩)

/-- R33, R35, R78, R79, R148, R276, R289: a queue engine places the team that its order names, or restores it from its image. The order
is by effective priority, then age; the first team in line is placed where it fits. A placed team takes its cores, and each thread of a
new team starts at the entry point with the constants of ARGS; one that a pre-emption lets drain by then goes on to drain (log 20). Which of two teams of equal priority and age comes first is the model's
choice (log 47). -/
def Obligations.PlacementEvents : Prop :=
  (∀ (s : State) (d t : Nat) (y : Team),
    let s1 := s.noteLine d
    (s1.nextTeam d = some (t, y) →
      (y.image = none → y.clone = false →
        exec (.teamPlacement d) s = .next ((((s1.seat t y).newThreads t).loadArgs t).noteLine d)) ∧
      (y.image = none → y.clone = true → exec (.teamPlacement d) s = .next ((s1.seat t { y with phase := .copying }).noteLine d)) ∧
      (y.image.isSome = true → exec (.teamRestore d) s = .next ((s1.restoreTeam t y).noteLine d))) ∧
    (s1.nextTeam d = none → ∀ i ∈ [Instr.teamPlacement d, .teamRestore d], exec i s = .next s1) ∧
    { s1 with teams := s.teams } = s ∧
    (∀ k, { s1.team k with firstInLine := (s.team k).firstInLine, blocking := (s.team k).blocking } = s.team k) ∧
    (∀ ts, s.waitingOn d = t :: ts → s.slotReady t = true → s.chooseCore t d = some y → s.nextTeam d = some (t, y)) ∧
    (s.waitingOn d).Pairwise (fun a b => s.effective b ≤ s.effective a ∧
      (s.effective a = s.effective b → (s.team a).firstQueued ≤ (s.team b).firstQueued)) ∧
    s.effective t = (if (s.team t).clone = true ∧ (s.team t).image = none then 7
      else min 7 ((s.team t).record.prio + (s.cycle - (s.team t).firstQueued) / 160000))) ∧
  (∀ (s : State) (d t : Nat) (y : Team),
    let u := s.seat t y
    (u.team t).core = y.core ∧ (u.team t).phase = y.phase ∧ (u.team t).spPlace = y.spPlace ∧
      ((∀ e ∈ s.groups, e.1 / 16 ≠ t) → ∀ g < (s.team t).record.groups,
        (u.group (t * 16 + g)).core = (if y.record.twin = true ∧ g % 2 = 1 then y.core + 1 else y.core) ∧
          (u.group (t * 16 + g)).count = (s.team t).record.regs) ∧
      (s.chooseCore t d = some y → 96 * d ≤ y.core ∧ y.core < 96 * d + 96 ∧ (y.record.twin = true → y.core % 2 = 0)) ∧
    ∀ i < (s.team t).record.groups * (s.team t).record.width,
      let th := (s.newThreads t).thread (t * 1024 + i)
      th.live = true ∧ th.pc = (s.team t).record.entry ∧ th.limit = (s.team t).record.regs ∧ th.mode = 0 ∧ th.depth = 0 ∧
        th.stklim = BitVec.ofNat 32 (s.stackBytes (s.team t).ctx) ∧ th.regs = [] ∧ th.preds = 0 ∧ th.pending = []) ∧
  (∀ (s s' : State) (t : Nat) (bs : List Byte),
    s.newRequest.devSpan (s.team t).ctx (s.team t).record.args.toNat 64 0 (s.team t).core false = .ok bs s' →
      ((s.loadArgs t).team t).phase = (if (s'.team t).drain = true then .draining else .placed) ∧
      ((s.loadArgs t).team t).drain = false ∧ ((s.loadArgs t).team t).argsDue = false ∧
      ∀ i ∈ s'.threadsOf t, ((s.loadArgs t).thread i).wait = .ready ∧ ∀ n < 16,
        ((s.loadArgs t).thread i).consts.get n 0 = BitVec.ofNat 32 (leNat ((bs.drop (4 * n)).take 4)))

/-- R70 to R73, R305: the events of the work queues: the fetch of the record at HEAD, which is accepted as `StartsAndEnqueues` says, and the owner's writes of the doorbell, of which one that goes too far ahead or moves TAIL back sets ERR, and of WQ_CFG. -/
def Obligations.WorkQueueEvents : Prop :=
  ∀ (s : State) (agent q : Nat) (tail : W32) (value : W64),
    let x := s.wq q
    (x.en = true → x.err = false → x.held = false → x.head ≠ x.tail → x.ctx.toNat < 1024 → (s.ctx x.ctx.toNat).state ≠ 0 → ∀ e s',
      let va := x.base.toNat / 64 * 64 + 64 * (x.head.toNat % 2 ^ x.log2size.toNat)
      s.devPage x.ctx.toNat va 64 .read 6 0 false = .ok e s' →
      s'.wq q = x →
      let bs := s'.pageRead x.ctx.toNat e.2.prot e.1 64
      exec (.wqRecordFetch q) s = .next ((s'.acceptRecord x.ctx.toNat (BitVec.ofNat 64 va) bs 0 (some x.prio.toNat)
        (s'.dealDie x.ctx.toNat (leNat ((bs.drop 60).take 2))) 0).onWq q fun x => { x with head := x.head + 1 })) ∧
    (s.powered = true → s.hub.ready = true → s.isOwner agent = true → q < 8192 →
      ((tail - x.head).toNat ≤ 2 ^ x.log2size.toNat → (x.tail - x.head).toNat ≤ (tail - x.head).toNat →
        exec (.wqDoorbell agent q tail) s = .next (s.setWq q { x with tail := tail })) ∧
      (2 ^ x.log2size.toNat < (tail - x.head).toNat ∨ (tail - x.head).toNat < (x.tail - x.head).toNat → exec (.wqDoorbell agent q tail) s = .next (s.setWq q { x with err := true })) ∧
      (x.en = false → value.toNat < 2 ^ 32 → value.toNat / 2 ^ 9 % 2 ^ 7 = 0 → value.toNat / 2 ^ 16 < 1024 →
        4 ≤ value.toNat / 2 % 32 → value.toNat / 2 % 32 ≤ 16 →
        exec (.wqEnable agent q value) s = .next (s.setWq q { x with
          en := true, log2size := BitVec.ofNat 5 (value.toNat / 2), prio := BitVec.ofNat 3 (value.toNat / 2 ^ 6),
          ctx := BitVec.ofNat 16 (value.toNat / 2 ^ 16), held := false })) ∧
      (x.en = true → exec (.wqDisable agent q) s = .next (s.setWq q { x with en := false, held := false })) ∧
      (x.en = true → exec (.wqErrClear agent q) s = .next (s.setWq q { x with err := false }))) ∧
    (s.powered = true → s.hub.ready = true → s.isOwner agent = false → q < 8192 →
      ∀ i ∈ [Instr.wqDoorbell agent q tail, .wqEnable agent q value, .wqDisable agent q, .wqErrClear agent q],
        exec i s = .next s.deny)

/-! ## Events: engines, views and contexts -/

/-- The exact sum of finite numbers, in units of 2 to a power that none of their exponents lies below (R184). -/
def sumAt (e0 : Int) : List Machine.Num → Int
  | [] => 0
  | .fin neg m e :: xs => (if neg then -1 else 1) * (m : Int) * 2 ^ (e - e0).toNat + sumAt e0 xs
  | _ :: xs => sumAt e0 xs

/-- The products of unit j of an element of D: sixteen of A and B, and those of the outlier entries that fall into it (R184, R186, R216). -/
def unitTerms (x : Mm) (r : Resv) (m : Nat) (outs : List Nat) (i n j : Nat) : List Machine.Num :=
  let b (k : Nat) : Machine.Num := bValue r (16 * x.koff + k) (128 * x.noff + n)
  ((List.range 16).map fun k => (aValue x.afmt m x.rows i (16 * j + k)).mul (b (16 * j + k))) ++
    outs.filterMap fun w =>
      let k := w / 2 ^ 5 % 2 ^ 9
      if w % 2 ^ 5 = i ∧ w % 2 ^ 5 < m ∧ k < kdepth r.fmt ∧ w / 2 ^ 14 % 4 = 0 ∧ k / 16 = j then
        some ((bf16.decode (w / 2 ^ 16 % 2 ^ 16)).mul (b k)) else none

/-- The jobs that have still to copy the scratchpad of a team to its clones are changed by a function, and no other job is (R147, R149). -/
def imagesChanged (s u : State) (t : Nat) (f : Job → Job) : Prop :=
  (∀ k ∈ s.coresOfTeam t, (u.core k).jobs = (s.core k).jobs.map fun q =>
    if q.team == t && q.cloneOf.any (fun e => e.2 == .scratch) then f q else q) ∧
  ∀ k, k ∉ s.coresOfTeam t → u.core k = s.core k

/-- R129 to R134, R147 to R149, R184 to R186, R199, R202, R203, R206, R214, R409, R423: a job reads its index list, moves a unit, lands a sector and
ends with its last; one that copies a clone's image puts the scratchpad, a reservation or a sector of the stack into the clone, the
barriers as `fork` found them; an interval retires, that of a job's reads as soon as these are done; a matrix instruction starts and
completes, its result in the scratchpad; a clone starts when its image has been copied. D holds, for each element, the old value with each
unit of sixteen products added in turn, a unit rounded once and the sum once. That the units of a job are written one in each event, when
the copy budget is charged, and that a clone which a pre-emption lets drain does so once it has started, are the model's choices (logs 16,
29 and 20), and so is the address that the record of an index out of range names (log 30). -/
def Obligations.EngineEvents : Prop :=
  (∀ (s : State) (k job n : Nat),
    let ended (t : State) : State := match t.jobOf k job with
      | some j => if t.jobDone j then t.finishJob j else t
      | none => t
    (∀ j, s.jobOf k job = some j → s.jobReady j = true → j.cloneOf = none →
      let goes (t : State) : Prop := exec (.jobSector k job n) s = .next (ended t)
      let u := if j.desc.kind = 1 ∨ j.desc.kind = 3 then j.moved.length else n
      let moves : Prop := ∀ p, (s.piecesOf j)[u]? = some p → u ∉ j.moved → s.unitBlocked j p = false →
        (∀ d j' t, s.movePiece j p = .ok (d, j') t →
          goes ((t.setJob { j' with moved := if d then j'.moved ++ [u] else j'.moved }).chargeMoved j' j.bytes)) ∧
        (∀ t, s.movePiece j p = .hold t → goes (t.setJob { j with held := true, heldAt := u })) ∧
        (∀ c a t, s.movePiece j p = .stop c a t → goes (t.stopJob j c a false))
      let width := if j.desc.param = 1 then 8 else 4
      let rows := j.desc.boxAt 1
      let next := j.idxa.toNat + width * j.idx.length
      let before (r : Nat) : Nat := ((List.range r).map fun q => (j.gathRow q).length).sum
      (j.desc.kind ≠ 1 → moves) ∧
      (j.desc.kind = 1 → j.idx.length < rows →
        (∀ bs t, s.readSector j true next = .ok bs t →
          let m := min ((32 - next % 32) / width) (rows - j.idx.length)
          goes (t.setJob { j with
            idx := j.idx ++ (List.range m).map fun i => leNat ((bs.drop (next % 32 + width * i)).take width) })) ∧
        (∀ t, s.readSector j true next = .hold t → goes (t.setJob { j with held := true })) ∧
        (∀ c a t, s.readSector j true next = .stop c a t → goes (t.stopJob j c a true))) ∧
      (j.desc.kind = 1 → rows ≤ j.idx.length → ∀ r < rows, before r ≤ u → u < before (r + 1) →
        (j.desc.ooberr = true → j.desc.boundAt 1 ≤ j.idx.getD r 0 → goes (s.stopJob j 5 (j.idxa.toNat + width * r) false)) ∧
        (j.desc.ooberr = false ∨ j.idx.getD r 0 < j.desc.boundAt 1 → moves))) ∧
    (∀ j c part, s.jobOf k job = some j → s.jobReady j = true → j.cloneOf = some (c, part) →
      let goes (t : State) : Prop := exec (.jobSector k job n) s = .next t
      let copied (n : Nat) (t : State) : Prop := goes ((t.charge j.ctx 2 (j.core / 96) ((n + 63) / 64)).finishJob j)
      let older := ∃ iv ∈ s.ivalsOfTeam j.team, iv.cls ≠ .r ∧ iv.owner < j.serial
      let at_ (t : Nat) : Nat := s.slotBase j.ctx ((s.team t).slot.getD 0) + 32 * j.idx.headD 0
      ((s.team c).phase = .copying ∨ (s.team c).phase = .saving →
        (part ≠ .stack → older → goes s) ∧
        (part = .scratch → ¬older → copied (s.scratchSize j.team)
          (s.onTeam c fun x => { x with sp := j.keep.foldl (fun m e => m.set e.1 e.2) (s.team j.team).sp })) ∧
        (∀ id r, part = .resv id → ¬older → (s.team j.team).resv.find? id = some r → copied (r.units * 256) (s.onTeam c fun x => { x with
          resv := x.resv.mapVals fun i y => if i = id then { y with bytes := r.bytes, serial := r.serial } else y })) ∧
        (part = .stack →
          (∀ t, s.readSector j false (at_ j.team) = .hold t → goes (t.setJob { j with held := true })) ∧
          (∀ bs t, s.readSector j false (at_ j.team) = .ok bs t →
            (∀ b u, t.xlat j.ctx (at_ c) .write 2 j.core 0 = (.hold b, u) → goes (u.setJob { j with held := true })) ∧
            (∀ key leaf u v, t.xlat j.ctx (at_ c) .write 2 j.core 0 = (.ok key leaf, u) → leaf.type < 2 →
              u.jobTurn j key (j.idx.headD 0 % 2 == 1) = some v →
              let put := ((List.range 32).zip bs).map fun e => (j.keep.find? (at_ j.team + e.1)).getD e.2
              let j' := { j with idx := [j.idx.headD 0 + 1], bytes := j.bytes + 32 }
              let w := (v.writeView j.ctx 0 leaf.prot key put).chargeMoved j' j.bytes
              (j.idx.headD 0 + 1 < 32 * s.stackBytes j.ctx → goes (w.setJob j')) ∧
              (32 * s.stackBytes j.ctx ≤ j.idx.headD 0 + 1 → goes (w.finishJob j))))))) ∧
    (∀ (t off m : Nat) (f : State.Barrier → State.Barrier),
      let u := s.updateBarrier t off m f
      let v := s.keepBarrier t off
      u.teams = (s.putBarrier t off (f (s.barrier t off))).teams ∧ u.threads = (s.putBarrier t off (f (s.barrier t off))).threads ∧
      imagesChanged s u t (fun q => if m < q.serial && (q.keep.find? off).isSome then
        { q with keep := tabPut q.keep off (f (readBarrier (tabBytes q.keep off 16))).bytes } else q) ∧
      imagesChanged s v t (fun q => if (q.keep.find? off).isSome then q else { q with keep := tabPut q.keep off (s.spBytes t off 16) })) ∧
    (∀ j p, (∀ a bs t, State.missing j (State.pieceSrcs p) = some a → j.desc.dir ≠ 3 → s.readSector j false a = .ok bs t →
        s.movePiece j p = .ok (false, { j with got := tabPut j.got (a / 32 * 32) bs }) t) ∧
      (∀ a, State.missing j (State.pieceSrcs p) = some a → j.desc.dir = 3 →
        let off := (a - 2 ^ 60) / 32 * 32
        s.movePiece j p = .ok (false, { j with got := tabPut j.got (2 ^ 60 + off) (s.spBytes j.team off 32) }) s) ∧
      (∀ u t, State.missing j (State.pieceSrcs p) = none → s.jobPut j (s.pieceBytes j p) = .ok u t →
        s.movePiece j p = .ok (true, { j with bytes := j.bytes + (s.pieceBytes j p).length }) t)) ∧
    (∀ j i rest, s.jobOf k job = some j → s.landable j = i :: rest →
      let j' := { j with landed := j.landed ++ [i] }
      (j.bar = none → exec (.sectorLand k job) s = .next (ended (s.setJob j'))) ∧
      (∀ off, j.bar = some off →
        ((s.barrier j.team off).sectors = 0 →
          exec (.sectorLand k job) s = .next (ended ((s.setJob j').stopJob j' 8 (State.sectorAddr j i) false))) ∧
        ((s.barrier j.team off).sectors ≠ 0 →
          exec (.sectorLand k job) s = .next (ended ((s.setJob j').updateBarrier j.team off j.serial fun x =>
            let b := { x with sectors := x.sectors - 1 }
            if b.pending = 0 ∧ b.sectors = 0 then { b with phase := (b.phase + 1) % 16, pending := b.reload, armed := false }
            else b))))) ∧
    (∀ iv, (s.core k).ivals[n]? = some iv →
      let made := ∀ e ∈ s.cores, (∀ m ∈ e.2.mms, m.serial ≠ iv.owner) ∧
        ∀ j ∈ e.2.jobs, j.serial = iv.owner → j.cloneOf = none ∧ iv.cls = .r ∧ s.readsDone j = true
      (¬made → exec (.intervalRetire k n) s = .next s) ∧
      (made → ∃ t, exec (.intervalRetire k n) s = .next t ∧ (t.core k).ivals = (s.core k).ivals.eraseIdx n ∧ t.mem = s.mem ∧
        ∀ i, (t.thread i).regs = (s.thread i).regs ∧ (t.thread i).preds = (s.thread i).preds)) ∧
    (∀ j, s.readsDone j = true ↔ (j.desc.kind ≠ 1 ∨ j.desc.boxAt 1 ≤ j.idx.length) ∧
      (j.desc.dir = 3 → ∀ p ∈ s.piecesOf j, State.missing j (State.pieceSrcs p) = none) ∧
      (j.desc.dir ≠ 3 → (s.piecesOf j).length ≤ j.moved.length)) ∧
    (∀ x rest, (s.core k).mms = x :: rest → x.abandoned = false →
      (x.started = false → (∀ j ∈ (s.core k).jobs, j.fetchFor ≠ some x.serial) →
        (s.coresOfTeam x.team).any (fun c => s.startBlocked c x.serial) = false →
        exec (.mmaMultiplyStart k) s = .next (s.onCore k fun y => { y with mms := { x with started := true } :: rest })) ∧
      (x.started = true → ∀ r, s.resvOn x.team x.res k = some r →
        exec (.mmaComplete k) s = .next ((s.mmaResult x r).dropMm k x))) ∧
    ((s.team n).phase = .copying → (s.team n).copies = 0 →
      exec (.cloneStart n) s = .next (s.onTeam n fun x => { x with
        phase := if x.drain then .draining else .placed, drain := false, startedAt := s.cycle }))) ∧
  (∀ (s : State) (x : Mm) (r : Resv),
    let m := (s.team x.team).record.width / 2
    let t := s.mmaResult x r
    let outs := (List.range x.count).map fun e => leNat (s.spBytes x.team (x.olist + 16 + 4 * e) 4)
    let word (u : State) (i n : Nat) : Nat := leNat (u.spBytes x.team (x.dof + 512 * i + 4 * n) 4)
    (∀ i < m, ∀ n < 128,
      let sum := (List.range (kdepth r.fmt / 16)).foldl (fun acc j => unitAdd acc (unitTerms x r m outs i n j))
        (BitVec.ofNat 32 (word s i n))
      word t i n = if nanBits sum then 0x7FC00000 else sum.toNat) ∧
    (∀ a, (a < x.dof ∨ x.dof + 512 * m ≤ a) → (t.team x.team).sp.get a 0 = (s.team x.team).sp.get a 0) ∧
    { t with teams := s.teams } = s ∧ (∀ k, k ≠ x.team → t.team k = s.team k) ∧
    { t.team x.team with sp := (s.team x.team).sp } = s.team x.team) ∧
  (∀ (acc : W32) (xs : List Machine.Num),
    let plus (y : W32) : W32 := BitVec.ofNat 32 (fAdd fp32 .rne acc.toNat y.toNat)
    (nanBits acc = true ∨ .nan ∈ xs ∨ (.inf true ∈ xs ∧ .inf false ∈ xs) → nanBits (unitAdd acc xs) = true) ∧
    (∀ b, .nan ∉ xs → .inf b ∈ xs → .inf (!b) ∉ xs → unitAdd acc xs = plus (if b then 0xFF800000 else 0x7F800000)) ∧
    (∀ e0 ≤ 0, (∀ y ∈ xs, ∃ neg m e, y = .fin neg m e ∧ e0 ≤ e) →
      (sumAt e0 xs = 0 → unitAdd acc xs = acc) ∧
      (sumAt e0 xs ≠ 0 → ∃ neg m e, e0 ≤ e ∧ sumAt e0 [.fin neg m e] = sumAt e0 xs ∧
        unitAdd acc xs = plus (BitVec.ofNat 32 (roundNum fp32 false .rne (.fin neg m e))))))

/-- R84, R91, R137, R157, R158, R165, R220, R221, R223, R228, R229: a walk makes its next record's store and spawn, an outbox runs its head entry,
a swept view id is free, a write-combining store is performed in memory, and the first deferred firing of a resident context, once none
of its pages is under fault, becomes a start request of its processor, or ends with its record; a firing is deferred behind the earlier
deferred ones, or while its context is not resident or a page of it is under fault. Which walk, run or store is next is left open. The
model's own readings here: a waiting store whose page has come under fault retires into the side log, and one that finds the log full waits
on (log 14); the cell of an outbox's head entry is taken as the last one in use (log 19); and what a firing waits behind (log 35). -/
def Obligations.ContextEvents : Prop :=
  ∀ (s : State) (c i : Nat),
    let x := s.ctx c
    ((x.state = 1 ∨ x.state = 2 ∨ x.state = 3) → x.walks ≠ [] →
      ∃ n w, x.walks[n]? = some w ∧ exec (.futureWalk c) s = .next (s.draw.stepWalk c n w)) ∧
    (∀ n w bs slot s1 s2 u, GlobalAt w.next 128 → s.devLoad c w.next.toNat 128 5 w.core false = .ok bs s1 →
      slot = leNat ((bs.drop 8).take 8) → slot < 2 ^ 57 → slot % 8 = 0 →
      s1.devStore c slot (natLe 8 w.value.toNat) 5 w.core false = .ok u s2 →
      s.stepWalk c n w = (s2.acceptRecord c (w.next + 64) ((bs.drop 64).take 64) 3 none (fun _ => w.die) w.core).nextWalk c n w
        (BitVec.ofNat 64 (leNat (bs.take 8)))) ∧
    (x.runs ≠ [] → ∃ r ∈ x.runs, exec (.outboxEntry c) s = .next (s.draw.stepRun c r)) ∧
    (∀ r op ops u s1 t, r.finished = false → (s.view c r.view).outbox = op :: ops →
      s.memTurn c (physKey (s.ctxDies c) (s.nextCell c - 128)) 128 = some s1 → s1.runOp (s.winner c r) op = .ok u t →
      s.stepRun c r = let v := t.popOutbox c r.view; if (v.view c r.view).outbox.isEmpty then v.endRun c r else v) ∧
    (∀ n ns, x.sweep = n :: ns → n ≠ 0 → (s.view c n).outbox = [] → ∃ t, exec (.viewSweep c) s = .next t ∧ (t.ctx c).sweep = ns ∧
      (t.view c n).state = .free ∧ ((s.view c n).state ≠ .merged → t = s.onCtx c fun y => { y with views := y.views.set n .free, sweep := ns })) ∧
    (∀ w, w ∈ s.readyStores i ↔ w ∈ nextStores (s.thread i).wc ∧
      (s.faulting (s.ctxOf i) (w.va / 4096) = true → logEntries ((s.core (s.coreOf i)).log ++ [s.wcEntry i w]) ≤ 256)) ∧
    (s.readyStores i = [] → exec (.storePerformed i) s = .next s) ∧
    (s.readyStores i ≠ [] → ∃ w ∈ s.readyStores i, ∃ t, exec (.storePerformed i) s = .next t ∧
      t.mem = (s.performWc i w).mem ∧ t.hub = (s.performWc i w).hub ∧ t.cores = (s.performWc i w).cores ∧
        (t.thread i).wc = (s.thread i).wc.erase w ∧
        (s.faulting (s.ctxOf i) (w.va / 4096) = false → t.cores = s.cores ∧ t.mem = (s.pageWrite (s.ctxOf i) w.prot w.key w.data).mem) ∧
        (s.faulting (s.ctxOf i) (w.va / 4096) = true → t.mem = s.mem ∧ ∃ e, (t.core (s.coreOf i)).log = (s.core (s.coreOf i)).log ++ [e] ∧
          e.ctx = s.ctxOf i ∧ e.va = BitVec.ofNat 64 w.va ∧ e.op = .store w.data ∧ e.view = 0 ∧ e.bundle = w.bundle)) ∧
    (x.deferred = [] ∨ x.state ≠ 1 → exec (.deferredFireRelease c) s = .next s) ∧
    (∀ r rs, x.deferred = r :: rs → x.state = 1 →
      let e := r.ctx
      let arg := r.arg.toNat
      let s0 := s.newRequest
      let stays (t : State) : Prop := exec (.deferredFireRelease c) s = .next t
      let released (t : State) : Prop := stays (t.onCtx c fun x => { x with deferred := rs })
      let fails (t : State) : Prop :=
        ∀ u, t.writeCompletion e r.comp.toNat 0 r.source (State.completionBytes 2 0 0 0 []) = .ok () u → released u
      let spent := ∃ q ∈ (s.ctx e).starts, q.spent = true ∧ q.order < r.order
      let starts (t : State) : Prop :=
        (∀ b u, t.xlat e arg .read 0 r.source 0 = (.hold b, u) → stays u) ∧
        ∀ bs u, Loaded t e arg 8 0 r.source bs u →
          let h := leNat bs
          let p := h / 2 ^ 16 % 32
          (2 ^ 21 ≤ h ∨ u.serves e p = false → fails u) ∧
          (h < 2 ^ 21 → u.serves e p = true →
            ((u.fab p).queue.length < 256 → released (u.onFab p fun f => { f with queue := f.queue ++
              [{ r with coll := BitVec.ofNat 16 h }] })) ∧
            (256 ≤ (u.fab p).queue.length → stays u))
      (spent → stays s) ∧
      (¬spent → r.bad = true → fails s0) ∧
      (¬spent → r.bad = false →
        (∀ b t, s0.xlat e arg .read 0 r.source 0 = (.hold b, t) → stays t) ∧
        (∀ bs t, Loaded s0 e arg 8 0 r.source bs t →
          let h := leNat bs
          let p := h / 2 ^ 16 % 32
          (2 ^ 21 ≤ h ∨ t.serves e p = false → starts t) ∧
          (h < 2 ^ 21 → t.serves e p = true →
            (∀ b u, t.xlat e r.img.toNat .read 4 p 0 = (.hold b, u) → stays u) ∧
            (∀ cs u, Loaded t e r.img.toNat 8 4 p cs u →
              (∀ b v, u.xlat e r.comp.toNat .write 4 p 0 = (.hold b, v) → stays v) ∧
              (∀ key leaf v, Served u e r.comp.toNat 0 .write 4 p key leaf v → starts v)))))) ∧
    (∀ r : StartReq,
      let y := s.ctx r.ctx
      let holds (t : State) (spent : Bool) : State := t.onCtx r.ctx fun z => { z with starts := z.starts ++ [{ r with spent := spent }] }
      let placed (qs : List StartReq) : List StartReq :=
        qs.takeWhile (fun q => decide (q.order ≤ r.order)) ++ r :: qs.dropWhile (fun q => decide (q.order ≤ r.order))
      let defers (t : State) : State := t.onCtx r.ctx fun z => { z with deferred := placed z.deferred }
      let spent := ∃ q ∈ y.starts, q.spent = true ∧ q.order < r.order
      let behind := ∃ q ∈ y.deferred, q.order < r.order
      (spent → s.fireRequest r = holds s true) ∧
      (¬spent → y.state ≠ 1 ∨ behind → s.fireRequest r = defers s) ∧
      (¬spent → y.state = 1 → ¬behind →
        (∀ t, s.newRequest.fireTo r = .ok () t → s.fireRequest r = t) ∧
        (∀ t, s.newRequest.fireTo r = .wait .translation t → s.fireRequest r = defers t) ∧
        (∀ t, s.newRequest.fireTo r = .wait .budget t → s.fireRequest r = holds t true) ∧
        (∀ t, s.newRequest.fireTo r = .wait .startQueue t → s.fireRequest r = holds t false)))

/-! ## Events: faults, pre-emption and the life of contexts -/

/-- The owner writes a register of a hub that has power and has booted (R74, R310). -/
abbrev Owned (s : State) (agent : Nat) : Prop := s.powered = true ∧ s.hub.ready = true ∧ s.isOwner agent = true

/-- R119, R127, R128, R203, R284, R292, R293, R295, R303, R308: the responses to a fault, with the replay of a page's logged accesses in the
order of their places, invalidation, the kill of a context, its teardown, and the watchdogs. That a held job leaves its record before
the teardown, and that a claim is dropped when the watchdog traps its thread, are the model's choices (logs 33 and 30). An enqueue of the
thread that has not left is taken back then, and one that has left is performed (R47, R293, R444). -/
def Obligations.FaultService : Prop :=
  ∀ (s : State) (agent c page i p slot : Nat) (value : W64),
    (Owned s agent → c < 1024 → (s.ctx c).state ≠ 0 → value.toNat = c + 2 ^ 19 * page →
      exec (.faultRetry agent value) s = .next (s.retryPage c page) ∧
      exec (.faultFatal agent value) s = .next (s.failPage c page) ∧
      exec (.xinv agent value) s =
        .next { s with hub := { s.hub with xinvBusy := true, xinv := s.hub.xinv ++ [(c, some page)] } }) ∧
    (∀ u, (s.ctx c).under.find? (fun u => u.page == page) = some u →
      let s0 := s.onCtx c fun x => { x with under := x.under.filter fun u => u.page != page }
      (s.loggedOn c page = [] → s.retryPage c page = s0.releasePage c) ∧
      (∀ k e rest key leaf s1, s.loggedOn c page = (k, e) :: rest →
        s0.xlat c e.va.toNat .write 0 k e.view = (.ok key leaf, s1) → s.retryPage c page =
          ((s1.dropLogged c page).replayAll c (key - e.va.toNat % 4096) leaf ((k, e) :: rest)).releasePage c) ∧
      let s' := ({ s with cores := s.cores.mapVals fun _ k => { k with log := k.log.filter fun e =>
        !(e.ctx == c && e.va.toNat / 4096 == page) } } : State).wake .sideLog fun _ => true
      (s.enqueuesAt c page = [] → s'.heldJobs c = [] → (s.ctx c).walks = [] → s.failPage c page = s'.beginTeardown c 0x53) ∧
      (∀ j cause a step1, s.enqueuesAt c page = [] → s'.heldJobs c = [j] → (s.ctx c).walks = [] →
        (s'.markFatal c page).fatalOf j page = some (cause, a, step1) →
        s.failPage c page = (s'.stopJob j cause a step1).beginTeardown c 0x53)) ∧
    ((s.loggedOn c page).Pairwise fun a b => a.2.place ≤ b.2.place) ∧
    (∀ x, x ∈ s.loggedOn c page ↔
      ∃ e ∈ s.cores, x.1 = e.1 ∧ x.2 ∈ e.2.log ∧ x.2.ctx = c ∧ x.2.va.toNat / 4096 = page) ∧
    (s.hub.xinvBusy = true → (∀ e ∈ s.hub.xinv, s.inFlight e.1 = false) → ∃ t, exec .xinvComplete s = .next t ∧
      t.hub = { s.hub with xinvBusy := false, xinv := [] } ∧ t.mem = s.mem ∧
      ∀ e ∈ s.hub.xinv, e.2 = none → (t.ctx e.1).tlb = []) ∧
    (Owned s agent → c < 1024 → (s.ctx c).state = 1 →
      exec (.contextKill agent c) s = .next ((s.setCtx c (s.ctx c)).beginTeardown c 0x52)) ∧
    ((s.ctx c).state = 4 → ∃ t, exec (.contextTeardown c) s = .next t ∧ (t.ctx c).state = 0 ∧ (t.ctx c).under = [] ∧
      (t.ctx c).held = [] ∧ t.mem = s.mem) ∧
    ((s.ctx c).state = 5 → ∃ t, exec (.contextTeardown c) s = .next t ∧ (t.ctx c).state = 5 ∧ (t.ctx c).under = [] ∧
      (t.ctx c).held = [] ∧ t.mem = s.mem ∧ ∀ x ∈ t.hub.scrubs, x.ctx = c → x.ended = true) ∧
    (let t := s.thread i
     let limit := (s.ctx (s.ctxOf i)).wdog.toNat % 2 ^ 24
     let s0 := if t.wait = .join then s.unjoin (State.teamOf i) else s
     limit ≠ 0 → t.live = true → t.trapDue = none → t.wait ≠ .ready → s.onCores (State.teamOf i) = true → 1024 * limit < t.waitCount →
      let u := unfetched ((s0.takeBackOuts fun j => j == i).passLeft i) (s0.groupOf i)
      exec (.watchdog i) s = .next ((u.deliver i
        ⟨0x30, 0, BitVec.ofNat 32 t.wait.code, (u.thread i).pc, t.chained⟩).dropClaim (s.groupOf i))) ∧
    (∀ x, s.fslot p slot = some x → (s.ctx x.ctx).wdog.toNat % 2 ^ 24 ≠ 0 → x.wait ≠ .ready →
      1024 * ((s.ctx x.ctx).wdog.toNat % 2 ^ 24) < x.waitCount →
      exec (.fabricWatchdog p slot) s =
        .next ((s.errorRecord x.ctx 0x09 0 0 x.comp x.coll.toNat p).setFSlot p slot { x with waitCount := 0 }))

/-- R148, R167, R249, R286 to R290, R304: a context is switched out and in, by the owner's register or by the swap of a partition; the course
that pre-emption takes with a team; a team is saved when its outstanding work is done or its drain limit is over, and waits again at the
die of its image when its context is resident; a debugger halts a team. That the use of an estimate makes its pair the latest is the
reading of log 47. A team whose ARGS are held, or whose image is being copied, takes the same courses; that it drains from its start on, and
that one saved before its ARGS are read reads them after the restore, that a saved team of a resident context waits again at once, that a
debugger's halt holds in every phase, and that the swap of a partition is the switch of each of its contexts, are the model's choices
(log 20), and so is where an image goes in the save area (log 10). -/
def Obligations.PreemptionEvents : Prop :=
  ∀ (s : State) (agent c t lead : Nat),
    (Owned s agent → c < 1024 → (s.ctx c).state ≠ 0 →
      exec (.switchOut agent c) s = .next ((s.onCtx c fun x => { x with swout := true }).switchOutCtx c) ∧
      exec (.switchIn agent c) s = .next ((s.onCtx c fun x => { x with swout := false }).switchInCtx c)) ∧
    ((s.ctx c).state = 1 → s.teamsOf c = [] → ((s.switchOutCtx c).ctx c).state = 3) ∧
    (∀ n, Owned s agent → s.boundIn lead = [n] → exec (.partitionSwap agent lead true) s = .next (s.switchOutCtx n) ∧
      exec (.partitionSwap agent lead false) s = .next (s.switchInCtx n)) ∧
    (let x := s.team t
     let run := s.cycle - x.startedAt
     let limit := (s.ctx x.ctx).preempt.toNat % 2 ^ 16 * 1250
     let u := s.useEstimate t
     let save (v : State) : State := v.onTeam t fun x =>
       { x with phase := .saving, drain := false, argsDue := x.argsDue || decide (x.phase = .argsHeld) }
     (x.phase = .placed ∨ x.phase = .argsHeld ∨ x.phase = .copying →
       (s.estimate t = none → s.preempt t = save u) ∧
       ∀ e, s.estimate t = some e →
         let again : Prop := (s.ctx x.ctx).preempt.toNat / 2 ^ 16 % 2 = 0 ∧ x.record.idem = true ∧ x.view = 0 ∧ x.external = false ∧ 4 * run < e
         (again → s.preempt t = u.flush t) ∧
         (¬again → e - run < limit →
           s.preempt t = u.onTeam t fun x =>
             if x.phase = .placed then { x with phase := .draining, drainUntil := s.cycle + limit }
             else { x with drain := true, drainUntil := s.cycle + limit }) ∧
         (¬again → limit ≤ e - run → s.preempt t = save u)) ∧
     (x.phase = .draining ∨ x.drain = true → x.drainUntil ≤ s.cycle → exec (.drainLimit t) s = .next (save s)) ∧
     ({ u with engines := s.engines } = s ∧ ∀ e, (s.engine (x.core / 96)).ests.find? (fun e => e.ctx == x.ctx && e.entry == x.record.entry) = some e →
       (u.engine (x.core / 96)).ests.head? = some e) ∧
     (let v := s.endTeam t true
      s.flush t = (v.setTeam v.serial { Team.queued with
        ctx := x.ctx, record := x.record, tx := x.tx, ty := x.ty, tz := x.tz, die := x.core / 96, core := State.noCore,
        firstQueued := x.firstQueued, halted := x.halted }).bump)) ∧
    ((s.ctx c).state = 2 ∨ (s.ctx c).state = 3 → ∃ u : State, s.switchInCtx c = (u.wakeSlots c .switchedOut).feedAll c ∧ (u.ctx c).state = 1 ∧
      ∀ n, (s.team n).ctx = c →
        ((s.team n).phase = .draining → (s.team n).image = none → (u.team n).phase = if (s.team n).halted then .draining else .placed) ∧
        ((s.team n).halted = false → (u.team n).drain = false) ∧
        (∀ img, (s.team n).image = some img → (s.team n).phase = .saved →
          (u.team n).phase = .waiting ∧ (u.team n).die = img.core / 96 ∧ (u.team n).image = some img) ∧
        ((s.team n).image = none → (s.team n).phase ≠ .draining →
          u.team n = if (s.team n).halted then s.team n else { s.team n with drain := false })) ∧
    ((s.team t).phase = .saving → (s.writeBackTeam t).saveReady t = true →
      exec (.teamSaveComplete t) s = .next ((s.writeBackTeam t).saveImage t)) ∧
    (let x := s.team t
     let units := Config.imageUnits s.free
     let shadow := min units (16384 - (s.core x.core).shadow)
     let spill := units - shadow
     s.saveImage t = if s.savedUnits x.ctx + spill ≤ (s.ctx x.ctx).savesz.toNat % 2 ^ 24 * 64 then
         (((s.draw.chargeRegion x.ctx (s.draw.saveArea x.ctx) spill).tagRegion x.ctx (s.draw.saveArea x.ctx) spill).onCtx x.ctx fun y =>
           { y with savestatBytes := y.savestatBytes + BitVec.ofNat 32 units,
                    savestatOver := y.savestatOver + BitVec.ofNat 32 spill }).unseat t ⟨x.core, shadow, spill⟩
       else s.draw.beginTeardown x.ctx 0x51) ∧
    (∀ img, ((s.unseat t img).team t).phase = (if (s.ctx (s.team t).ctx).state = 1 then .waiting else .saved) ∧
      ((s.unseat t img).team t).image = some img ∧ ((s.unseat t img).team t).sp = (s.team t).sp ∧
      ((s.unseat t img).team t).die = (s.team t).core / 96 ∧
      (s.unseat t img).threads = s.threads) ∧
    ((s.ctx c).state = 3 → (s.teamsOf c).all (fun t => !s.seated t) = true →
      exec (.switchOutComplete c) s = .next (s.onCtx c fun x => { x with state := 2 })) ∧
    ((s.team t).phase = .placed ∨ (s.team t).phase = .argsHeld ∨ (s.team t).phase = .copying → exec (.debuggerHalt t) s =
      .next (((s.onCtx (s.team t).ctx fun x => { x with savestatBytes := 0, savestatOver := 0 }).onTeam t fun x =>
        { x with halted := true }).preempt t)) ∧
    ((s.teams.find? t).isSome = true → (s.team t).phase = .draining ∨ (s.team t).phase = .saving ∨ (s.team t).phase = .saved ∨
      (s.team t).phase = .waiting → exec (.debuggerHalt t) s = .next (s.onTeam t fun x => { x with halted := true }))

/-- R303, R304, R307 to R309: the binding of a context, and the scrub of a protected one: its core state, its granules one by one, the journal,
and its end, which frees the context and raises vector 2,049. That a bind which is refused still writes PROT and PART is the model's reading
(log 39). -/
def Obligations.BindingAndScrub : Prop :=
  ∀ (s : State) (agent c die : Nat) (value : W64),
    (Owned s agent → c < 1024 → (s.ctx c).state = 0 → value.toNat < 2 ^ 8 →
      let n := value.toNat
      exec (.contextBind agent c value) s = .next ((s.setCtx c { s.ctx c with
        swout := decide (n / 2 % 2 = 1), prot := decide (n / 8 % 2 = 1), part := BitVec.ofNat 4 (n / 16) }).bind c)) ∧
    (s.bindable c = true → (s.ctx c).swout = false → ((s.bind c).ctx c).state = 1 ∧ ((s.bind c).ctx c).cause = 0) ∧
    (s.bindable c = false → s.bind c = s.regError) ∧
    (∀ x xs, s.hub.scrubs = x :: xs →
      (x.phase < 2 → x.ended = true → (∀ t ∈ s.teamsOf x.ctx, (s.team t).phase = .ending ∧ s.threadsOf t = []) →
        let s0 := (s.teamsOf x.ctx).foldl (fun s t => s.dropTeam t) s
        let gs := s0.taggedWith (s0.ctxDies x.ctx) x.slot
        exec .scrubCoreState s =
          .next { s0 with hub := { s0.hub with scrubs := { x with phase := 2, granules := gs, journal := gs } :: xs } }) ∧
      (x.phase < 2 → x.ended = false → exec .scrubCoreState s = .next s) ∧
      (x.phase = 2 → ∀ g gs, x.granules.filter (fun g => g / 2 ^ 24 == die) = g :: gs →
        (x.journal.filter fun g => g / 2 ^ 24 == die).length < 64 + (g :: gs).length →
        exec (.scrubGranule die) s = .next { s with
          mem := s.mem.writes (g * 4096) (List.replicate 4096 0),
          hub := { s.hub with tags := s.hub.tags.erase g, enciphered := s.hub.enciphered.filter fun e => e.1 / 256 != g,
                              scrubs := { x with granules := x.granules.filter fun h => h != g } :: xs } }) ∧
      (x.journal ≠ x.granules →
        (∀ d < 16, let left := (x.granules.filter fun g => g / 2 ^ 24 == d).length
          left = 0 ∨ left + 64 ≤ (x.journal.filter fun g => g / 2 ^ 24 == d).length) →
        exec .scrubJournalWrite s = .next { s with hub := { s.hub with scrubs := { x with journal := x.granules } :: xs } }) ∧
      (x.phase = 2 → x.granules = [] → x.ctx < 1024 → ∃ t, exec .scrubEnd s = .next t ∧ (t.ctx x.ctx).state = 0 ∧ t.hub.scrubs = xs ∧
        (∀ e ∈ t.hub.kslots, e.2 ≠ x.ctx) ∧ t.mem = s.mem ∧
        (s.hub.held = false → 2049 ∈ t.hub.pendingVectors)))

/-! ## Events: sessions and the network -/

/-- R241, R245 to R248, R267, R305, R306: the owner enables, disables and clears a session; the module with the lower key makes the first offer;
offers and answers are checked, answered, and the key derived and placed, and what waited for it is sent; offers are sent again, keys
rotate and are discarded; a session fails when an offer or a packet is given up, and one that ends loses its keys, its sends being folded
into their residuals. When an offer is due, that an offer, or an answer, which is not due is discarded, and an offer not counted, and how
handshake datagrams choose their ports, are the model's choices (log 42), and so is that a session which fails gives up the enqueues it
has sent and drops what is pending on it (log 50). -/
def Obligations.SessionEvents : Prop :=
  ∀ (s : State) (agent fd slot pkt : Nat) (value : W32) (dgram : List Byte),
    let x := s.session fd slot
    let type := leNat (State.dgField dgram 0 1)
    let epoch := leNat (State.dgField dgram 4 8)
    let put (y : Session) : State := s.setSession fd slot y
    (Owned s agent → fd < 4 → slot < 8192 →
      (x.en = false → x.failed = false → value.toNat / 2 ^ 16 < 1024 → value.toNat % 2 ^ 16 < 4 →
        exec (.sessionEnable agent fd slot value) s = .next ((put { x with
          en := true, v6 := decide (value.toNat / 2 % 2 = 1), ctx := BitVec.ofNat 16 (value.toNat / 2 ^ 16) }).beginKeys fd slot)) ∧
      (x.en = true → exec (.sessionDisable agent fd slot) s = .next ((put { x with en := false }).endSession fd slot)) ∧
      (x.en = true → x.failed = true →
        exec (.sessionFailedClear agent fd slot) s = .next ((put { x with failed := false }).beginKeys fd slot))) ∧
    (x.en = true → x.failed = false →
      (type = 1 → State.dgramOk x dgram = true → State.answersOffer x epoch = true →
        exec (.handshakeOffer fd slot dgram) s = .next (s.answerOffer fd slot dgram)) ∧
      (type = 1 → State.dgramOk x dgram = true → State.answersOffer x epoch = false →
        exec (.handshakeOffer fd slot dgram) s = .next s) ∧
      (type = 1 → State.dgramOk x dgram = false →
        exec (.handshakeOffer fd slot dgram) s = .next (s.countDrop (8 * fd + slot / 1024))) ∧
      (∀ o, type = 2 → x.offer = some o → State.dgramOk x dgram = true → State.dgField dgram 108 32 = o.nonce → epoch = o.epoch →
        exec (.handshakeAnswer fd slot dgram) s = .next ((put { x with offer := none }).installKey fd slot epoch
          (State.keyMaterial o.draw epoch (State.dgField dgram 44 32) o.nonce (State.dgField dgram 12 32) State.ownKey
            (State.peerKey x)) true))) ∧
    (∀ o, x.offer = some o → o.sentAt + 125000000 ≤ s.cycle →
      (o.retries < 16 → exec (.handshakeRetry fd slot) s = .next ((put { x with
        offer := some { o with retries := o.retries + 1, sentAt := s.cycle } }).sendDgram fd slot (State.offerDgram o))) ∧
      (16 ≤ o.retries → exec (.handshakeRetry fd slot) s = .next (s.failSession fd slot))) ∧
    (let own := Crypto.publicKey Config.identitySeed
     let secret := fixBytes 32 (Config.secretBytes s.free)
     let nonce := fixBytes 32 (Config.randomBytes s.free)
     let drawn (y : Session) : State := ({ s with free := s.free + 1 } : State).setSession fd slot y
     let signed (type : Byte) (e : Nat) (nonce xpub peerNonce : List Byte) : List Byte :=
       let body := [type, 1, 0, 0] ++ natLe 8 e ++ nonce ++ xpub ++ own ++ peerNonce
       body ++ Crypto.sign Config.identitySeed body
     let fresh : Session := { x with
       offer := none, key := none, next := none, old := none, firstNew := none, stale := false, seen := [], enqNext := 0, enqDue := 0,
       early := [], enqSeen := [] }
     State.ownKey = own ∧ (∀ y, State.peerKey y = (List.range 32).map fun i => y.idkey.get i 0) ∧
     (∀ a b, a.length = 32 → b.length = 32 → (State.keyLess a b = true ↔
       ∃ k < 32, (∀ j < k, a[j]? = b[j]?) ∧ (a.getD k 0).toNat < (b.getD k 0).toNat)) ∧
     (State.dgramOk x dgram = true ↔ dgram.length = 204 ∧ dgram[1]? = some 1 ∧ State.dgField dgram 76 32 = State.peerKey x ∧
       Crypto.verify (State.peerKey x) (dgram.take 140) (State.dgField dgram 140 64) = true) ∧
     (State.answersOffer x epoch = true ↔
       ((x.key = none ∧ epoch = 0) ∨ ∃ k, x.key = some k ∧ (epoch = k.epoch + 1 ∨ (epoch = 0 ∧ k.epoch = 0 ∧ k.sent = 0))) ∧
       (epoch = 0 → State.keyLess (State.peerKey x) own = true) ∧
       (epoch ≠ 0 → ∀ o, x.offer = some o → o.epoch = epoch → State.keyLess own (State.peerKey x) = false)) ∧
     (State.keyLess own (State.peerKey x) = true → s.beginKeys fd slot = (put fresh).makeOffer fd slot 0) ∧
     (State.keyLess own (State.peerKey x) = false → s.beginKeys fd slot = put fresh) ∧
     (let o : Offer := ⟨pkt, nonce, Crypto.x25519Base secret, s.free, 0, s.cycle⟩
      s.makeOffer fd slot pkt = (drawn { x with offer := some o }).sendDgram fd slot (State.offerDgram o)) ∧
     (∀ o : Offer, State.offerDgram o = signed 1 o.epoch o.nonce o.xpub (List.replicate 32 0)) ∧
     s.answerOffer fd slot dgram = ((drawn { x with offer := none }).sendDgram fd slot
       (signed 2 epoch nonce (Crypto.x25519Base secret) (State.dgField dgram 12 32))).installKey fd slot epoch
         (State.keyMaterial s.free epoch (State.dgField dgram 44 32) (State.dgField dgram 12 32) nonce (State.peerKey x) own) false ∧
     (∀ draw e peer offerN answerN offerer answerer, State.keyMaterial draw e peer offerN answerN offerer answerer =
       Crypto.hkdf (offerN ++ answerN) (Crypto.x25519 (fixBytes 32 (Config.secretBytes draw)) peer)
         (("skovvaber v9 uet".toList.map fun c => BitVec.ofNat 8 c.toNat) ++ natLe 8 e ++ offerer ++ answerer) 40) ∧
     (∀ material offerer, let k : SessKey := ⟨pkt, material, offerer, 0, s.cycle⟩
       s.installKey fd slot pkt material offerer = (put (if pkt = 0 then { x with
         key := some k, next := none, old := none, firstNew := none, stale := false } else { x with next := some k })).flushPend fd slot) ∧
     s.flushPend fd slot = ((x.pend.foldl (fun t o => t.sendOn fd slot o) (put { x with pend := [] })).flushOuts fd slot)) ∧
    (let t := s.foldSession fd slot
     let y := t.session fd slot
     s.endSession fd slot = ((t.setSession fd slot { y with
       en := false, offer := none, key := none, next := none, old := none, firstNew := none, stale := false, outs := [], ins := [],
       unacked := [], pend := [], seen := [], enqNext := 0, enqDue := 0, early := [], enqSeen := [] }).onSlots fun _ _ z =>
         if z.wait = .receive then { z with wait := .ready } else z).wake .remoteSlot fun _ => true) ∧
    (∀ (p : Nat) (r : Retained) (z : FSlot) (late : Bool), s.fslot p r.slot = some z →
      (z.prog ≠ 0 → z.ending = none → s.foldRetained p r late = s.onFab p fun f => { f with
        retained := f.retained.map fun q => if q.serial = r.serial then { q with folding := some late } else q }) ∧
      (z.prog = 0 ∨ z.ending ≠ none →
        let vals := decodePayload r.code r.scale r.payload
        ∀ ps t, s.newRequest.fabSpan z.ctx p r.residual.toNat (4 * vals.length) 4 .write = .ok ps t →
          let sums := ((bytesWords (t.readParts z.ctx ps)).zip vals).map fun e => sumRne (valueOf e.1) e.2
          s.foldRetained p r late = ((((t.writeParts z.ctx (wordsBytes sums) ps).reportCodes p r.slot z r.residual r.code r.payload).onFab p
            fun f => { f with fold := f.fold + 1 }).onFSlot p r.slot fun y => if late then { y with flags := y.flags ||| 4 } else y).dropRetained
              p r)) ∧
    (s.upPorts fd slot = [] → s.sendDgram fd slot dgram = s) ∧
    (s.upPorts fd slot ≠ [] → ∃ port ∈ s.upPorts fd slot,
      s.sendDgram fd slot dgram = s.draw.emit (.handshake fd slot port dgram)) ∧
    (∀ k, x.key = some k → x.en = true → x.failed = false →
      (2 ^ 31 ≤ k.sent ∨ 59 * 60 * 1250000000 ≤ s.cycle - k.since → x.next = none → x.offer = none →
        exec (.keyRotationStart fd slot) s = .next (s.makeOffer fd slot (k.epoch + 1))) ∧
      (s.keySpent k = true → ∀ n, x.next = some n → let y := State.discardOld s.cycle x
        exec (.keySwitch fd slot) s = .next (put { y with
          old := if y.stale then none else some k, key := some n, next := none, stale := false })) ∧
      (s.keySpent k = true → x.next = none → exec (.keySwitch fd slot) s = .next (s.failSession fd slot))) ∧
    (∀ t, x.firstNew = some t → t + 12500000000 ≤ s.cycle →
      (x.old.isSome = true → exec (.oldKeyDiscard fd slot) s = .next (put { x with old := none, firstNew := none })) ∧
      (x.old = none → exec (.oldKeyDiscard fd slot) s = .next (put { x with stale := x.next.isSome, firstNew := none }))) ∧
    ((∃ e ∈ x.unacked, e.1 = pkt) ∨ (∃ o ∈ x.outs, o.sent = true ∧ o.serial = pkt) → exec (.transportGiveUp fd slot pkt) s = .next (s.failSession fd slot)) ∧
    (let t := s.markFailed fd slot
     t.session fd slot = { x with failed := true, offer := none, unacked := [], pend := [], outs := x.outs.filter fun o => !o.sent } ∧
      { t with sessions := s.sessions, fabs := s.fabs } = s ∧
      (∀ p, (t.fab p).retained = (s.fab p).retained.map fun r =>
        if r.sess = some (fd, slot) then { r with folding := some (r.folding.getD true) } else r) ∧
      s.failSession fd slot = t.foldSession fd slot)

/-- R19, R87 to R89, R218, R220 to R223, R229, R232, R234, R236, R237, R239 to R241, R243, R244, R247, R262, R267, R383, R398, R485: packets and
enqueues that arrive and what becomes of them, answers to what was sent, images and starts of the fabric processors, receive deadlines, and
ports. The first start request of a processor's queue takes the lowest free slot, once its image header and its completion record's page
have been read and its image is resident or fits, and the slot starts as R222 and R383 have it; it ends with its record where its processor
does not serve the context, has no station there, or the image's length is out of range; and a page under fault holds it, or defers it
where it is a firing. Which of the ports whose links are up a packet takes is left open; the answer's charge is that of a packet
without payload (log 45). The numbers of the transport, the order of enqueues and the answers that are sent again are the model's choices
(log 36), as are the later firings that wait behind a deferred one and the reserved bits of an image header (log 35), and a deadline
that has passed only after its last cycle (log 12). -/
def Obligations.NetworkEvents : Prop :=
  ∀ (s : State) (fd slot p i n : Nat) (pkt : Packet) (msg : Enqueue) (code : W64),
    let x := s.session fd slot
    let running (c : Nat) : Prop := (s.ctx c).state = 1 ∨ (s.ctx c).state = 2 ∨ (s.ctx c).state = 3
    (∀ y, x.en = true → s.underKey x pkt.keyBit = some y → y.ctx = x.ctx →
      let t := s.setSession fd slot y
      (pkt.unsupported = true → exec (.packetArrival fd slot pkt) s = .next (t.countDrop (8 * fd + slot / 1024))) ∧
      (pkt.unsupported = false → running x.ctx.toNat →
        (y.seen.find? pkt.psn = none → exec (.packetArrival fd slot pkt) s = .next (t.deliverPacket x.ctx.toNat fd slot pkt)) ∧
        (∀ late, y.seen.find? pkt.psn = some (some late) → exec (.packetArrival fd slot pkt) s = .next (t.reply fd slot late pkt)))) ∧
    (∀ e u, let st := (pkt.wps.getD 0 0).toNat % 2 ^ 16
      let drop (v : State) := (v.countDrop (8 * fd + slot / 1024)).reply fd slot false pkt
      s.stationOf n (8 * fd + slot / 1024) st = .ok e u →
        (e.self = false → s.deliverPacket n fd slot pkt = drop u) ∧
        (e.self = true → ∀ own v, u.ownStation n (e.slot % 32) = .ok own v →
          (own ≠ some st → s.deliverPacket n fd slot pkt = drop v) ∧
          (own = some st → ∀ w fs, v.arriveAt n (e.slot % 32) pkt (some (fd, slot)) none = .done w fs →
            s.deliverPacket n fd slot pkt = (w.noteSeen fd slot pkt.psn).pumpAll n fs))) ∧
    (∀ own u, s.ownStation n p = .ok own u →
      let wp := pkt.wps.getD 0 0
      let q : Packet := { pkt with wps := pkt.wps.drop 1 ++ [0], nwp := pkt.nwp - 1 }
      let arrived := s.arriveAt n p pkt (some (fd, slot)) none
      let dropped := arrived = .done ((u.countDrop p).reply fd slot false q) []
      (own ≠ some (wp.toNat % 2 ^ 16) → dropped) ∧
      (pkt.nwp.toNat = 0 ∨ 8 < pkt.nwp.toNat ∨ 5 < State.actionOf wp ∨ 4 < pkt.code.toNat ∨ (∃ w ∈ pkt.wps, 2 ^ 25 ≤ w.toNat) ∨ pkt.tail ≠ 0 ∨
          (∃ f, PayCode.ofNat? pkt.code.toNat = some f ∧ pkt.len.toNat % f.blockBytes ≠ 0) →
        dropped) ∧
      (own = some (wp.toNat % 2 ^ 16) → State.headerOk pkt = true →
        (State.actionOf wp = 0 → q.nwp = 0 → dropped) ∧
        (State.actionOf wp = 0 → q.nwp ≠ 0 → arrived = .done (u.reply fd slot false q) [⟨p, q, none⟩]) ∧
        (State.actionOf wp ≠ 0 → arrived = u.matchHeld n ⟨p, q, wp, some (fd, slot), none⟩))) ∧
    (∀ h : Held, let k := State.keyOf n h.packet h.wp
      let u := s.lapseKey h.proc k
      (k ∈ (u.fab h.proc).closed → s.matchHeld n h = .done (u.answer h.proc h.sess h.retained h.packet true) []) ∧
      (k ∉ (u.fab h.proc).closed → (u.ctx n).state = 1 →
        (∀ q ∈ (u.ctx n).held, q.proc = h.proc → State.keyOf n q.packet q.wp ≠ k) →
        (State.oldest (u.openFor h.proc k) = none → s.matchHeld n h = u.holdArrival h n) ∧
        (∀ i j z y r v fwd, State.oldest (u.openFor h.proc k) = some (i, j, z) → u.fslot h.proc i = some y → y.recvs[j]? = some r →
          u.take h.proc i j y r h = .done v fwd → s.matchHeld n h =
            .done (v.answer h.proc h.sess h.retained h.packet false) (fwd.toList.map fun q => ⟨h.proc, q, none⟩))) ∧
      ((s.ctx n).held.length < (s.ctx n).caravsz.toNat % 2 ^ 24 →
        s.holdArrival h n = .done ((s.chargeHeld n (s.ctx n).held.length h.packet).onCtx n fun x => { x with held := x.held ++ [h] }) []) ∧
      ((s.ctx n).caravsz.toNat % 2 ^ 24 ≤ (s.ctx n).held.length → s.holdArrival h n = .refused (s.countRefuse h.proc))) ∧
    (∀ (j : Nat) (y : FSlot) (r : Recv) (h : Held) (code : PayCode), PayCode.ofNat? h.packet.code.toNat = some code →
      let act := State.actionOf h.wp
      let len := h.packet.len.toNat
      let chunk := h.packet.chunk.toNat
      let m := len / code.blockBytes * 32
      let on := if act = 5 ∧ h.packet.nwp ≠ 0 then some h.packet else none
      (((act = 1 ∨ act = 2) ↔ r.deliver = true) → s.take p i j y r h = .late true) ∧
      (¬((act = 1 ∨ act = 2) ↔ r.deliver = true) → chunk * code.slotElems + m ≤ r.count → (∀ e ∈ r.taken, e.1 ≠ chunk) →
        (r.deliver = true → r.sig = none → ∀ ps v, s.newRequest.fabSpan y.ctx p (r.buf.toNat + 4096 * chunk) len 1 .write = .ok ps v →
          s.take p i j y r h =
            .done ((v.writeParts y.ctx (h.packet.payload.take len) ps).markTaken p i j r chunk len (decide (act = 4))) on) ∧
        (r.deliver = true → ∀ ctr, r.sig = some ctr → (act = 4 ∨ r.signals = true) → State.needBytes r ≤ State.takenBytes r + len →
          ∀ ps v w t e u, s.newRequest.devPage y.ctx ctr.toNat 0 .write 4 p true = .ok e u →
            u.fabSpan y.ctx p (r.buf.toNat + 4096 * chunk) len 1 .write = .ok ps v → w = v.writeParts y.ctx (h.packet.payload.take len) ps →
            w.cincFor ⟨y.ctx, p, 0, y.coll.toNat⟩ ctr 1 4 p = .ok () t →
            s.take p i j y r h = .done (t.markTaken p i j r chunk len (decide (act = 4))) on) ∧
        (r.deliver = false → ∀ ps v, s.newRequest.fabSpan y.ctx p (r.buf.toNat + 4 * (chunk * code.slotElems)) (4 * m) 4 .write = .ok ps v →
          let bs := h.packet.payload.take len
          let sums := ((bytesWords (v.readParts y.ctx ps)).zip (decodePayload code y.scale bs)).map fun (a, b) =>
            if h.packet.src.toNat < y.station.toNat then sumRne b (valueOf a) else sumRne (valueOf a) b
          s.take p i j y r h = .done ((((v.reportCodes p i y r.buf code bs).writeParts y.ctx (wordsBytes sums) ps).onFSlot p i fun z =>
            z.countSums (decide (h.wp.toNat / 2 ^ 24 % 2 = 0)) sums).markTaken p i j r chunk len (decide (act = 4))) on))) ∧
    (∀ (a : PacketAnswer), ∀ i ∈ [Instr.acceptResponse fd slot a, .lateResponse fd slot a],
      (x.en = false ∨ s.underKey x a.keyBit = none → exec i s = .next s) ∧
      (∀ y, x.en = true → s.underKey x a.keyBit = some y →
        ((∀ e ∈ y.unacked, e.1 ≠ a.psn) → exec i s = .next (s.setSession fd slot y)) ∧
        ((∃ e ∈ y.unacked, e.1 = a.psn) →
          let t := s.setSession fd slot { y with unacked := y.unacked.filter fun e => e.1 != a.psn }
          (t.retainedOf a.psn = none → exec i s = .next t) ∧
          (∀ m, t.retainedOf a.psn = some m → exec (.acceptResponse fd slot a) s = .next (t.dropRetained m.1 m.2) ∧
            exec (.lateResponse fd slot a) s = .next (t.foldRetained m.1 m.2 false))))) ∧
    (∀ c o, ((∃ e, x.unacked.find? (fun e => e.1 == n) = some e ∧ c = x.ctx.toNat ∧ o = .packet e.1 e.2) ∨
        (x.unacked.find? (fun e => e.1 == n) = none ∧ ∃ q, x.outs.find? (fun q => q.sent && q.serial == n) = some q ∧ c = q.ctx ∧
          o = .enqueue q.serial q.msg)) →
      (s.upPorts fd slot = [] ∨ s.hasBudget c 3 (8 * fd + slot / 1024) = false → exec (.packetRetransmit fd slot n) s = .next s) ∧
      (s.upPorts fd slot ≠ [] → s.hasBudget c 3 (8 * fd + slot / 1024) = true → exec (.packetRetransmit fd slot n) s =
        .next ((s.charge c 3 (8 * fd + slot / 1024) (State.fabricUnits (State.payloadBytes o))).sendOn fd slot o))) ∧
    (∀ o k, x.key = some k → x.en = true → x.failed = false →
      (s.keySpent k = false → s.sendOn fd slot o = s.transmit fd slot o) ∧
      (s.keySpent k = true → x.next = none → s.sendOn fd slot o = s.failSession fd slot) ∧
      (s.keySpent k = true → x.next.isSome = true → s.sendOn fd slot o = (s.switchKey fd slot).transmit fd slot o)) ∧
    (∀ o, x.failed = true ∨ (x.en = false ∧ x.key = none) → s.sendOn fd slot o = s) ∧
    (∀ o k late psn code, x.key = some k →
      let bit := decide (k.epoch % 2 = 1)
      let waits := s.setSession fd slot { x with pend := x.pend ++ [o] }
      let sends (sealed_ : Outgoing) (y : Session) : Prop := ∃ port ∈ s.upPorts fd slot, ∃ t, s.transmit fd slot o = t ∧
        t.wire = s.wire ++ [.sealed fd slot k.epoch (State.gcmNonce k) port sealed_] ∧
        t.session fd slot = { y with key := some { k with sent := k.sent + 1 } } ∧
        { t with wire := s.wire, sessions := s.sessions, free := s.free, ctxs := s.ctxs } = s
      (s.upPorts fd slot = [] → s.transmit fd slot o = waits) ∧
      (s.upPorts fd slot ≠ [] →
        (o = .packet n pkt → sends (.packet n { pkt with keyBit := bit, psn := n })
          { x with unacked := x.unacked.filter (fun q => q.1 != n) ++ [(n, pkt)] }) ∧
        (o = .enqueue n msg → sends (.enqueue n { msg with keyBit := bit }) x) ∧
        (o = .answer late pkt ∨ o = .enqueueAnswer psn code →
          (s.hasBudget x.ctx.toNat 3 (8 * fd + slot / 1024) = false → s.transmit fd slot o = waits) ∧
          (s.hasBudget x.ctx.toNat 3 (8 * fd + slot / 1024) = true →
            sends (if o = .answer late pkt then .answer late { pkt with keyBit := bit } else o) x)))) ∧
    (∀ o, x.key = none → s.transmit fd slot o = s.setSession fd slot { x with pend := x.pend ++ [o] }) ∧
    (∀ port, port ∈ s.upPorts fd slot ↔ 4 * (8 * fd + slot / 1024) ≤ port ∧ port < 4 * (8 * fd + slot / 1024) + 4 ∧ port ∉ s.portsDown) ∧
    (∀ y r d, s.fslot p i = some y → y.recvs[n]? = some r → r.met = false → r.openR = true → y.ending = none → r.deadline = some d →
      d < s.cycle →
      (y.quorum = true → exec (.receiveDeadline p i n) s = .next ((s.setFSlot p i { y with
        recvs := y.recvs.set n { r with openR := false }, omits := y.omits ||| BitVec.twoPow 32 r.step, flags := y.flags ||| 2,
        wait := if y.wait = .receive then .ready else y.wait }).closeKey y.ctx p (State.recvKey y.ctx r))) ∧
      (y.quorum = false → exec (.receiveDeadline p i n) s = .next (s.beginEnd p i 1))) ∧
    (∀ r rs, (s.fab p).queue = r :: rs →
      let c := r.ctx
      let s0 := s.newRequest
      let after (t : State) : Prop := exec (.startRequest p) s = .next (t.wake .startQueue fun _ => true).retryAllStarts
      let used (t : State) : Prop := after (t.onFab p fun f => { f with queue := rs })
      let stays (t : State) : Prop := after (t.scanStarts p [r] [c] rs)
      let fails (t : State) (status : Nat) : Prop :=
        ∀ u, t.writeCompletion c r.comp.toNat 4 p (State.completionBytes status 0 0 0 []) = .ok () u → used u
      let faults (t : State) : Prop := (r.fired = false → stays t) ∧ (r.fired = true →
        let later (q : StartReq) := q.fired && q.ctx == c && r.order < q.order
        after ((r :: rs.filter later).foldl (fun u q => u.onCtx q.ctx fun z => { z with deferred := State.insertFiring q z.deferred })
          (t.onFab p fun f => { f with queue := rs.filter fun q => !later q })))
      (¬running c → used s) ∧
      (running c → s.serves c p = false → fails s0 2) ∧
      (running c → s.serves c p = true →
        (∀ u, s0.xlat c r.img.toNat .read 4 p 0 = (.fatal, u) → used u) ∧
        (∀ b u, s0.xlat c r.img.toNat .read 4 p 0 = (.hold b, u) → faults u) ∧
        (∀ key leaf u, s0.xlat c r.img.toNat .read 4 p 0 = (.ok key leaf, u) → u.memTurn c key 8 = none → stays u) ∧
        (∀ bs u, Loaded s0 c r.img.toNat 8 4 p bs u →
          (∀ b v, u.xlat c r.comp.toNat .write 4 p 0 = (.hold b, v) → faults v) ∧
          (∀ key leaf v, Served u c r.comp.toNat 0 .write 4 p key leaf v →
            let h := leNat bs
            let len := h % 2 ^ 16
            (len = 0 ∨ 8191 < len ∨ 2 ^ 48 ≤ h → fails v 3) ∧
            (1 ≤ len → len ≤ 8191 → h < 2 ^ 48 →
              (∀ w, v.ownStation c p = .ok none w → fails w 9) ∧
              (∀ st w, v.ownStation c p = .ok (some st) w →
                let gen : W32 := BitVec.ofNat 32 (h / 2 ^ 16)
                let images := (w.fab p).images
                let hit := (images.filter fun e => e.2.ctx == c && e.2.addr == r.img && e.2.gen == gen).head?
                let kept := State.makeRoom (w.usedImages p) len images.length images
                let slot (image : Nat) (loaded : Bool) : FSlot :=
                  { ctx := c, regs := [(1, r.arg), (2, r.comp), (3, r.coll.zeroExtend 64), (4, BitVec.ofNat 64 st)], pc := 0, cc := 0,
                    deadline := 0, quorum := false, histOn := false, scale := 127, contrib := 0, omits := 0, flags := 0, hist := [],
                    bucket := 0, step := 0, code := .fp32, wps := [], nwp := 0, resid := none, objs := [], recvs := [], coll := r.coll,
                    station := BitVec.ofNat 16 st, arg := r.arg, comp := r.comp, image := image, prog := 0,
                    wait := if loaded then .ready else .image, waited := if loaded then .ready else .image, waitCount := 0,
                    ending := none }
                let takes (j : Nat) (is : Tab Image) (image : Nat) (loaded : Bool) : Prop :=
                  used ((({ w with serial := w.serial + 1 } : State).onFab p fun f => { f with images := is }).onFab p (fun f =>
                    { f with slots := f.slots.set j (slot image loaded) }) |>.onFab p fun f =>
                      { f with closed := f.closed.filter fun k => !(k.ctx == c && k.coll == r.coll) })
                let free := (List.range 16).find? fun j => (w.fslot p j).isNone
                (free = none → after w) ∧
                (∀ j, free = some j →
                  (∀ e, hit = some e → takes j (images.mapVals fun k x => if k = e.1 then { x with started := w.serial } else x) e.1
                    ((images.find? e.1).any (·.loaded))) ∧
                  (hit = none → State.imageWords kept + len ≤ 8192 →
                    takes j (kept.set w.serial ⟨c, r.img, gen, len, [], w.serial, false⟩) w.serial false) ∧
                  (hit = none → 8192 < State.imageWords kept + len → after w)))))))) ∧
    (∀ agent source body key leaf t, Served s n i 256 .write agent source key leaf t → s.writeCompletion n i agent source body =
      .ok () ((t.writeView n 0 leaf.prot (key + 4) body).writeView n 0 leaf.prot key
        (natLe 4 (leNat (t.pageRead n leaf.prot key 4) + 1)))) ∧
    (∀ status, State.completionBytes status 0 0 0 [] = natLe 2 status ++ List.replicate 250 0) ∧
    (∀ (used : List Nat) (is : Tab Image) (len k : Nat),
      (State.imageWords is + len ≤ 8192 → State.makeRoom used len k is = is) ∧
      (8192 < State.imageWords is + len →
        (State.oldestIdle used is = none → State.makeRoom used len (k + 1) is = is) ∧
        (∀ e, State.oldestIdle used is = some e → State.makeRoom used len (k + 1) is = State.makeRoom used len k (is.erase e.1))) ∧
      (∀ e, State.oldestIdle used is = some e → e ∈ is ∧ e.1 ∉ used ∧ ∀ o ∈ is, o.1 ∉ used → e.2.started ≤ o.2.started) ∧
      (State.oldestIdle used is = none → ∀ o ∈ is, o.1 ∈ used)) ∧
    (∀ (kept rs : List StartReq) (r : StartReq) (stuck : List Nat), s.scanStarts p kept stuck [] = s ∧
      (r.ctx ∈ stuck → s.scanStarts p kept stuck (r :: rs) = s.scanStarts p (kept ++ [r]) stuck rs) ∧
      (∀ t, r.ctx ∉ stuck → s.tryStart p r = .used t →
        s.scanStarts p kept stuck (r :: rs) = t.onFab p fun f => { f with queue := kept ++ rs })) ∧
    (∀ (r : StartReq) (rs : List StartReq), State.insertFiring r rs =
      rs.takeWhile (fun q => decide (q.order ≤ r.order)) ++ r :: rs.dropWhile (fun q => decide (q.order ≤ r.order))) ∧
    (s.ownStation n p = s.ownFrom n p 64 0 ∧ s.ownFrom n p 0 i = .ok none s ∧
      ∀ k bs u, Loaded s n ((s.ctx n).station.toNat / 4096 * 4096 + 4096 * i) 4096 4 p bs u →
        let mine (j : Nat) : Prop :=
          let e := leNat ((bs.drop (4 * j)).take 4)
          e / 2 ^ 16 % 2 = 1 ∧ e % 2 ^ 13 % 32 = p
        (∀ j < 1024, mine j → (∀ l < j, ¬mine l) → s.ownFrom n p (k + 1) i = .ok (some (1024 * i + j)) u) ∧
        ((∀ j < 1024, ¬mine j) → s.ownFrom n p (k + 1) i = u.ownFrom n p k (i + 1))) ∧
    (∀ y m bs t, s.fslot p i = some y → (s.fab p).images.find? y.image = some m → m.loaded = false →
      s.devSpan m.ctx (m.addr.toNat + 8) (8 * m.len) 4 p false = .ok bs t → ∃ u, exec (.imageLoadComplete p i) s = .next u ∧
        let code := (List.range m.len).map fun k => BitVec.ofNat 64 (leNat ((bs.drop (8 * k)).take 8))
        u.mem = t.mem ∧ u.threads = t.threads ∧ (u.fab p).images.find? y.image = some { m with loaded := true, code := code }) ∧
    (x.en = false ∨ s.underKey x msg.keyBit = none → exec (.remoteEnqueueArrival fd slot msg) s = .next s) ∧
    (∀ y, x.en = true → s.underKey x msg.keyBit = some y →
      exec (.remoteEnqueueArrival fd slot msg) s = .next ((s.setSession fd slot y).orderEnqueue fd slot msg)) ∧
    (x.enqDue < msg.psn → s.orderEnqueue fd slot msg = s.setSession fd slot { x with early := x.early.set msg.psn msg }) ∧
    (msg.psn < x.enqDue →
      (x.enqSeen.find? msg.psn = none → s.orderEnqueue fd slot msg = s) ∧
      (∀ k, x.enqSeen.find? msg.psn = some k → s.orderEnqueue fd slot msg = s.sendOn fd slot (.enqueueAnswer msg.psn k))) ∧
    (msg.psn = x.enqDue →
      s.orderEnqueue fd slot msg = State.takeEarly fd slot x.early.length (s.takeEnqueue fd slot msg) ∧
      let t := s.setSession fd slot { x with enqDue := x.enqDue + 1, early := x.early.erase msg.psn }
      (running x.ctx.toNat → s.takeEnqueue fd slot msg = t.bump.goOnIn fd slot x.ctx.toNat
        ⟨s.serial, msg, none, 96 * (s.ctx x.ctx.toNat).part.toNat, State.payloadParts 4096 msg.target.toNat msg.payload⟩) ∧
      ((s.ctx x.ctx.toNat).state = 0 → s.takeEnqueue fd slot msg = t.answerEnqueue fd slot msg.psn 0x81)) ∧
    (State.takeEarly fd slot 0 s = s ∧ (x.early.find? x.enqDue = none → State.takeEarly fd slot (n + 1) s = s) ∧
      (x.early.find? x.enqDue = some msg → State.takeEarly fd slot (n + 1) s = State.takeEarly fd slot n (s.takeEnqueue fd slot msg))) ∧
    (∀ k, s.answerEnqueue fd slot n k =
      (s.setSession fd slot { x with enqSeen := x.enqSeen.set n k }).sendOn fd slot (.enqueueAnswer n k)) ∧
    (∀ (e : RemoteIn) u, let seq := recordSeq e.msg.record
      (s.writePayload n e.core e.serial e.parts = (none, u) → s.goOnIn fd slot n e =
        (u.errorRecord n 0x04 0x80 0 e.msg.target seq e.core).answerEnqueue fd slot e.msg.psn 0x80) ∧
      (∀ ps, s.writePayload n e.core e.serial e.parts = (some ps, u) → (ps ≠ [] ∨ u.enqLogged e.serial = true) →
        s.goOnIn fd slot n e = u.onSession fd slot fun x => { x with ins := x.ins ++ [{ e with parts := ps }] }) ∧
      (s.writePayload n e.core e.serial e.parts = (some [], u) → u.enqLogged e.serial = false →
        (recordValid e.msg.record = true → s.goOnIn fd slot n e =
          (u.acceptRecord n 0 e.msg.record 2 none (u.dealDie n seq) e.core).answerEnqueue fd slot e.msg.psn 1) ∧
        (recordValid e.msg.record = false → s.goOnIn fd slot n e =
          ((u.acceptRecord n 0 e.msg.record 2 none (fun _ => 0) e.core).errorRecord n 0x04 0x82 0 0 seq e.core).answerEnqueue fd slot
            e.msg.psn 0x82)) ∧
      (∀ va bs ps,
        (∀ t, s.tryPost n p va bs (some i) = .done t → s.writePayload n p i ((va, bs) :: ps) = t.writePayload n p i ps) ∧
        (∀ t, s.tryPost n p va bs (some i) = .later t → s.writePayload n p i ((va, bs) :: ps) = (some ((va, bs) :: ps), t)) ∧
        (∀ t, s.tryPost n p va bs (some i) = .fatal t → s.writePayload n p i ((va, bs) :: ps) = (none, t)))) ∧
    (∀ y bit o, x.en = true → s.underKey x bit = some y →
      let t := s.setSession fd slot y
      (y.outs.find? (fun o => o.sent && o.msg.ack && o.msg.psn == n) = some o →
        exec (.enqueueAck fd slot ⟨n, code, bit⟩) s = .next ((t.storeAck o.ctx o.core o.ack code.toNat).freeOut fd slot o)) ∧
      (y.outs.find? (fun o => o.sent && !o.msg.ack && o.msg.psn == n) = some o →
        exec (.remoteSlotRelease fd ⟨slot, n, bit⟩) s = .next (t.freeOut fd slot o))) ∧
    (n < 128 → ∃ t, exec (.portLinkDown n) s = .next t ∧ n ∈ t.portsDown ∧ (∀ q, q ≠ n → (q ∈ t.portsDown ↔ q ∈ s.portsDown)) ∧
      { t with portsDown := s.portsDown } = s) ∧
    (128 ≤ n → exec (.portLinkDown n) s = .next s) ∧
    exec (.portLinkUp n) s = .next (({ s with portsDown := s.portsDown.filter fun q => q != n } : State).flushPort (n / 4))

/-! ## Events: the hub and the board -/

/-- R6, R22, R74 to R77, R140, R298, R301, R303, R484: claims and the release of ownership, the registers that a read clears, HUB_PARTCFG, register
writes in whole, and the host's accesses to a partition, each byte of which stands where R21 puts its address. -/
def Obligations.OwnershipAndRegisters : Prop :=
  ∀ (s : State) (agent w off size lead pa n c : Nat) (byte : Byte) (value : W64) (bs : List Byte),
    (w < 4 → s.claimOpen agent w = true →
      let t := { s with hub := { s.hub with claims := s.hub.claims.set (128 * w + 71) byte } }
      (s.hub.held = false → t.claimVerifies w = true → s.hub.pendingVectors = [] → exec (.claim agent w byte) s = .next { t with
        free := s.free + 1,
        hub := { t.hub with owner := BitVec.ofNat 2 w, held := true, nonce := Config.randomWord s.free } }) ∧
      (s.hub.held = true ∨ t.claimVerifies w = false → exec (.claim agent w byte) s = .next t)) ∧
    (s.powered = true → s.isOwner agent = true → exec (.release agent) s = .next { s with
      free := s.free + 1, hub := { s.hub with held := false, nonce := Config.randomWord s.free } }) ∧
    (s.hub.held = true → exec .ownerLinkDown s = .next { s with
      free := s.free + 1, hub := { s.hub with held := false, nonce := Config.randomWord s.free } }) ∧
    (s.powered = true → agent < 4 → agent ∉ s.hub.linkDown →
      exec (.deniedRead agent) s = .next { s.emit (.registerData agent 0x100008 (BitVec.ofNat 64
          (s.hub.owner.toNat + (if s.hub.held then 4 else 0) + 256 * s.hub.denied.toNat))) with hub := { s.hub with denied := 0 } } ∧
      (s.hub.ready = true → c < 1024 → exec (.errdropRead agent c) s = .next
        ((s.emit (.registerData agent (0x4000C8 + 256 * c) (BitVec.ofNat 64 ((s.ctx c).state.toNat + (s.ctx c).cause.toNat * 2 ^ 8 +
          (s.ctx c).errdrop.toNat * 2 ^ 16 + (s.ctx c).kslot.toNat * 2 ^ 24)))).onCtx c fun x => { x with errdrop := 0 }))) ∧
    (Owned s agent →
      (partcfgValid value.toNat = true → s.boundIn 0 = [] → (∀ d < 16, s.boundIn (s.leadOf d) = []) →
        exec (.partcfgWrite agent value) s = .next { s with hub := { s.hub with partcfg := value } }) ∧
      (partcfgValid value.toNat = false → ∃ t, exec (.partcfgWrite agent value) s = .next t ∧ t.hub.parterr = true ∧
        t.hub.partcfg = s.hub.partcfg)) ∧
    (s.powered = true → s.hub.ready = true → s.isOwner agent = false → (∀ a o, regAt off ≠ .claim a o) → off % 8 = 0 →
      (regAt off).wide = true → exec (.registerWrite agent off 8 value) s = .next s.deny) ∧
    (Owned s agent → off % size ≠ 0 → (size = 2 ∨ size = 4 ∨ size = 8) → exec (.registerWrite agent off size value) s = .next s.regError) ∧
    (Owned s agent → ∀ q < 8192, (s.wq q).en = false → value.toNat % 64 = 0 →
      exec (.registerWrite agent (0x200000 + 32 * q) 8 value) s = .next (s.setWq q { s.wq q with base := value })) ∧
    (s.powered = true → s.leadOf lead = lead → lead < 16 →
      exec (.hostMemoryAccess lead pa (.read n)) s =
        .next (s.draw.emit (.memoryData lead pa ((List.range n).map fun k => s.hostByte lead (pa + k)))) ∧
      (s.boundIn lead = [] → pa + bs.length ≤ reservedStart (s.diesOf lead) → s.hub.tags = [] → s.hub.enciphered = [] →
        ∃ t, exec (.hostMemoryAccess lead pa (.write bs)) s = .next t ∧ { t with mem := s.mem } = s ∧
          (∀ j < bs.length, t.mem.read (physKey (s.diesOf lead) (pa + j)) = bs.getD j 0) ∧
          ∀ k, (∀ j < bs.length, k ≠ physKey (s.diesOf lead) (pa + j)) → t.mem.read k = s.mem.read k))

/-- R76, R238, R299, R300, R309 to R313: attestation, the board's registers, power, heat, the check of the firmware, and what a warm and a
cold reset leave. That a set of images has the lowest of its versions, that the check uses the staged images up, and that images which
fail it stand as the firmware all the same, are the model's choices (log 49). -/
def Obligations.ResetAndBoard : Prop :=
  ∀ (s : State) (agent idx die : Nat) (byte : Byte) (value : W64) (temp power : Int),
    (s.powered = true → s.isOwner agent = true →
      exec (.warmReset agent) s = .next s.warm ∧
      ∃ t, exec (.attestationRequest agent value) s = .next t ∧ t.hub.attbusy = true ∧
        ∀ k < 8, t.hub.attNonce.get (24 + k) 0 = BitVec.ofNat 8 (value.toNat / 2 ^ (8 * k))) ∧
    (s.hub.attbusy = true → ∃ t, exec .attestationDone s = .next t ∧ t.hub.attbusy = false ∧
      ∀ k < 448, t.hub.report.get k 0 = s.reportBody.getD k 0) ∧
    (s.powered = true → exec (.resetReq 0xA5) s = .next s.warm) ∧ (byte ≠ 0xA5 → exec (.resetReq byte) s = .next s) ∧
    (s.warm.mem = s.mem ∧ s.warm.threads = [] ∧ s.warm.teams = [] ∧ s.warm.wqs = [] ∧ s.warm.hub.held = false ∧
      s.warm.hub.partcfg = s.hub.partcfg ∧ s.warm.hub.keys = s.hub.keys ∧ s.warm.hub.tags = s.hub.tags ∧
      s.warm.hub.enciphered = s.hub.enciphered) ∧
    (∃ t, exec .coldReset s = .next t ∧ t.mem = [] ∧ t.threads = [] ∧ t.ctxs = [] ∧ t.hub.held = false ∧ t.hub.keys = [] ∧
      t.hub.partcfg = 0xFEDCBA9876543210) ∧
    (∃ t, exec .powerRemoval s = .next t ∧ t.mem = [] ∧ t.hub.power = .off) ∧
    (exec (.pwrReq 0) s = .next { s with hub := { s.hub with power := .active } } ∧
      (s.powered = true → s.ctxs = [] → exec (.pwrReq 1) s = .next { s with hub := { s.hub with power := .idle } }) ∧
      (s.powered = true → ∃ t, exec (.pwrReq 2) s = .next t ∧ t.hub.power = .selfref ∧ t.mem = s.mem) ∧
      ∃ t, exec (.pwrReq 3) s = .next t ∧ t.hub.power = .off ∧ t.mem = []) ∧
    (s.hub.agentlock = false → s.hub.agentsel.toNat < 4 → idx < 32 → exec (.agentkeyWrite idx byte) s =
      .next { s with hub := { s.hub with keys := s.hub.keys.set (32 * s.hub.agentsel.toNat + idx) byte } }) ∧
    exec (.agentlock 1) s = .next { s with hub := { s.hub with agentlock := true } } ∧
    (s.hub.agentlock = true → exec (.agentkeyWrite idx byte) s = .next s) ∧
    (die < 21 → 100 ≤ temp → ∃ t, exec (.throttle die temp power) s = .next t ∧ t.hub.throttle = true ∧ t.throttled die = true) ∧
    (die < 21 → (∀ d < 21, d ≠ die → s.hub.temps.get d 0 < 100) → temp < 100 → power ≤ s.hub.pcap.toNat →
      ∃ t, exec (.throttleEnd die temp power) s = .next t ∧ t.hub.throttle = false ∧ ∀ d < 21, t.throttled d = false) ∧
    (die < 21 → 110 ≤ temp →
      ∃ t, exec (.thermalTrip die temp) s = .next t ∧ t.wire.getLast? = some .thermalTrip ∧ t.hub.temps.get die 0 = temp ∧
        t.hub.throttle = true ∧ t.mem = s.mem) ∧
    (let is := if s.hub.staging = [] then s.hub.firmware else Config.stagedImages s.hub.staging s.hub.firmware
     let good : Prop := is.length = 3 ∧ ∀ x ∈ is, Crypto.verify Config.firmwareKey (Crypto.sha512 x.1) x.2.1 = true ∧ s.hub.minVersion ≤ x.2.2
     (s.boot.hub.ready = true ↔ good) ∧ (s.boot.hub.fwerr = true ↔ ¬good) ∧ s.boot.hub.firmware = is ∧ s.boot.hub.staging = [] ∧
     (good → s.hub.minVersion ≤ s.boot.hub.minVersion ∧ ∀ x ∈ is, s.boot.hub.minVersion ≤ x.2.2) ∧
     (¬good → s.boot.hub.minVersion = s.hub.minVersion))

/-! ## Fetching, decoding and the whole machine -/

/-- The words of a chain break a rule of R320: the last one has CHAIN set, two share a pipe or a destination, or a convergence point
stands with another word. -/
abbrev Ungrouped (fs : List FetchedWord) : Prop :=
  (∃ f, fs.getLast? = some f ∧ f.hdr.chain = true) ∨ ¬(fs.map fun f => pipeOf f.ins).Nodup ∨ ¬(fs.flatMap fun f => dests f.ins).Nodup ∨
    (1 < fs.length ∧ ∃ f ∈ fs, isConvergence f.ins = true)

/-- R38, R39, R217, R218, R249, R273, R275, R315, R319, R320, R340, R342: a step runs the instruction that its agent fetches. The bundle of a core's
key thread issues, thread by thread. A thread fetches the word at its program counter, and with it the words chained to it: a word with a
true guard is `exec` of the decoded instruction, then comes the settling of the issue; with a false guard nothing comes before that. A
word that is no instruction traps, and so does an illegal bundle; of a chain, no word takes effect when one traps or waits, and else the words
run on the operands as they stood before it. A slot executes the instruction of its image at its program counter, and an event of the
module happens as `exec` says. A chain that holds an illegal word takes the trap of the first one. The order of the other traps of a
bundle and of a chain, and a pending guard that comes first, are the model's
readings (log 26); that a bundle issues whole in one turn (log 10) and that a throttled core issues in odd cycles (log 43) are its choices. -/
def Obligations.StepRunsTheDecodedInstruction : Prop :=
  (∀ (s : State) (k : Nat) (ts : List Turn), s.turns = .core k :: ts → s.powered = true → k < 1536 → s.throttled (k / 96) = true →
    s.cycle % 2 = 0 → step s = .next { s with turns := ts }) ∧
  (∀ (s : State) (k key : Nat) (ts : List Turn), s.turns = .core k :: ts → s.powered = true → k < 1536 →
    (s.throttled (k / 96) = false ∨ s.cycle % 2 = 1) →
    let s0 : State := { s with turns := ts }
    (s0.keyThread k = none → step s = .next s0) ∧
    (s0.keyThread k = some key → ∀ point s1, (s0.place key).atPoint = (point, s1) →
      let c := s1.ctxOf key
      let pc := (s1.thread key).pc
      let is := s1.bundleOf k key point
      let s2 : State := { s1.bump with iss := { s1.iss with bundle := is, bundleId := s1.serial } }
      (point = true → step s = State.issueAll pc s2 is) ∧
      (point = false → s1.hasBudget c 0 k = true → step s = State.issueAll pc (s2.charge c 0 k 1) is) ∧
      (point = false → s1.hasBudget c 0 k = false → step s = .next (is.foldl (fun s i => s.parkThread i .budget) s2)))) ∧
  (∀ (s : State) (pc : W64) (i : Nat) (is : List Nat),
    (s.canIssue i = true → (s.thread i).pc = pc → State.issueAll pc s (i :: is) = match s.issueThread i with
      | .next t => State.issueAll pc t is
      | o => o) ∧
    (s.canIssue i = false ∨ (s.thread i).pc ≠ pc → State.issueAll pc s (i :: is) = State.issueAll pc s is) ∧
    State.issueAll pc s [] = .next s) ∧
  (∀ (s : State) (i : Nat) (w : W32) (s1 : State),
      let pc := (s.thread i).pc
      (s.place i).fetchWord pc = .ok w s1 → (headerOf w).chain = false →
      let next := (pc + 4) &&& 0x1FFFFFFFFFFFFFF
      let s2 : State := { s1 with iss := { s1.iss with npc := next, after := next, inChain := false, switch := (headerOf w).switch } }
      let s3 : State := { s2 with iss := { s2.iss with word := pc } }
      let settled (t : State) := t.settleIssue i (headerOf w).switch (decide (s2.versionLines < t.versionLines))
      (∀ h ins, decodeWord w = .ok (h, ins) →
        let guard := h.gsel.toNat = 7 ∨ (s3.opnd.predPending h.gsel.toNat = false ∧ s3.p h.gsel.toNat ≠ h.gneg)
        (guard → s.issueThread i = match exec ins s3 with
          | .next t => .next (settled t)
          | o => o) ∧
        (h.gsel.toNat ≠ 7 → s3.opnd.predPending h.gsel.toNat = true →
          s.issueThread i = .next (settled (s3.raise 0x04 0 (BitVec.ofNat 32 (h.gsel.toNat + 128))))) ∧
        (h.gsel.toNat ≠ 7 → s3.opnd.predPending h.gsel.toNat = false → s3.p h.gsel.toNat = h.gneg →
          s.issueThread i = .next (settled s3))) ∧
      (∀ e, decodeWord w = .error e → s.issueThread i = .next (settled (s2.raise 0x01 0 0)))) ∧
  (∀ (s : State) (i : Nat) (ws : List (W64 × W32)) (s1 : State),
      let s0 := s.place i
      State.fetchChain (State.wordsLeft (s.thread i).pc) s0 (s.thread i).pc = .ok ws s1 →
      let s2 := s1.placeChain ws
      let settled (t : State) := t.settleIssue i s2.iss.switch (decide (s2.versionLines < t.versionLines))
      (readWords ws = none → s.issueThread i = .next (settled (s2.raise 0x01 0 0))) ∧
      (∀ fs, readWords ws = some fs →
        let runs := fs.map s2.runWord
        (Ungrouped fs →
          (runs.find? State.illegal = none → s.issueThread i = .next (settled (s2.raise 0x02 0 0))) ∧
          (∀ t, runs.find? State.illegal = some (.next t) → s.issueThread i = .next (settled t))) ∧
        (¬Ungrouped fs → 1 < fs.length →
          (∀ t, runs.find? State.illegal = some (.next t) → s.issueThread i = .next (settled t)) ∧
          (∀ t, runs.find? State.illegal = none → runs.find? (State.leaves .trapped) = some (.next t) →
            s.issueThread i = .next (settled t)) ∧
          (∀ t, runs.find? State.illegal = none → runs.find? (State.leaves .trapped) = none →
            runs.find? (State.leaves .waiting) = some (.next t) → s.issueThread i = .next (settled t)) ∧
          (∀ t, runs.find? State.illegal = none → runs.find? (State.leaves .trapped) = none →
            runs.find? (State.leaves .waiting) = none →
            State.runAll { s2 with iss := { s2.iss with snap := some s2.thr, spSnap := some (s2.team s2.curTeam).sp } } (chainOrder fs) =
              .next t →
            (t.iss.out = .done ∨ t.iss.out = .gone → s.issueThread i = .next (settled t)) ∧
            (t.iss.out = .trapped → ∀ cause a x, t.iss.raised = some (cause, a, x) →
              s.issueThread i = .next (settled (s2.raise cause a x))) ∧
            (t.iss.out = .waiting → ∃ u, s.issueThread i = .next u ∧ (u.thread i).regs = (s2.thread i).regs ∧
              (u.thread i).preds = (s2.thread i).preds ∧ (u.thread i).pc = (s2.thread i).pc))))) ∧
  (∀ (s : State) (th : Thread), s.iss.snap = some th → s.opnd = th) ∧
  (∀ (s : State) (p i : Nat) (ts : List Turn) (x y : FSlot) (m : Image) (w : W64) (ins : Instr),
    s.turns = .fabric p :: ts → s.powered = true → p < 32 → s.nextSlot p = some i → s.fslot p i = some x →
      let s0 := ({ s with turns := ts } : State).onFab p fun f => { f with turn := (i + 1) % 16 }
      let s1 := if x.prog = 0 then s0.lapseSlot p i x else s0
      ((∀ r ∈ x.recvs, r.met = true ∨ r.openR = false ∨ ∀ d, r.deadline = some d → s.cycle ≤ d) → s1 = s0) ∧
      (s1.fslot p i = none → step s = .next s1) ∧
      (s1.fslot p i = some y →
        (s1.slotStopped y = true → step s = .next (s1.waitFSlot p i .switchedOut)) ∧
        (s1.slotStopped y = false → y.ending.isSome = true → step s = .next (s1.finishSlot p i)) ∧
        (s1.slotStopped y = false → y.ending = none → y.prog = 0 → s1.foldsDue p i = true → let u := s1.foldSlot p i
          (u.foldsBad p i = true → step s = .next ((u.dropBad p i).beginEnd p i 8)) ∧
          (u.foldsBad p i = false → step s = .next (if u.foldsDue p i = true then u.waitFSlot p i .memory else u))) ∧
        (s1.slotStopped y = false → y.ending = none → (y.prog ≠ 0 ∨ s1.foldsDue p i = false) →
          (s1.fab p).images.find? y.image = some m →
          (y.pc < m.len → m.code[y.pc]? = some w → decodeFx w = .ok ins →
            step s = exec ins { s1 with iss := { s1.iss with proc := p, slot := i, fnext := y.pc + 1, joint := [] } }) ∧
          (m.len ≤ y.pc → step s = .next (s1.beginEnd p i 4)) ∧
          (∀ e, m.code[y.pc]? = some w → decodeFx w = .error e → step s = .next (s1.beginEnd p i 4))))) ∧
  (∀ (s : State) (x : FSlot), (s.ctx x.ctx).state = 1 → s.slotStopped x = false) ∧
  (∀ (s : State) (ts : List Turn) (e : Instr), s.turns = .event e :: ts → s.powered = true → isEvent e = true → e.wf →
    step s = exec e ({ s with turns := ts } : State).newRequest)

/-- Words that the spec writes out, read by the decoder (R344, R356, R364, R428, R434, R447, R450, R459, and the Akpor examples of R394 and
R405). -/
def Obligations.DecodedWords : Prop :=
  (decodeWord 0x1C8861FF).toOption = some (.plain, .addImm 3 3 (-1)) ∧
  (decodeWord 0x1CE8C189).toOption = some (.plain, .cmpLtu 6 3 4 true) ∧
  (decodeWord 0x1CB02104).toOption = some (.plain, .shlImm 1 2 4) ∧
  (decodeWord 0x1DB02101).toOption = some (.plain, .pnot 1 2 true) ∧
  (decodeWord 0x1C202107).toOption = some (.plain, .mulh 1 2 3 true) ∧
  (decodeWord 0x02C7FFF4).toOption = some (⟨false, false, false, 0⟩, .br (-12)) ∧
  (decodeWord 0x0EF00005).toOption = some (⟨false, false, false, 3⟩, .trap 5) ∧
  (decodeWord 0x1EA80003).toOption = some (.plain, .rfe) ∧
  (decodeFx 0x3C00000000210007).toOption = some (.fxStep 0 0x210007) ∧
  (decodeFx 0x2007000000000002).toOption = some (.fxLoop 7 2)

/-- The bits of a row's word (R314, R331): 32 for a Gorbex instruction, 64 for an Akpor instruction, and none for an event, which no word
names. -/
def rowBits : Instr → Nat
  | .fxLi .. | .fxLd .. | .fxSt .. | .fxAdd .. | .fxCmp .. | .fxBr .. | .fxBcc .. | .fxLoop .. | .fxEnd .. | .fxDeadline ..
  | .fxQuorum .. | .fxHist .. | .fxScale .. | .fxItin .. | .fxStep .. | .fxSend .. | .fxRecv .. | .fxWait .. | .fxMatch ..
  | .fxRed .. | .fxResid .. | .fxPack1 .. | .fxPack3 .. | .fxPackq .. | .fxUnpack .. | .fxGather .. | .fxSig .. => 64
  | .variableResultWrite .. | .groupExchange .. | .forcedExchange .. | .exchangeDone .. | .slotFill .. | .yieldResume ..
  | .rclaimGrant .. | .teamPlacement .. | .balanceExchange .. | .budgetPeriod .. | .scratchpadCompaction .. | .wqRecordFetch ..
  | .futureWalk .. | .remoteEnqueueArrival .. | .enqueueAck .. | .jobSector .. | .sectorLand .. | .intervalRetire ..
  | .mmaMultiplyStart .. | .mmaComplete .. | .cloneStart .. | .outboxEntry .. | .viewSweep .. | .faultRetry .. | .faultFatal ..
  | .xinv .. | .xinvComplete .. | .contextTeardown .. | .watchdog .. | .fabricWatchdog .. | .switchOut .. | .drainLimit ..
  | .teamSaveComplete .. | .switchOutComplete .. | .switchIn .. | .teamRestore .. | .contextBind .. | .contextKill ..
  | .scrubCoreState .. | .scrubGranule .. | .scrubJournalWrite .. | .scrubEnd .. | .handshakeRetry .. | .keyRotationStart ..
  | .keySwitch .. | .oldKeyDiscard .. | .transportGiveUp .. | .startRequest .. | .imageLoadComplete .. | .deferredFireRelease ..
  | .receiveDeadline .. | .storePerformed .. | .packetRetransmit .. | .wqDoorbell .. | .wqEnable .. | .wqDisable ..
  | .wqErrClear .. | .claim .. | .release .. | .ownerLinkDown .. | .deniedRead .. | .errdropRead .. | .partcfgWrite ..
  | .registerWrite .. | .hostMemoryAccess .. | .attestationRequest .. | .attestationDone .. | .warmReset .. | .coldReset ..
  | .resetReq .. | .pwrReq .. | .agentkeyWrite .. | .agentlock .. | .throttle .. | .thermalTrip .. | .sessionEnable ..
  | .sessionDisable .. | .sessionFailedClear .. | .handshakeOffer .. | .handshakeAnswer .. | .packetArrival .. | .acceptResponse ..
  | .lateResponse .. | .portLinkDown .. | .portLinkUp .. | .throttleEnd .. | .powerRemoval .. | .remoteSlotRelease ..
  | .partitionSwap .. | .debuggerHalt .. => 0
  | _ => 32

/-- R314, R331, R340, R332: every well-formed instruction of the two processors has an encoding, under every header that it may carry, and
an event has none; the decoder reads every encoded instruction back, with every operand: a Gorbex word with its header, an Akpor word,
and the stored bytes of either, whatever follows them. -/
def Obligations.EncodingRoundTrip : Prop :=
  (∀ (h : Header) (i : Instr) (w : W32), i.wf → headerOk h i = true → encodeWord h i = some w →
    decodeWord w = .ok (h, i) ∧ ∀ bs, decodeBytes (leBytes 4 w.toNat ++ bs) = .ok ((h, i), bs)) ∧
  (∀ (i : Instr) (w : W64), i.wf → encodeFx i = some w →
    decodeFx w = .ok i ∧ ∀ bs, decodeFxBytes (leBytes 8 w.toNat ++ bs) = .ok (i, bs)) ∧
  (∀ (h : Header) (i : Instr), (encodeWord h i).isSome = true ↔ rowBits i = 32) ∧
  ∀ i : Instr, (encodeFx i).isSome = true ↔ rowBits i = 64

/-- R317, R332, R340: the decoder accepts no word but the encoder's: unused fields and every other bit are checked. -/
def Obligations.DecodingIsExact : Prop :=
  (∀ (w : W32) (h : Header) (i : Instr), decodeWord w = .ok (h, i) → i.wf ∧ headerOk h i = true ∧ encodeWord h i = some w) ∧
  (∀ (w : W64) (i : Instr), decodeFx w = .ok i → i.wf ∧ encodeFx i = some w)

/-- The values that the spec's register tables give for reset (R70, R74, R90, R142, R234, R235, R238, R251, R271, R300, R301, R303), and the
canonical form of the empty memory. -/
def Obligations.ResetState : Prop :=
  let s := State.reset
  Canonical s ∧ s.statusWord = 0 ∧ s.readReg .own = 0 ∧ (∀ d < 16, s.leadOf d = d) ∧
  (∀ q, s.readReg (.wqBase q) = 0 ∧ s.readReg (.wqCfg q) = 0 ∧ s.readReg (.wqHead q) = 0 ∧ s.readReg (.wqDoorbell q) = 0) ∧
  (∀ c, s.readReg (.ctl c) = 0 ∧ s.readReg (.ctxstat c) = 0 ∧ s.readReg (.word c 0x38) = 20 ∧ (∀ i < 4, s.readReg (.budget c i) = 0xFFFFFFFF) ∧
    s.readReg (.word c 0xB8) = 0xFFFFFFFF00000010 ∧
    ∀ off ∈ [0x08, 0x10, 0x18, 0x20, 0x28, 0x30, 0x40, 0x48, 0x50, 0x60, 0x68, 0x70, 0x78, 0x80, 0x88, 0x90, 0x98, 0xA0],
      s.readReg (.word c off) = 0) ∧
  (∀ p i, s.readReg (.counter p i) = 0) ∧ s.threads = [] ∧ s.teams = [] ∧ s.hub.held = false

/-- The memory keeps its canonical form in every step: equal memories are equal data, so a byte that is written back to what an unlisted
byte reads as leaves no trace (assumption 1). -/
def Obligations.EveryStepKeepsMemoryCanonical : Prop :=
  ∀ s t : State, Canonical s → step s = .next t → Canonical t

/-- No step stops the machine: in every state, whatever moves next, the step answers a next state. Every trap, wait and refused write of the
spec is a next state. -/
def Obligations.EveryStepGoesOn : Prop := ∀ s : State, GoesOn (step s)

/-! ## Events: balancing, budgets and compaction -/

/-- R10, R80, R91, R107, R148: every 2 µs an engine pushes half of what it has more than a neighbour of its partition, where that is more
than the context's threshold, lowest priority and youngest first, and no clone but a saved one (R289); a pushed team is in no line until it
arrives; every 12,500 cycles the budgets are divided and the threads that wait for one are ready; a core moves a team's allocation, or a
twin's upper half, to a free place while nothing of the team is outstanding there, and the team pauses (R40). -/
def Obligations.BalanceAndBudgets : Prop :=
  (∀ (s : State) (d c e : Nat) (es : List Nat),
    let mine := (s.waitingOf d c).length
    let theirs := (s.waitingOf e c).length
    let thresh := (s.ctx c).bal.toNat % 2 ^ 16
    let u := s.pushTo d c [e]
    let ts := (s.pushOrder d c).take ((mine - theirs) / 2)
    (s.cycle / 2500 ≤ (s.engine d).lastBal → exec (.balanceExchange d) s = .next s) ∧
    ((s.engine d).lastBal < s.cycle / 2500 →
      let near := ((if 4 ≤ d then [d - 4] else []) ++ (if d % 4 < 3 then [d + 1] else []) ++ (if d / 4 ≠ 3 then [d + 4] else [])
        ++ (if d % 4 ≠ 0 then [d - 1] else [])).filter fun n => s.leadOf n == s.leadOf d
      ∃ cs : List Nat, exec (.balanceExchange d) s = .next (cs.foldl (fun v c => v.pushTo d c near)
          (s.setEngine d { s.engine d with lastBal := s.cycle / 2500 })) ∧ ∀ c, s.waitingOf d c ≠ [] → c ∈ cs) ∧
    s.pushTo d c [] = s ∧ s.pushTo d c (e :: es) = u.pushTo d c es ∧
    (thresh = 0 ∨ mine ≤ theirs + thresh → u = s) ∧
    (thresh ≠ 0 → theirs + thresh < mine →
      (∀ t ∈ ts, (u.team t).die = e ∧ (u.team t).transit = true) ∧ (∀ t, t ∉ ts → u.team t = s.team t) ∧
        { u with teams := s.teams } = s) ∧
    (s.pushOrder d c).Pairwise (fun a b => s.effective a ≤ s.effective b ∧
      (s.effective a = s.effective b → (s.team b).firstQueued ≤ (s.team a).firstQueued)) ∧
    (∀ t, t ∈ s.pushOrder d c ↔ t ∈ s.waitingOf d c ∧ ((s.team t).clone = false ∨ (s.team t).image.isSome = true))) ∧
  (∀ (s : State) (d t : Nat) (ts : List Turn),
    (∀ x : Team, x.transit = true → s.queuedAt d x = false) ∧
    (s.turns = .arrival t :: ts →
      step s = .next (({ s with turns := ts } : State).onTeam t fun x => { x with transit := false }))) ∧
  (∀ s : State,
    (s.cycle < s.hub.periodStart + 12500 → exec .budgetPeriod s = .next s) ∧
    (s.hub.periodStart + 12500 ≤ s.cycle → ∃ u : State, (let v := (s.ctxs.map (·.1)).foldl (fun v c => v.retryHeld c) u
        exec .budgetPeriod s = .next ((v.sessions.filter fun e => !e.2.pend.isEmpty).foldl
          (fun v e => v.flushPend (e.1 / 8192) (e.1 % 8192)) v)) ∧
      u.hub = { s.hub with periodStart := s.cycle / 12500 * 12500 } ∧ u.mem = s.mem ∧
      (∀ i, (u.thread i).wait = if (s.thread i).wait = .budget then .ready else (s.thread i).wait) ∧
      ∀ c ∈ s.ctxs.map (·.1),
        let x := s.ctx c
        let n := (s.ctxDies c).length
        let mask : BitVec 32 := x.bal.extractLsb' 32 32
        let share (b : W32) (k : Nat) : Nat := if b = 0xFFFFFFFF then 0xFFFFFFFF else b.toNat / max 1 k
        let fab := share x.budgetFabric ((List.range 32).countP fun p => mask.getLsbD p)
        (u.ctx c).shares = [share x.budgetIssue (96 * n), share x.budgetHbm n, share x.budgetCopy n, fab] ∧
          (∀ kind < 3, ∀ point < 4096, (u.ctx c).spent.get (kind * 4096 + point) 0 = 0) ∧
          (x.budgetFabric ≠ 0xFFFFFFFF → ∀ p < 32, u.hasBudget c 3 p = (mask.getLsbD p && decide (0 < fab))))) ∧
  (∀ (s : State) (t place : Nat), s.onCores t = true → (∀ iv ∈ s.ivalsOfTeam t, iv.space ≠ .sp t) → s.jobsOf t = [] →
    let x := s.team t
    let lo := if x.record.twin then (x.record.scratch + 1) / 2 else x.record.scratch
    let hi := if x.record.twin then x.record.scratch / 2 else 0
    (place < 256 → place + lo ≤ 256 → (∀ e ∈ s.usedScratch x.core t, place + lo ≤ e.1 ∨ e.2 ≤ place) →
      exec (.scratchpadCompaction t place) s = .next ((s.onTeam t fun x => { x with spPlace := place }).pauseTeam t)) ∧
    (256 ≤ place → x.record.twin = true → place + hi ≤ 512 →
      (∀ e ∈ s.usedScratch (x.core + 1) t, place - 256 + hi ≤ e.1 ∨ e.2 ≤ place - 256) →
      exec (.scratchpadCompaction t place) s = .next ((s.onTeam t fun x => { x with spPlaceHi := place - 256 }).pauseTeam t)) ∧
    { s.pauseTeam t with threads := s.threads } = s ∧
    ∀ i, let th := s.thread i
      (i ∈ s.liveOf t ∧ th.wait = .ready ∧ th.arrival = none → ((s.pauseTeam t).thread i).wait = .compaction ∧
        { (s.pauseTeam t).thread i with wait := th.wait, waited := th.waited, waitCount := th.waitCount } = th) ∧
      (¬(i ∈ s.liveOf t ∧ th.wait = .ready ∧ th.arrival = none) → (s.pauseTeam t).thread i = th))
end

