-- ==== Sys2Proof/Laws/Memory.lean ====
section
/-! SUPPORT. Memory: every operation keeps the canonical form, a byte written is read back, and every other byte stays. -/

namespace Sys2Proof.Machine.Memory

theorem wfFrom_mono {lo lo' : Nat} {m : Memory} (h : wfFrom lo m = true) (hl : lo' ≤ lo) : wfFrom lo' m = true := by
  cases m with
  | nil => rfl
  | cons e m => simp only [wfFrom, Bool.and_eq_true, decide_eq_true_eq] at *; exact ⟨⟨by omega, h.1.2⟩, h.2⟩

theorem wfFrom_remove {lo : Nat} {m : Memory} (k : Nat) (h : wfFrom lo m = true) : wfFrom lo (remove m k) = true := by
  induction m generalizing lo with
  | nil => rfl
  | cons e m ih =>
    simp only [wfFrom, Bool.and_eq_true, decide_eq_true_eq] at h
    simp only [remove]
    split
    · exact ih (wfFrom_mono h.2 (by omega))
    · simp only [wfFrom, Bool.and_eq_true, decide_eq_true_eq]; exact ⟨h.1, ih h.2⟩

/-- After a removal the key is in no entry. -/
theorem remove_key (m : Memory) (k : Nat) : ∀ e ∈ remove m k, e.1 ≠ k := by
  induction m with
  | nil => simp [remove]
  | cons e m ih => simp only [remove]; split <;> simpa [*] using ih

theorem wfFrom_insert {lo : Nat} {m : Memory} {k : Nat} {b : Byte} (h : wfFrom lo m = true) (hl : lo ≤ k) (hb : b ≠ 0)
    (hk : ∀ e ∈ m, e.1 ≠ k) : wfFrom lo (insert m k b) = true := by
  induction m generalizing lo with
  | nil => simpa [insert, wfFrom, hl] using hb
  | cons e m ih =>
    have hne := hk e (by simp)
    simp only [wfFrom, Bool.and_eq_true, decide_eq_true_eq] at h
    simp only [insert]
    split
    · simp only [wfFrom, Bool.and_eq_true, decide_eq_true_eq]
      exact ⟨h.1, ih h.2 (by omega) fun e' he' => hk e' (by simp [he'])⟩
    · simp only [wfFrom, Bool.and_eq_true, decide_eq_true_eq]
      exact ⟨⟨hl, by simpa using hb⟩, ⟨by omega, h.1.2⟩, h.2⟩

/-- A write keeps the canonical form. -/
theorem wf_write {m : Memory} (k : Nat) (b : Byte) (h : m.wf = true) : (m.write k b).wf = true := by
  unfold write
  split
  · exact wfFrom_remove k h
  · exact wfFrom_insert (wfFrom_remove k h) (Nat.zero_le _) ‹_› (remove_key m k)

/-- A write of bytes keeps the canonical form. -/
theorem wf_writes {m : Memory} (k : Nat) (bs : List Byte) (h : m.wf = true) : (m.writes k bs).wf = true := by
  induction bs generalizing m k with
  | nil => exact h
  | cons b bs ih => exact ih _ (wf_write k b h)

theorem wf_nil : wf [] = true := rfl

theorem read_remove (m : Memory) (k j : Nat) : (remove m k).read j = if j = k then 0 else m.read j := by
  induction m with
  | nil => simp [remove, read]
  | cons e m ih =>
    simp only [remove]
    split
    · rw [ih]; by_cases hj : j = k <;> simp_all [read]; intro h; exact absurd h.symm hj
    · simp only [read, ih]; by_cases hj : j = k <;> simp_all

theorem read_insert (m : Memory) (k j : Nat) (b : Byte) (hk : ∀ e ∈ m, e.1 ≠ k) :
    (insert m k b).read j = if j = k then b else m.read j := by
  induction m with
  | nil => simp [insert, read, eq_comm]
  | cons e m ih =>
    have hne := hk e (by simp)
    have ih := ih fun e' he' => hk e' (by simp [he'])
    simp only [insert]
    split
    · simp only [read, ih]; by_cases hj : j = k <;> simp_all
    · by_cases hj : j = k
      · simp [read, hj]
      · simp [read, hj, show ¬ k = j from fun h => hj h.symm]

/-- A byte written is read back, and every other byte is as before. -/
theorem read_write (m : Memory) (k j : Nat) (b : Byte) : (m.write k b).read j = if j = k then b else m.read j := by
  unfold write
  split
  · simp_all [read_remove]
  · rw [read_insert _ _ _ _ (remove_key m k), read_remove]; split <;> simp_all

/-- A key below or past the bytes written reads as before. -/
theorem read_writes_other (m : Memory) (k j : Nat) (bs : List Byte) (h : j < k ∨ k + bs.length ≤ j) :
    (m.writes k bs).read j = m.read j := by
  induction bs generalizing m k with
  | nil => rfl
  | cons b bs ih =>
    simp only [List.length_cons] at h
    simp only [writes]
    rw [ih _ _ (by omega), read_write, if_neg (by omega)]

/-- The bytes written are read back. -/
theorem read_writes_same (m : Memory) (k i : Nat) (bs : List Byte) (h : i < bs.length) :
    (m.writes k bs).read (k + i) = bs[i] := by
  induction bs generalizing m k i with
  | nil => simp at h
  | cons b bs ih =>
    simp only [writes]
    cases i with
    | zero => rw [read_writes_other _ _ _ _ (by omega), read_write]; simp
    | succ i =>
      have := ih (m.write k b) (k + 1) i (by simpa using h)
      simpa [show k + (i + 1) = k + 1 + i by omega] using this

end Sys2Proof.Machine.Memory
end

