-- ==== Sys2Proof/Laws/Tab.lean ====
section
/-! SUPPORT. Sparse tables: what is read after a write, an erasure or a change of every entry. -/

namespace Sys2Proof.Tab

variable {α : Type}

/-- A write is read back at its key, and leaves every other key alone. -/
theorem find?_set (t : Tab α) (k j : Nat) (v : α) : (t.set k v).find? j = if j = k then some v else t.find? j := by
  induction t with
  | nil => simp [set, find?, eq_comm]
  | cons e t ih =>
    rcases e with ⟨k', v'⟩
    simp only [set]
    split
    · simp only [find?, ih]
      by_cases hj : j = k <;> by_cases hk : k' = j <;> simp_all
    · by_cases hj : j = k
      · subst hj; split <;> simp [find?]
      · have hk : ¬ k = j := fun e => hj e.symm
        split
        · rename_i _ h; subst h; simp [find?, hk]
        · simp [find?, hk]

theorem get_set (t : Tab α) (k j : Nat) (v d : α) : (t.set k v).get j d = if j = k then v else t.get j d := by
  simp only [get, find?_set]; split <;> rfl

@[simp] theorem find?_set_same (t : Tab α) (k : Nat) (v : α) : (t.set k v).find? k = some v := by simp [find?_set]

@[simp] theorem get_set_same (t : Tab α) (k : Nat) (v d : α) : (t.set k v).get k d = v := by simp [get_set]

/-- An erased key reads as the default, and every other key as before. -/
theorem find?_erase (t : Tab α) (k j : Nat) : (t.erase k).find? j = if j = k then none else t.find? j := by
  induction t with
  | nil => simp [erase, find?]
  | cons e t ih =>
    rcases e with ⟨k', v'⟩
    simp only [erase]
    split
    · rw [ih]
      by_cases hj : j = k <;> by_cases hk : k' = j <;> simp_all [find?]
    · simp only [find?, ih]
      by_cases hj : j = k <;> by_cases hk : k' = j <;> simp_all

/-- A change of every entry changes what is read at each key. -/
theorem find?_mapVals (t : Tab α) (f : Nat → α → α) (j : Nat) : (t.mapVals f).find? j = (t.find? j).map (f j) := by
  induction t with
  | nil => rfl
  | cons e t ih => simp only [mapVals, find?, ih]; split <;> simp_all

@[simp] theorem get_nil (j : Nat) (d : α) : get ([] : Tab α) j d = d := rfl

@[simp] theorem find?_nil (j : Nat) : find? ([] : Tab α) j = none := rfl

end Sys2Proof.Tab
end

