-- ==== Sys2Proof/Laws/State.lean ====
section
/-! SUPPORT. What each update of the state does to each of its fields, so that no proof unfolds a record update. -/

namespace Sys2Proof.Machine.State

/-! `setThread` -/

@[simp] theorem setThread_cycle (s : State) (i : Nat) (t : Thread) : (s.setThread i t).cycle = s.cycle := rfl
@[simp] theorem setThread_mem (s : State) (i : Nat) (t : Thread) : (s.setThread i t).mem = s.mem := rfl
@[simp] theorem setThread_groups (s : State) (i : Nat) (t : Thread) : (s.setThread i t).groups = s.groups := rfl
@[simp] theorem setThread_teams (s : State) (i : Nat) (t : Thread) : (s.setThread i t).teams = s.teams := rfl
@[simp] theorem setThread_cores (s : State) (i : Nat) (t : Thread) : (s.setThread i t).cores = s.cores := rfl
@[simp] theorem setThread_engines (s : State) (i : Nat) (t : Thread) : (s.setThread i t).engines = s.engines := rfl
@[simp] theorem setThread_ctxs (s : State) (i : Nat) (t : Thread) : (s.setThread i t).ctxs = s.ctxs := rfl
@[simp] theorem setThread_wqs (s : State) (i : Nat) (t : Thread) : (s.setThread i t).wqs = s.wqs := rfl
@[simp] theorem setThread_hub (s : State) (i : Nat) (t : Thread) : (s.setThread i t).hub = s.hub := rfl
@[simp] theorem setThread_fabs (s : State) (i : Nat) (t : Thread) : (s.setThread i t).fabs = s.fabs := rfl
@[simp] theorem setThread_sessions (s : State) (i : Nat) (t : Thread) : (s.setThread i t).sessions = s.sessions := rfl
@[simp] theorem setThread_portsDown (s : State) (i : Nat) (t : Thread) : (s.setThread i t).portsDown = s.portsDown := rfl
@[simp] theorem setThread_wire (s : State) (i : Nat) (t : Thread) : (s.setThread i t).wire = s.wire := rfl
@[simp] theorem setThread_turns (s : State) (i : Nat) (t : Thread) : (s.setThread i t).turns = s.turns := rfl
@[simp] theorem setThread_free (s : State) (i : Nat) (t : Thread) : (s.setThread i t).free = s.free := rfl
@[simp] theorem setThread_serial (s : State) (i : Nat) (t : Thread) : (s.setThread i t).serial = s.serial := rfl
@[simp] theorem setThread_iss (s : State) (i : Nat) (t : Thread) : (s.setThread i t).iss = s.iss := rfl
@[simp] theorem setThread_dbg (s : State) (i : Nat) (t : Thread) : (s.setThread i t).dbg = s.dbg := rfl
@[simp] theorem setThread_get_group (s : State) (i : Nat) (t : Thread) (j : Nat) : (s.setThread i t).group j = s.group j := rfl
@[simp] theorem setThread_get_team (s : State) (i : Nat) (t : Thread) (j : Nat) : (s.setThread i t).team j = s.team j := rfl
@[simp] theorem setThread_get_core (s : State) (i : Nat) (t : Thread) (j : Nat) : (s.setThread i t).core j = s.core j := rfl
@[simp] theorem setThread_get_ctx (s : State) (i : Nat) (t : Thread) (j : Nat) : (s.setThread i t).ctx j = s.ctx j := rfl
@[simp] theorem setThread_get_wq (s : State) (i : Nat) (t : Thread) (j : Nat) : (s.setThread i t).wq j = s.wq j := rfl
@[simp] theorem setThread_get_fab (s : State) (i : Nat) (t : Thread) (j : Nat) : (s.setThread i t).fab j = s.fab j := rfl
@[simp] theorem setThread_get_engine (s : State) (i : Nat) (t : Thread) (j : Nat) : (s.setThread i t).engine j = s.engine j := rfl
@[simp] theorem setThread_get (s : State) (i j : Nat) (t : Thread) : (s.setThread i t).thread j = if j = i then t else s.thread j := by
  simp [setThread, State.thread, Tab.get_set]

/-! `setGroup` -/

@[simp] theorem setGroup_cycle (s : State) (g : Nat) (x : Group) : (s.setGroup g x).cycle = s.cycle := rfl
@[simp] theorem setGroup_mem (s : State) (g : Nat) (x : Group) : (s.setGroup g x).mem = s.mem := rfl
@[simp] theorem setGroup_threads (s : State) (g : Nat) (x : Group) : (s.setGroup g x).threads = s.threads := rfl
@[simp] theorem setGroup_teams (s : State) (g : Nat) (x : Group) : (s.setGroup g x).teams = s.teams := rfl
@[simp] theorem setGroup_cores (s : State) (g : Nat) (x : Group) : (s.setGroup g x).cores = s.cores := rfl
@[simp] theorem setGroup_engines (s : State) (g : Nat) (x : Group) : (s.setGroup g x).engines = s.engines := rfl
@[simp] theorem setGroup_ctxs (s : State) (g : Nat) (x : Group) : (s.setGroup g x).ctxs = s.ctxs := rfl
@[simp] theorem setGroup_wqs (s : State) (g : Nat) (x : Group) : (s.setGroup g x).wqs = s.wqs := rfl
@[simp] theorem setGroup_hub (s : State) (g : Nat) (x : Group) : (s.setGroup g x).hub = s.hub := rfl
@[simp] theorem setGroup_fabs (s : State) (g : Nat) (x : Group) : (s.setGroup g x).fabs = s.fabs := rfl
@[simp] theorem setGroup_sessions (s : State) (g : Nat) (x : Group) : (s.setGroup g x).sessions = s.sessions := rfl
@[simp] theorem setGroup_portsDown (s : State) (g : Nat) (x : Group) : (s.setGroup g x).portsDown = s.portsDown := rfl
@[simp] theorem setGroup_wire (s : State) (g : Nat) (x : Group) : (s.setGroup g x).wire = s.wire := rfl
@[simp] theorem setGroup_turns (s : State) (g : Nat) (x : Group) : (s.setGroup g x).turns = s.turns := rfl
@[simp] theorem setGroup_free (s : State) (g : Nat) (x : Group) : (s.setGroup g x).free = s.free := rfl
@[simp] theorem setGroup_serial (s : State) (g : Nat) (x : Group) : (s.setGroup g x).serial = s.serial := rfl
@[simp] theorem setGroup_iss (s : State) (g : Nat) (x : Group) : (s.setGroup g x).iss = s.iss := rfl
@[simp] theorem setGroup_dbg (s : State) (g : Nat) (x : Group) : (s.setGroup g x).dbg = s.dbg := rfl
@[simp] theorem setGroup_get_thread (s : State) (g : Nat) (x : Group) (j : Nat) : (s.setGroup g x).thread j = s.thread j := rfl
@[simp] theorem setGroup_get_team (s : State) (g : Nat) (x : Group) (j : Nat) : (s.setGroup g x).team j = s.team j := rfl
@[simp] theorem setGroup_get_core (s : State) (g : Nat) (x : Group) (j : Nat) : (s.setGroup g x).core j = s.core j := rfl
@[simp] theorem setGroup_get_ctx (s : State) (g : Nat) (x : Group) (j : Nat) : (s.setGroup g x).ctx j = s.ctx j := rfl
@[simp] theorem setGroup_get_wq (s : State) (g : Nat) (x : Group) (j : Nat) : (s.setGroup g x).wq j = s.wq j := rfl
@[simp] theorem setGroup_get_fab (s : State) (g : Nat) (x : Group) (j : Nat) : (s.setGroup g x).fab j = s.fab j := rfl
@[simp] theorem setGroup_get_engine (s : State) (g : Nat) (x : Group) (j : Nat) : (s.setGroup g x).engine j = s.engine j := rfl
@[simp] theorem setGroup_get (s : State) (g j : Nat) (x : Group) : (s.setGroup g x).group j = if j = g then x else s.group j := by
  simp [setGroup, State.group, Tab.get_set]

/-! `setTeam` -/

@[simp] theorem setTeam_cycle (s : State) (n : Nat) (x : Team) : (s.setTeam n x).cycle = s.cycle := rfl
@[simp] theorem setTeam_mem (s : State) (n : Nat) (x : Team) : (s.setTeam n x).mem = s.mem := rfl
@[simp] theorem setTeam_threads (s : State) (n : Nat) (x : Team) : (s.setTeam n x).threads = s.threads := rfl
@[simp] theorem setTeam_groups (s : State) (n : Nat) (x : Team) : (s.setTeam n x).groups = s.groups := rfl
@[simp] theorem setTeam_cores (s : State) (n : Nat) (x : Team) : (s.setTeam n x).cores = s.cores := rfl
@[simp] theorem setTeam_engines (s : State) (n : Nat) (x : Team) : (s.setTeam n x).engines = s.engines := rfl
@[simp] theorem setTeam_ctxs (s : State) (n : Nat) (x : Team) : (s.setTeam n x).ctxs = s.ctxs := rfl
@[simp] theorem setTeam_wqs (s : State) (n : Nat) (x : Team) : (s.setTeam n x).wqs = s.wqs := rfl
@[simp] theorem setTeam_hub (s : State) (n : Nat) (x : Team) : (s.setTeam n x).hub = s.hub := rfl
@[simp] theorem setTeam_fabs (s : State) (n : Nat) (x : Team) : (s.setTeam n x).fabs = s.fabs := rfl
@[simp] theorem setTeam_sessions (s : State) (n : Nat) (x : Team) : (s.setTeam n x).sessions = s.sessions := rfl
@[simp] theorem setTeam_portsDown (s : State) (n : Nat) (x : Team) : (s.setTeam n x).portsDown = s.portsDown := rfl
@[simp] theorem setTeam_wire (s : State) (n : Nat) (x : Team) : (s.setTeam n x).wire = s.wire := rfl
@[simp] theorem setTeam_turns (s : State) (n : Nat) (x : Team) : (s.setTeam n x).turns = s.turns := rfl
@[simp] theorem setTeam_free (s : State) (n : Nat) (x : Team) : (s.setTeam n x).free = s.free := rfl
@[simp] theorem setTeam_serial (s : State) (n : Nat) (x : Team) : (s.setTeam n x).serial = s.serial := rfl
@[simp] theorem setTeam_iss (s : State) (n : Nat) (x : Team) : (s.setTeam n x).iss = s.iss := rfl
@[simp] theorem setTeam_dbg (s : State) (n : Nat) (x : Team) : (s.setTeam n x).dbg = s.dbg := rfl
@[simp] theorem setTeam_get_thread (s : State) (n : Nat) (x : Team) (j : Nat) : (s.setTeam n x).thread j = s.thread j := rfl
@[simp] theorem setTeam_get_group (s : State) (n : Nat) (x : Team) (j : Nat) : (s.setTeam n x).group j = s.group j := rfl
@[simp] theorem setTeam_get_core (s : State) (n : Nat) (x : Team) (j : Nat) : (s.setTeam n x).core j = s.core j := rfl
@[simp] theorem setTeam_get_ctx (s : State) (n : Nat) (x : Team) (j : Nat) : (s.setTeam n x).ctx j = s.ctx j := rfl
@[simp] theorem setTeam_get_wq (s : State) (n : Nat) (x : Team) (j : Nat) : (s.setTeam n x).wq j = s.wq j := rfl
@[simp] theorem setTeam_get_fab (s : State) (n : Nat) (x : Team) (j : Nat) : (s.setTeam n x).fab j = s.fab j := rfl
@[simp] theorem setTeam_get_engine (s : State) (n : Nat) (x : Team) (j : Nat) : (s.setTeam n x).engine j = s.engine j := rfl
@[simp] theorem setTeam_get (s : State) (n j : Nat) (x : Team) : (s.setTeam n x).team j = if j = n then x else s.team j := by
  simp [setTeam, State.team, Tab.get_set]

/-! `setCore` -/

@[simp] theorem setCore_cycle (s : State) (k : Nat) (x : Core) : (s.setCore k x).cycle = s.cycle := rfl
@[simp] theorem setCore_mem (s : State) (k : Nat) (x : Core) : (s.setCore k x).mem = s.mem := rfl
@[simp] theorem setCore_threads (s : State) (k : Nat) (x : Core) : (s.setCore k x).threads = s.threads := rfl
@[simp] theorem setCore_groups (s : State) (k : Nat) (x : Core) : (s.setCore k x).groups = s.groups := rfl
@[simp] theorem setCore_teams (s : State) (k : Nat) (x : Core) : (s.setCore k x).teams = s.teams := rfl
@[simp] theorem setCore_engines (s : State) (k : Nat) (x : Core) : (s.setCore k x).engines = s.engines := rfl
@[simp] theorem setCore_ctxs (s : State) (k : Nat) (x : Core) : (s.setCore k x).ctxs = s.ctxs := rfl
@[simp] theorem setCore_wqs (s : State) (k : Nat) (x : Core) : (s.setCore k x).wqs = s.wqs := rfl
@[simp] theorem setCore_hub (s : State) (k : Nat) (x : Core) : (s.setCore k x).hub = s.hub := rfl
@[simp] theorem setCore_fabs (s : State) (k : Nat) (x : Core) : (s.setCore k x).fabs = s.fabs := rfl
@[simp] theorem setCore_sessions (s : State) (k : Nat) (x : Core) : (s.setCore k x).sessions = s.sessions := rfl
@[simp] theorem setCore_portsDown (s : State) (k : Nat) (x : Core) : (s.setCore k x).portsDown = s.portsDown := rfl
@[simp] theorem setCore_wire (s : State) (k : Nat) (x : Core) : (s.setCore k x).wire = s.wire := rfl
@[simp] theorem setCore_turns (s : State) (k : Nat) (x : Core) : (s.setCore k x).turns = s.turns := rfl
@[simp] theorem setCore_free (s : State) (k : Nat) (x : Core) : (s.setCore k x).free = s.free := rfl
@[simp] theorem setCore_serial (s : State) (k : Nat) (x : Core) : (s.setCore k x).serial = s.serial := rfl
@[simp] theorem setCore_iss (s : State) (k : Nat) (x : Core) : (s.setCore k x).iss = s.iss := rfl
@[simp] theorem setCore_dbg (s : State) (k : Nat) (x : Core) : (s.setCore k x).dbg = s.dbg := rfl
@[simp] theorem setCore_get_thread (s : State) (k : Nat) (x : Core) (j : Nat) : (s.setCore k x).thread j = s.thread j := rfl
@[simp] theorem setCore_get_group (s : State) (k : Nat) (x : Core) (j : Nat) : (s.setCore k x).group j = s.group j := rfl
@[simp] theorem setCore_get_team (s : State) (k : Nat) (x : Core) (j : Nat) : (s.setCore k x).team j = s.team j := rfl
@[simp] theorem setCore_get_ctx (s : State) (k : Nat) (x : Core) (j : Nat) : (s.setCore k x).ctx j = s.ctx j := rfl
@[simp] theorem setCore_get_wq (s : State) (k : Nat) (x : Core) (j : Nat) : (s.setCore k x).wq j = s.wq j := rfl
@[simp] theorem setCore_get_fab (s : State) (k : Nat) (x : Core) (j : Nat) : (s.setCore k x).fab j = s.fab j := rfl
@[simp] theorem setCore_get_engine (s : State) (k : Nat) (x : Core) (j : Nat) : (s.setCore k x).engine j = s.engine j := rfl
@[simp] theorem setCore_get (s : State) (k j : Nat) (x : Core) : (s.setCore k x).core j = if j = k then x else s.core j := by
  simp [setCore, State.core, Tab.get_set]

/-! `setCtx` -/

@[simp] theorem setCtx_cycle (s : State) (c : Nat) (x : Ctx) : (s.setCtx c x).cycle = s.cycle := rfl
@[simp] theorem setCtx_mem (s : State) (c : Nat) (x : Ctx) : (s.setCtx c x).mem = s.mem := rfl
@[simp] theorem setCtx_threads (s : State) (c : Nat) (x : Ctx) : (s.setCtx c x).threads = s.threads := rfl
@[simp] theorem setCtx_groups (s : State) (c : Nat) (x : Ctx) : (s.setCtx c x).groups = s.groups := rfl
@[simp] theorem setCtx_teams (s : State) (c : Nat) (x : Ctx) : (s.setCtx c x).teams = s.teams := rfl
@[simp] theorem setCtx_cores (s : State) (c : Nat) (x : Ctx) : (s.setCtx c x).cores = s.cores := rfl
@[simp] theorem setCtx_engines (s : State) (c : Nat) (x : Ctx) : (s.setCtx c x).engines = s.engines := rfl
@[simp] theorem setCtx_wqs (s : State) (c : Nat) (x : Ctx) : (s.setCtx c x).wqs = s.wqs := rfl
@[simp] theorem setCtx_hub (s : State) (c : Nat) (x : Ctx) : (s.setCtx c x).hub = s.hub := rfl
@[simp] theorem setCtx_fabs (s : State) (c : Nat) (x : Ctx) : (s.setCtx c x).fabs = s.fabs := rfl
@[simp] theorem setCtx_sessions (s : State) (c : Nat) (x : Ctx) : (s.setCtx c x).sessions = s.sessions := rfl
@[simp] theorem setCtx_portsDown (s : State) (c : Nat) (x : Ctx) : (s.setCtx c x).portsDown = s.portsDown := rfl
@[simp] theorem setCtx_wire (s : State) (c : Nat) (x : Ctx) : (s.setCtx c x).wire = s.wire := rfl
@[simp] theorem setCtx_turns (s : State) (c : Nat) (x : Ctx) : (s.setCtx c x).turns = s.turns := rfl
@[simp] theorem setCtx_free (s : State) (c : Nat) (x : Ctx) : (s.setCtx c x).free = s.free := rfl
@[simp] theorem setCtx_serial (s : State) (c : Nat) (x : Ctx) : (s.setCtx c x).serial = s.serial := rfl
@[simp] theorem setCtx_iss (s : State) (c : Nat) (x : Ctx) : (s.setCtx c x).iss = s.iss := rfl
@[simp] theorem setCtx_dbg (s : State) (c : Nat) (x : Ctx) : (s.setCtx c x).dbg = s.dbg := rfl
@[simp] theorem setCtx_get_thread (s : State) (c : Nat) (x : Ctx) (j : Nat) : (s.setCtx c x).thread j = s.thread j := rfl
@[simp] theorem setCtx_get_group (s : State) (c : Nat) (x : Ctx) (j : Nat) : (s.setCtx c x).group j = s.group j := rfl
@[simp] theorem setCtx_get_team (s : State) (c : Nat) (x : Ctx) (j : Nat) : (s.setCtx c x).team j = s.team j := rfl
@[simp] theorem setCtx_get_core (s : State) (c : Nat) (x : Ctx) (j : Nat) : (s.setCtx c x).core j = s.core j := rfl
@[simp] theorem setCtx_get_wq (s : State) (c : Nat) (x : Ctx) (j : Nat) : (s.setCtx c x).wq j = s.wq j := rfl
@[simp] theorem setCtx_get_fab (s : State) (c : Nat) (x : Ctx) (j : Nat) : (s.setCtx c x).fab j = s.fab j := rfl
@[simp] theorem setCtx_get_engine (s : State) (c : Nat) (x : Ctx) (j : Nat) : (s.setCtx c x).engine j = s.engine j := rfl
@[simp] theorem setCtx_get (s : State) (c j : Nat) (x : Ctx) : (s.setCtx c x).ctx j = if j = c then x else s.ctx j := by
  simp [setCtx, State.ctx, Tab.get_set]

/-! `setWq` -/

@[simp] theorem setWq_cycle (s : State) (q : Nat) (x : Wq) : (s.setWq q x).cycle = s.cycle := rfl
@[simp] theorem setWq_mem (s : State) (q : Nat) (x : Wq) : (s.setWq q x).mem = s.mem := rfl
@[simp] theorem setWq_threads (s : State) (q : Nat) (x : Wq) : (s.setWq q x).threads = s.threads := rfl
@[simp] theorem setWq_groups (s : State) (q : Nat) (x : Wq) : (s.setWq q x).groups = s.groups := rfl
@[simp] theorem setWq_teams (s : State) (q : Nat) (x : Wq) : (s.setWq q x).teams = s.teams := rfl
@[simp] theorem setWq_cores (s : State) (q : Nat) (x : Wq) : (s.setWq q x).cores = s.cores := rfl
@[simp] theorem setWq_engines (s : State) (q : Nat) (x : Wq) : (s.setWq q x).engines = s.engines := rfl
@[simp] theorem setWq_ctxs (s : State) (q : Nat) (x : Wq) : (s.setWq q x).ctxs = s.ctxs := rfl
@[simp] theorem setWq_hub (s : State) (q : Nat) (x : Wq) : (s.setWq q x).hub = s.hub := rfl
@[simp] theorem setWq_fabs (s : State) (q : Nat) (x : Wq) : (s.setWq q x).fabs = s.fabs := rfl
@[simp] theorem setWq_sessions (s : State) (q : Nat) (x : Wq) : (s.setWq q x).sessions = s.sessions := rfl
@[simp] theorem setWq_portsDown (s : State) (q : Nat) (x : Wq) : (s.setWq q x).portsDown = s.portsDown := rfl
@[simp] theorem setWq_wire (s : State) (q : Nat) (x : Wq) : (s.setWq q x).wire = s.wire := rfl
@[simp] theorem setWq_turns (s : State) (q : Nat) (x : Wq) : (s.setWq q x).turns = s.turns := rfl
@[simp] theorem setWq_free (s : State) (q : Nat) (x : Wq) : (s.setWq q x).free = s.free := rfl
@[simp] theorem setWq_serial (s : State) (q : Nat) (x : Wq) : (s.setWq q x).serial = s.serial := rfl
@[simp] theorem setWq_iss (s : State) (q : Nat) (x : Wq) : (s.setWq q x).iss = s.iss := rfl
@[simp] theorem setWq_dbg (s : State) (q : Nat) (x : Wq) : (s.setWq q x).dbg = s.dbg := rfl
@[simp] theorem setWq_get_thread (s : State) (q : Nat) (x : Wq) (j : Nat) : (s.setWq q x).thread j = s.thread j := rfl
@[simp] theorem setWq_get_group (s : State) (q : Nat) (x : Wq) (j : Nat) : (s.setWq q x).group j = s.group j := rfl
@[simp] theorem setWq_get_team (s : State) (q : Nat) (x : Wq) (j : Nat) : (s.setWq q x).team j = s.team j := rfl
@[simp] theorem setWq_get_core (s : State) (q : Nat) (x : Wq) (j : Nat) : (s.setWq q x).core j = s.core j := rfl
@[simp] theorem setWq_get_ctx (s : State) (q : Nat) (x : Wq) (j : Nat) : (s.setWq q x).ctx j = s.ctx j := rfl
@[simp] theorem setWq_get_fab (s : State) (q : Nat) (x : Wq) (j : Nat) : (s.setWq q x).fab j = s.fab j := rfl
@[simp] theorem setWq_get_engine (s : State) (q : Nat) (x : Wq) (j : Nat) : (s.setWq q x).engine j = s.engine j := rfl
@[simp] theorem setWq_get (s : State) (q j : Nat) (x : Wq) : (s.setWq q x).wq j = if j = q then x else s.wq j := by
  simp [setWq, State.wq, Tab.get_set]

/-! `setFab` -/

@[simp] theorem setFab_cycle (s : State) (p : Nat) (x : Fab) : (s.setFab p x).cycle = s.cycle := rfl
@[simp] theorem setFab_mem (s : State) (p : Nat) (x : Fab) : (s.setFab p x).mem = s.mem := rfl
@[simp] theorem setFab_threads (s : State) (p : Nat) (x : Fab) : (s.setFab p x).threads = s.threads := rfl
@[simp] theorem setFab_groups (s : State) (p : Nat) (x : Fab) : (s.setFab p x).groups = s.groups := rfl
@[simp] theorem setFab_teams (s : State) (p : Nat) (x : Fab) : (s.setFab p x).teams = s.teams := rfl
@[simp] theorem setFab_cores (s : State) (p : Nat) (x : Fab) : (s.setFab p x).cores = s.cores := rfl
@[simp] theorem setFab_engines (s : State) (p : Nat) (x : Fab) : (s.setFab p x).engines = s.engines := rfl
@[simp] theorem setFab_ctxs (s : State) (p : Nat) (x : Fab) : (s.setFab p x).ctxs = s.ctxs := rfl
@[simp] theorem setFab_wqs (s : State) (p : Nat) (x : Fab) : (s.setFab p x).wqs = s.wqs := rfl
@[simp] theorem setFab_hub (s : State) (p : Nat) (x : Fab) : (s.setFab p x).hub = s.hub := rfl
@[simp] theorem setFab_sessions (s : State) (p : Nat) (x : Fab) : (s.setFab p x).sessions = s.sessions := rfl
@[simp] theorem setFab_portsDown (s : State) (p : Nat) (x : Fab) : (s.setFab p x).portsDown = s.portsDown := rfl
@[simp] theorem setFab_wire (s : State) (p : Nat) (x : Fab) : (s.setFab p x).wire = s.wire := rfl
@[simp] theorem setFab_turns (s : State) (p : Nat) (x : Fab) : (s.setFab p x).turns = s.turns := rfl
@[simp] theorem setFab_free (s : State) (p : Nat) (x : Fab) : (s.setFab p x).free = s.free := rfl
@[simp] theorem setFab_serial (s : State) (p : Nat) (x : Fab) : (s.setFab p x).serial = s.serial := rfl
@[simp] theorem setFab_iss (s : State) (p : Nat) (x : Fab) : (s.setFab p x).iss = s.iss := rfl
@[simp] theorem setFab_dbg (s : State) (p : Nat) (x : Fab) : (s.setFab p x).dbg = s.dbg := rfl
@[simp] theorem setFab_get_thread (s : State) (p : Nat) (x : Fab) (j : Nat) : (s.setFab p x).thread j = s.thread j := rfl
@[simp] theorem setFab_get_group (s : State) (p : Nat) (x : Fab) (j : Nat) : (s.setFab p x).group j = s.group j := rfl
@[simp] theorem setFab_get_team (s : State) (p : Nat) (x : Fab) (j : Nat) : (s.setFab p x).team j = s.team j := rfl
@[simp] theorem setFab_get_core (s : State) (p : Nat) (x : Fab) (j : Nat) : (s.setFab p x).core j = s.core j := rfl
@[simp] theorem setFab_get_ctx (s : State) (p : Nat) (x : Fab) (j : Nat) : (s.setFab p x).ctx j = s.ctx j := rfl
@[simp] theorem setFab_get_wq (s : State) (p : Nat) (x : Fab) (j : Nat) : (s.setFab p x).wq j = s.wq j := rfl
@[simp] theorem setFab_get_engine (s : State) (p : Nat) (x : Fab) (j : Nat) : (s.setFab p x).engine j = s.engine j := rfl
@[simp] theorem setFab_get (s : State) (p j : Nat) (x : Fab) : (s.setFab p x).fab j = if j = p then x else s.fab j := by
  simp [setFab, State.fab, Tab.get_set]

/-! `setEngine` -/

@[simp] theorem setEngine_cycle (s : State) (d : Nat) (x : Engine) : (s.setEngine d x).cycle = s.cycle := rfl
@[simp] theorem setEngine_mem (s : State) (d : Nat) (x : Engine) : (s.setEngine d x).mem = s.mem := rfl
@[simp] theorem setEngine_threads (s : State) (d : Nat) (x : Engine) : (s.setEngine d x).threads = s.threads := rfl
@[simp] theorem setEngine_groups (s : State) (d : Nat) (x : Engine) : (s.setEngine d x).groups = s.groups := rfl
@[simp] theorem setEngine_teams (s : State) (d : Nat) (x : Engine) : (s.setEngine d x).teams = s.teams := rfl
@[simp] theorem setEngine_cores (s : State) (d : Nat) (x : Engine) : (s.setEngine d x).cores = s.cores := rfl
@[simp] theorem setEngine_ctxs (s : State) (d : Nat) (x : Engine) : (s.setEngine d x).ctxs = s.ctxs := rfl
@[simp] theorem setEngine_wqs (s : State) (d : Nat) (x : Engine) : (s.setEngine d x).wqs = s.wqs := rfl
@[simp] theorem setEngine_hub (s : State) (d : Nat) (x : Engine) : (s.setEngine d x).hub = s.hub := rfl
@[simp] theorem setEngine_fabs (s : State) (d : Nat) (x : Engine) : (s.setEngine d x).fabs = s.fabs := rfl
@[simp] theorem setEngine_sessions (s : State) (d : Nat) (x : Engine) : (s.setEngine d x).sessions = s.sessions := rfl
@[simp] theorem setEngine_portsDown (s : State) (d : Nat) (x : Engine) : (s.setEngine d x).portsDown = s.portsDown := rfl
@[simp] theorem setEngine_wire (s : State) (d : Nat) (x : Engine) : (s.setEngine d x).wire = s.wire := rfl
@[simp] theorem setEngine_turns (s : State) (d : Nat) (x : Engine) : (s.setEngine d x).turns = s.turns := rfl
@[simp] theorem setEngine_free (s : State) (d : Nat) (x : Engine) : (s.setEngine d x).free = s.free := rfl
@[simp] theorem setEngine_serial (s : State) (d : Nat) (x : Engine) : (s.setEngine d x).serial = s.serial := rfl
@[simp] theorem setEngine_iss (s : State) (d : Nat) (x : Engine) : (s.setEngine d x).iss = s.iss := rfl
@[simp] theorem setEngine_dbg (s : State) (d : Nat) (x : Engine) : (s.setEngine d x).dbg = s.dbg := rfl
@[simp] theorem setEngine_get_thread (s : State) (d : Nat) (x : Engine) (j : Nat) : (s.setEngine d x).thread j = s.thread j := rfl
@[simp] theorem setEngine_get_group (s : State) (d : Nat) (x : Engine) (j : Nat) : (s.setEngine d x).group j = s.group j := rfl
@[simp] theorem setEngine_get_team (s : State) (d : Nat) (x : Engine) (j : Nat) : (s.setEngine d x).team j = s.team j := rfl
@[simp] theorem setEngine_get_core (s : State) (d : Nat) (x : Engine) (j : Nat) : (s.setEngine d x).core j = s.core j := rfl
@[simp] theorem setEngine_get_ctx (s : State) (d : Nat) (x : Engine) (j : Nat) : (s.setEngine d x).ctx j = s.ctx j := rfl
@[simp] theorem setEngine_get_wq (s : State) (d : Nat) (x : Engine) (j : Nat) : (s.setEngine d x).wq j = s.wq j := rfl
@[simp] theorem setEngine_get_fab (s : State) (d : Nat) (x : Engine) (j : Nat) : (s.setEngine d x).fab j = s.fab j := rfl
@[simp] theorem setEngine_get (s : State) (d j : Nat) (x : Engine) : (s.setEngine d x).engine j = if j = d then x else s.engine j := by
  simp [setEngine, State.engine, Tab.get_set]

/-! `onThread` -/

@[simp] theorem onThread_cycle (s : State) (i : Nat) (f : Thread → Thread) : (s.onThread i f).cycle = s.cycle := rfl
@[simp] theorem onThread_mem (s : State) (i : Nat) (f : Thread → Thread) : (s.onThread i f).mem = s.mem := rfl
@[simp] theorem onThread_groups (s : State) (i : Nat) (f : Thread → Thread) : (s.onThread i f).groups = s.groups := rfl
@[simp] theorem onThread_teams (s : State) (i : Nat) (f : Thread → Thread) : (s.onThread i f).teams = s.teams := rfl
@[simp] theorem onThread_cores (s : State) (i : Nat) (f : Thread → Thread) : (s.onThread i f).cores = s.cores := rfl
@[simp] theorem onThread_engines (s : State) (i : Nat) (f : Thread → Thread) : (s.onThread i f).engines = s.engines := rfl
@[simp] theorem onThread_ctxs (s : State) (i : Nat) (f : Thread → Thread) : (s.onThread i f).ctxs = s.ctxs := rfl
@[simp] theorem onThread_wqs (s : State) (i : Nat) (f : Thread → Thread) : (s.onThread i f).wqs = s.wqs := rfl
@[simp] theorem onThread_hub (s : State) (i : Nat) (f : Thread → Thread) : (s.onThread i f).hub = s.hub := rfl
@[simp] theorem onThread_fabs (s : State) (i : Nat) (f : Thread → Thread) : (s.onThread i f).fabs = s.fabs := rfl
@[simp] theorem onThread_sessions (s : State) (i : Nat) (f : Thread → Thread) : (s.onThread i f).sessions = s.sessions := rfl
@[simp] theorem onThread_portsDown (s : State) (i : Nat) (f : Thread → Thread) : (s.onThread i f).portsDown = s.portsDown := rfl
@[simp] theorem onThread_wire (s : State) (i : Nat) (f : Thread → Thread) : (s.onThread i f).wire = s.wire := rfl
@[simp] theorem onThread_turns (s : State) (i : Nat) (f : Thread → Thread) : (s.onThread i f).turns = s.turns := rfl
@[simp] theorem onThread_free (s : State) (i : Nat) (f : Thread → Thread) : (s.onThread i f).free = s.free := rfl
@[simp] theorem onThread_serial (s : State) (i : Nat) (f : Thread → Thread) : (s.onThread i f).serial = s.serial := rfl
@[simp] theorem onThread_iss (s : State) (i : Nat) (f : Thread → Thread) : (s.onThread i f).iss = s.iss := rfl
@[simp] theorem onThread_dbg (s : State) (i : Nat) (f : Thread → Thread) : (s.onThread i f).dbg = s.dbg := rfl
@[simp] theorem onThread_get_group (s : State) (i : Nat) (f : Thread → Thread) (j : Nat) : (s.onThread i f).group j = s.group j := rfl
@[simp] theorem onThread_get_team (s : State) (i : Nat) (f : Thread → Thread) (j : Nat) : (s.onThread i f).team j = s.team j := rfl
@[simp] theorem onThread_get_core (s : State) (i : Nat) (f : Thread → Thread) (j : Nat) : (s.onThread i f).core j = s.core j := rfl
@[simp] theorem onThread_get_ctx (s : State) (i : Nat) (f : Thread → Thread) (j : Nat) : (s.onThread i f).ctx j = s.ctx j := rfl
@[simp] theorem onThread_get_wq (s : State) (i : Nat) (f : Thread → Thread) (j : Nat) : (s.onThread i f).wq j = s.wq j := rfl
@[simp] theorem onThread_get_fab (s : State) (i : Nat) (f : Thread → Thread) (j : Nat) : (s.onThread i f).fab j = s.fab j := rfl
@[simp] theorem onThread_get_engine (s : State) (i : Nat) (f : Thread → Thread) (j : Nat) : (s.onThread i f).engine j = s.engine j := rfl
@[simp] theorem onThread_get (s : State) (i j : Nat) (f : Thread → Thread) :
    (s.onThread i f).thread j = if j = i then f (s.thread i) else s.thread j := by simp [onThread]

/-! `onGroup` -/

@[simp] theorem onGroup_cycle (s : State) (g : Nat) (f : Group → Group) : (s.onGroup g f).cycle = s.cycle := rfl
@[simp] theorem onGroup_mem (s : State) (g : Nat) (f : Group → Group) : (s.onGroup g f).mem = s.mem := rfl
@[simp] theorem onGroup_threads (s : State) (g : Nat) (f : Group → Group) : (s.onGroup g f).threads = s.threads := rfl
@[simp] theorem onGroup_teams (s : State) (g : Nat) (f : Group → Group) : (s.onGroup g f).teams = s.teams := rfl
@[simp] theorem onGroup_cores (s : State) (g : Nat) (f : Group → Group) : (s.onGroup g f).cores = s.cores := rfl
@[simp] theorem onGroup_engines (s : State) (g : Nat) (f : Group → Group) : (s.onGroup g f).engines = s.engines := rfl
@[simp] theorem onGroup_ctxs (s : State) (g : Nat) (f : Group → Group) : (s.onGroup g f).ctxs = s.ctxs := rfl
@[simp] theorem onGroup_wqs (s : State) (g : Nat) (f : Group → Group) : (s.onGroup g f).wqs = s.wqs := rfl
@[simp] theorem onGroup_hub (s : State) (g : Nat) (f : Group → Group) : (s.onGroup g f).hub = s.hub := rfl
@[simp] theorem onGroup_fabs (s : State) (g : Nat) (f : Group → Group) : (s.onGroup g f).fabs = s.fabs := rfl
@[simp] theorem onGroup_sessions (s : State) (g : Nat) (f : Group → Group) : (s.onGroup g f).sessions = s.sessions := rfl
@[simp] theorem onGroup_portsDown (s : State) (g : Nat) (f : Group → Group) : (s.onGroup g f).portsDown = s.portsDown := rfl
@[simp] theorem onGroup_wire (s : State) (g : Nat) (f : Group → Group) : (s.onGroup g f).wire = s.wire := rfl
@[simp] theorem onGroup_turns (s : State) (g : Nat) (f : Group → Group) : (s.onGroup g f).turns = s.turns := rfl
@[simp] theorem onGroup_free (s : State) (g : Nat) (f : Group → Group) : (s.onGroup g f).free = s.free := rfl
@[simp] theorem onGroup_serial (s : State) (g : Nat) (f : Group → Group) : (s.onGroup g f).serial = s.serial := rfl
@[simp] theorem onGroup_iss (s : State) (g : Nat) (f : Group → Group) : (s.onGroup g f).iss = s.iss := rfl
@[simp] theorem onGroup_dbg (s : State) (g : Nat) (f : Group → Group) : (s.onGroup g f).dbg = s.dbg := rfl
@[simp] theorem onGroup_get_thread (s : State) (g : Nat) (f : Group → Group) (j : Nat) : (s.onGroup g f).thread j = s.thread j := rfl
@[simp] theorem onGroup_get_team (s : State) (g : Nat) (f : Group → Group) (j : Nat) : (s.onGroup g f).team j = s.team j := rfl
@[simp] theorem onGroup_get_core (s : State) (g : Nat) (f : Group → Group) (j : Nat) : (s.onGroup g f).core j = s.core j := rfl
@[simp] theorem onGroup_get_ctx (s : State) (g : Nat) (f : Group → Group) (j : Nat) : (s.onGroup g f).ctx j = s.ctx j := rfl
@[simp] theorem onGroup_get_wq (s : State) (g : Nat) (f : Group → Group) (j : Nat) : (s.onGroup g f).wq j = s.wq j := rfl
@[simp] theorem onGroup_get_fab (s : State) (g : Nat) (f : Group → Group) (j : Nat) : (s.onGroup g f).fab j = s.fab j := rfl
@[simp] theorem onGroup_get_engine (s : State) (g : Nat) (f : Group → Group) (j : Nat) : (s.onGroup g f).engine j = s.engine j := rfl
@[simp] theorem onGroup_get (s : State) (g j : Nat) (f : Group → Group) :
    (s.onGroup g f).group j = if j = g then f (s.group g) else s.group j := by simp [onGroup]

/-! `onTeam` -/

@[simp] theorem onTeam_cycle (s : State) (n : Nat) (f : Team → Team) : (s.onTeam n f).cycle = s.cycle := rfl
@[simp] theorem onTeam_mem (s : State) (n : Nat) (f : Team → Team) : (s.onTeam n f).mem = s.mem := rfl
@[simp] theorem onTeam_threads (s : State) (n : Nat) (f : Team → Team) : (s.onTeam n f).threads = s.threads := rfl
@[simp] theorem onTeam_groups (s : State) (n : Nat) (f : Team → Team) : (s.onTeam n f).groups = s.groups := rfl
@[simp] theorem onTeam_cores (s : State) (n : Nat) (f : Team → Team) : (s.onTeam n f).cores = s.cores := rfl
@[simp] theorem onTeam_engines (s : State) (n : Nat) (f : Team → Team) : (s.onTeam n f).engines = s.engines := rfl
@[simp] theorem onTeam_ctxs (s : State) (n : Nat) (f : Team → Team) : (s.onTeam n f).ctxs = s.ctxs := rfl
@[simp] theorem onTeam_wqs (s : State) (n : Nat) (f : Team → Team) : (s.onTeam n f).wqs = s.wqs := rfl
@[simp] theorem onTeam_hub (s : State) (n : Nat) (f : Team → Team) : (s.onTeam n f).hub = s.hub := rfl
@[simp] theorem onTeam_fabs (s : State) (n : Nat) (f : Team → Team) : (s.onTeam n f).fabs = s.fabs := rfl
@[simp] theorem onTeam_sessions (s : State) (n : Nat) (f : Team → Team) : (s.onTeam n f).sessions = s.sessions := rfl
@[simp] theorem onTeam_portsDown (s : State) (n : Nat) (f : Team → Team) : (s.onTeam n f).portsDown = s.portsDown := rfl
@[simp] theorem onTeam_wire (s : State) (n : Nat) (f : Team → Team) : (s.onTeam n f).wire = s.wire := rfl
@[simp] theorem onTeam_turns (s : State) (n : Nat) (f : Team → Team) : (s.onTeam n f).turns = s.turns := rfl
@[simp] theorem onTeam_free (s : State) (n : Nat) (f : Team → Team) : (s.onTeam n f).free = s.free := rfl
@[simp] theorem onTeam_serial (s : State) (n : Nat) (f : Team → Team) : (s.onTeam n f).serial = s.serial := rfl
@[simp] theorem onTeam_iss (s : State) (n : Nat) (f : Team → Team) : (s.onTeam n f).iss = s.iss := rfl
@[simp] theorem onTeam_dbg (s : State) (n : Nat) (f : Team → Team) : (s.onTeam n f).dbg = s.dbg := rfl
@[simp] theorem onTeam_get_thread (s : State) (n : Nat) (f : Team → Team) (j : Nat) : (s.onTeam n f).thread j = s.thread j := rfl
@[simp] theorem onTeam_get_group (s : State) (n : Nat) (f : Team → Team) (j : Nat) : (s.onTeam n f).group j = s.group j := rfl
@[simp] theorem onTeam_get_core (s : State) (n : Nat) (f : Team → Team) (j : Nat) : (s.onTeam n f).core j = s.core j := rfl
@[simp] theorem onTeam_get_ctx (s : State) (n : Nat) (f : Team → Team) (j : Nat) : (s.onTeam n f).ctx j = s.ctx j := rfl
@[simp] theorem onTeam_get_wq (s : State) (n : Nat) (f : Team → Team) (j : Nat) : (s.onTeam n f).wq j = s.wq j := rfl
@[simp] theorem onTeam_get_fab (s : State) (n : Nat) (f : Team → Team) (j : Nat) : (s.onTeam n f).fab j = s.fab j := rfl
@[simp] theorem onTeam_get_engine (s : State) (n : Nat) (f : Team → Team) (j : Nat) : (s.onTeam n f).engine j = s.engine j := rfl
@[simp] theorem onTeam_get (s : State) (n j : Nat) (f : Team → Team) :
    (s.onTeam n f).team j = if j = n then f (s.team n) else s.team j := by simp [onTeam]

/-! `onCore` -/

@[simp] theorem onCore_cycle (s : State) (k : Nat) (f : Core → Core) : (s.onCore k f).cycle = s.cycle := rfl
@[simp] theorem onCore_mem (s : State) (k : Nat) (f : Core → Core) : (s.onCore k f).mem = s.mem := rfl
@[simp] theorem onCore_threads (s : State) (k : Nat) (f : Core → Core) : (s.onCore k f).threads = s.threads := rfl
@[simp] theorem onCore_groups (s : State) (k : Nat) (f : Core → Core) : (s.onCore k f).groups = s.groups := rfl
@[simp] theorem onCore_teams (s : State) (k : Nat) (f : Core → Core) : (s.onCore k f).teams = s.teams := rfl
@[simp] theorem onCore_engines (s : State) (k : Nat) (f : Core → Core) : (s.onCore k f).engines = s.engines := rfl
@[simp] theorem onCore_ctxs (s : State) (k : Nat) (f : Core → Core) : (s.onCore k f).ctxs = s.ctxs := rfl
@[simp] theorem onCore_wqs (s : State) (k : Nat) (f : Core → Core) : (s.onCore k f).wqs = s.wqs := rfl
@[simp] theorem onCore_hub (s : State) (k : Nat) (f : Core → Core) : (s.onCore k f).hub = s.hub := rfl
@[simp] theorem onCore_fabs (s : State) (k : Nat) (f : Core → Core) : (s.onCore k f).fabs = s.fabs := rfl
@[simp] theorem onCore_sessions (s : State) (k : Nat) (f : Core → Core) : (s.onCore k f).sessions = s.sessions := rfl
@[simp] theorem onCore_portsDown (s : State) (k : Nat) (f : Core → Core) : (s.onCore k f).portsDown = s.portsDown := rfl
@[simp] theorem onCore_wire (s : State) (k : Nat) (f : Core → Core) : (s.onCore k f).wire = s.wire := rfl
@[simp] theorem onCore_turns (s : State) (k : Nat) (f : Core → Core) : (s.onCore k f).turns = s.turns := rfl
@[simp] theorem onCore_free (s : State) (k : Nat) (f : Core → Core) : (s.onCore k f).free = s.free := rfl
@[simp] theorem onCore_serial (s : State) (k : Nat) (f : Core → Core) : (s.onCore k f).serial = s.serial := rfl
@[simp] theorem onCore_iss (s : State) (k : Nat) (f : Core → Core) : (s.onCore k f).iss = s.iss := rfl
@[simp] theorem onCore_dbg (s : State) (k : Nat) (f : Core → Core) : (s.onCore k f).dbg = s.dbg := rfl
@[simp] theorem onCore_get_thread (s : State) (k : Nat) (f : Core → Core) (j : Nat) : (s.onCore k f).thread j = s.thread j := rfl
@[simp] theorem onCore_get_group (s : State) (k : Nat) (f : Core → Core) (j : Nat) : (s.onCore k f).group j = s.group j := rfl
@[simp] theorem onCore_get_team (s : State) (k : Nat) (f : Core → Core) (j : Nat) : (s.onCore k f).team j = s.team j := rfl
@[simp] theorem onCore_get_ctx (s : State) (k : Nat) (f : Core → Core) (j : Nat) : (s.onCore k f).ctx j = s.ctx j := rfl
@[simp] theorem onCore_get_wq (s : State) (k : Nat) (f : Core → Core) (j : Nat) : (s.onCore k f).wq j = s.wq j := rfl
@[simp] theorem onCore_get_fab (s : State) (k : Nat) (f : Core → Core) (j : Nat) : (s.onCore k f).fab j = s.fab j := rfl
@[simp] theorem onCore_get_engine (s : State) (k : Nat) (f : Core → Core) (j : Nat) : (s.onCore k f).engine j = s.engine j := rfl
@[simp] theorem onCore_get (s : State) (k j : Nat) (f : Core → Core) :
    (s.onCore k f).core j = if j = k then f (s.core k) else s.core j := by simp [onCore]

/-! `onCtx` -/

@[simp] theorem onCtx_cycle (s : State) (c : Nat) (f : Ctx → Ctx) : (s.onCtx c f).cycle = s.cycle := rfl
@[simp] theorem onCtx_mem (s : State) (c : Nat) (f : Ctx → Ctx) : (s.onCtx c f).mem = s.mem := rfl
@[simp] theorem onCtx_threads (s : State) (c : Nat) (f : Ctx → Ctx) : (s.onCtx c f).threads = s.threads := rfl
@[simp] theorem onCtx_groups (s : State) (c : Nat) (f : Ctx → Ctx) : (s.onCtx c f).groups = s.groups := rfl
@[simp] theorem onCtx_teams (s : State) (c : Nat) (f : Ctx → Ctx) : (s.onCtx c f).teams = s.teams := rfl
@[simp] theorem onCtx_cores (s : State) (c : Nat) (f : Ctx → Ctx) : (s.onCtx c f).cores = s.cores := rfl
@[simp] theorem onCtx_engines (s : State) (c : Nat) (f : Ctx → Ctx) : (s.onCtx c f).engines = s.engines := rfl
@[simp] theorem onCtx_wqs (s : State) (c : Nat) (f : Ctx → Ctx) : (s.onCtx c f).wqs = s.wqs := rfl
@[simp] theorem onCtx_hub (s : State) (c : Nat) (f : Ctx → Ctx) : (s.onCtx c f).hub = s.hub := rfl
@[simp] theorem onCtx_fabs (s : State) (c : Nat) (f : Ctx → Ctx) : (s.onCtx c f).fabs = s.fabs := rfl
@[simp] theorem onCtx_sessions (s : State) (c : Nat) (f : Ctx → Ctx) : (s.onCtx c f).sessions = s.sessions := rfl
@[simp] theorem onCtx_portsDown (s : State) (c : Nat) (f : Ctx → Ctx) : (s.onCtx c f).portsDown = s.portsDown := rfl
@[simp] theorem onCtx_wire (s : State) (c : Nat) (f : Ctx → Ctx) : (s.onCtx c f).wire = s.wire := rfl
@[simp] theorem onCtx_turns (s : State) (c : Nat) (f : Ctx → Ctx) : (s.onCtx c f).turns = s.turns := rfl
@[simp] theorem onCtx_free (s : State) (c : Nat) (f : Ctx → Ctx) : (s.onCtx c f).free = s.free := rfl
@[simp] theorem onCtx_serial (s : State) (c : Nat) (f : Ctx → Ctx) : (s.onCtx c f).serial = s.serial := rfl
@[simp] theorem onCtx_iss (s : State) (c : Nat) (f : Ctx → Ctx) : (s.onCtx c f).iss = s.iss := rfl
@[simp] theorem onCtx_dbg (s : State) (c : Nat) (f : Ctx → Ctx) : (s.onCtx c f).dbg = s.dbg := rfl
@[simp] theorem onCtx_get_thread (s : State) (c : Nat) (f : Ctx → Ctx) (j : Nat) : (s.onCtx c f).thread j = s.thread j := rfl
@[simp] theorem onCtx_get_group (s : State) (c : Nat) (f : Ctx → Ctx) (j : Nat) : (s.onCtx c f).group j = s.group j := rfl
@[simp] theorem onCtx_get_team (s : State) (c : Nat) (f : Ctx → Ctx) (j : Nat) : (s.onCtx c f).team j = s.team j := rfl
@[simp] theorem onCtx_get_core (s : State) (c : Nat) (f : Ctx → Ctx) (j : Nat) : (s.onCtx c f).core j = s.core j := rfl
@[simp] theorem onCtx_get_wq (s : State) (c : Nat) (f : Ctx → Ctx) (j : Nat) : (s.onCtx c f).wq j = s.wq j := rfl
@[simp] theorem onCtx_get_fab (s : State) (c : Nat) (f : Ctx → Ctx) (j : Nat) : (s.onCtx c f).fab j = s.fab j := rfl
@[simp] theorem onCtx_get_engine (s : State) (c : Nat) (f : Ctx → Ctx) (j : Nat) : (s.onCtx c f).engine j = s.engine j := rfl
@[simp] theorem onCtx_get (s : State) (c j : Nat) (f : Ctx → Ctx) :
    (s.onCtx c f).ctx j = if j = c then f (s.ctx c) else s.ctx j := by simp [onCtx]

/-! `onFab` -/

@[simp] theorem onFab_cycle (s : State) (p : Nat) (f : Fab → Fab) : (s.onFab p f).cycle = s.cycle := rfl
@[simp] theorem onFab_mem (s : State) (p : Nat) (f : Fab → Fab) : (s.onFab p f).mem = s.mem := rfl
@[simp] theorem onFab_threads (s : State) (p : Nat) (f : Fab → Fab) : (s.onFab p f).threads = s.threads := rfl
@[simp] theorem onFab_groups (s : State) (p : Nat) (f : Fab → Fab) : (s.onFab p f).groups = s.groups := rfl
@[simp] theorem onFab_teams (s : State) (p : Nat) (f : Fab → Fab) : (s.onFab p f).teams = s.teams := rfl
@[simp] theorem onFab_cores (s : State) (p : Nat) (f : Fab → Fab) : (s.onFab p f).cores = s.cores := rfl
@[simp] theorem onFab_engines (s : State) (p : Nat) (f : Fab → Fab) : (s.onFab p f).engines = s.engines := rfl
@[simp] theorem onFab_ctxs (s : State) (p : Nat) (f : Fab → Fab) : (s.onFab p f).ctxs = s.ctxs := rfl
@[simp] theorem onFab_wqs (s : State) (p : Nat) (f : Fab → Fab) : (s.onFab p f).wqs = s.wqs := rfl
@[simp] theorem onFab_hub (s : State) (p : Nat) (f : Fab → Fab) : (s.onFab p f).hub = s.hub := rfl
@[simp] theorem onFab_sessions (s : State) (p : Nat) (f : Fab → Fab) : (s.onFab p f).sessions = s.sessions := rfl
@[simp] theorem onFab_portsDown (s : State) (p : Nat) (f : Fab → Fab) : (s.onFab p f).portsDown = s.portsDown := rfl
@[simp] theorem onFab_wire (s : State) (p : Nat) (f : Fab → Fab) : (s.onFab p f).wire = s.wire := rfl
@[simp] theorem onFab_turns (s : State) (p : Nat) (f : Fab → Fab) : (s.onFab p f).turns = s.turns := rfl
@[simp] theorem onFab_free (s : State) (p : Nat) (f : Fab → Fab) : (s.onFab p f).free = s.free := rfl
@[simp] theorem onFab_serial (s : State) (p : Nat) (f : Fab → Fab) : (s.onFab p f).serial = s.serial := rfl
@[simp] theorem onFab_iss (s : State) (p : Nat) (f : Fab → Fab) : (s.onFab p f).iss = s.iss := rfl
@[simp] theorem onFab_dbg (s : State) (p : Nat) (f : Fab → Fab) : (s.onFab p f).dbg = s.dbg := rfl
@[simp] theorem onFab_get_thread (s : State) (p : Nat) (f : Fab → Fab) (j : Nat) : (s.onFab p f).thread j = s.thread j := rfl
@[simp] theorem onFab_get_group (s : State) (p : Nat) (f : Fab → Fab) (j : Nat) : (s.onFab p f).group j = s.group j := rfl
@[simp] theorem onFab_get_team (s : State) (p : Nat) (f : Fab → Fab) (j : Nat) : (s.onFab p f).team j = s.team j := rfl
@[simp] theorem onFab_get_core (s : State) (p : Nat) (f : Fab → Fab) (j : Nat) : (s.onFab p f).core j = s.core j := rfl
@[simp] theorem onFab_get_ctx (s : State) (p : Nat) (f : Fab → Fab) (j : Nat) : (s.onFab p f).ctx j = s.ctx j := rfl
@[simp] theorem onFab_get_wq (s : State) (p : Nat) (f : Fab → Fab) (j : Nat) : (s.onFab p f).wq j = s.wq j := rfl
@[simp] theorem onFab_get_engine (s : State) (p : Nat) (f : Fab → Fab) (j : Nat) : (s.onFab p f).engine j = s.engine j := rfl
@[simp] theorem onFab_get (s : State) (p j : Nat) (f : Fab → Fab) :
    (s.onFab p f).fab j = if j = p then f (s.fab p) else s.fab j := by simp [onFab]

/-! `emit` -/

@[simp] theorem emit_cycle (s : State) (x : Frame) : (s.emit x).cycle = s.cycle := rfl
@[simp] theorem emit_mem (s : State) (x : Frame) : (s.emit x).mem = s.mem := rfl
@[simp] theorem emit_threads (s : State) (x : Frame) : (s.emit x).threads = s.threads := rfl
@[simp] theorem emit_groups (s : State) (x : Frame) : (s.emit x).groups = s.groups := rfl
@[simp] theorem emit_teams (s : State) (x : Frame) : (s.emit x).teams = s.teams := rfl
@[simp] theorem emit_cores (s : State) (x : Frame) : (s.emit x).cores = s.cores := rfl
@[simp] theorem emit_engines (s : State) (x : Frame) : (s.emit x).engines = s.engines := rfl
@[simp] theorem emit_ctxs (s : State) (x : Frame) : (s.emit x).ctxs = s.ctxs := rfl
@[simp] theorem emit_wqs (s : State) (x : Frame) : (s.emit x).wqs = s.wqs := rfl
@[simp] theorem emit_hub (s : State) (x : Frame) : (s.emit x).hub = s.hub := rfl
@[simp] theorem emit_fabs (s : State) (x : Frame) : (s.emit x).fabs = s.fabs := rfl
@[simp] theorem emit_sessions (s : State) (x : Frame) : (s.emit x).sessions = s.sessions := rfl
@[simp] theorem emit_portsDown (s : State) (x : Frame) : (s.emit x).portsDown = s.portsDown := rfl
@[simp] theorem emit_turns (s : State) (x : Frame) : (s.emit x).turns = s.turns := rfl
@[simp] theorem emit_free (s : State) (x : Frame) : (s.emit x).free = s.free := rfl
@[simp] theorem emit_serial (s : State) (x : Frame) : (s.emit x).serial = s.serial := rfl
@[simp] theorem emit_iss (s : State) (x : Frame) : (s.emit x).iss = s.iss := rfl
@[simp] theorem emit_dbg (s : State) (x : Frame) : (s.emit x).dbg = s.dbg := rfl

/-! `bump` -/

@[simp] theorem bump_cycle (s : State) : (s.bump).cycle = s.cycle := rfl
@[simp] theorem bump_mem (s : State) : (s.bump).mem = s.mem := rfl
@[simp] theorem bump_threads (s : State) : (s.bump).threads = s.threads := rfl
@[simp] theorem bump_groups (s : State) : (s.bump).groups = s.groups := rfl
@[simp] theorem bump_teams (s : State) : (s.bump).teams = s.teams := rfl
@[simp] theorem bump_cores (s : State) : (s.bump).cores = s.cores := rfl
@[simp] theorem bump_engines (s : State) : (s.bump).engines = s.engines := rfl
@[simp] theorem bump_ctxs (s : State) : (s.bump).ctxs = s.ctxs := rfl
@[simp] theorem bump_wqs (s : State) : (s.bump).wqs = s.wqs := rfl
@[simp] theorem bump_hub (s : State) : (s.bump).hub = s.hub := rfl
@[simp] theorem bump_fabs (s : State) : (s.bump).fabs = s.fabs := rfl
@[simp] theorem bump_sessions (s : State) : (s.bump).sessions = s.sessions := rfl
@[simp] theorem bump_portsDown (s : State) : (s.bump).portsDown = s.portsDown := rfl
@[simp] theorem bump_wire (s : State) : (s.bump).wire = s.wire := rfl
@[simp] theorem bump_turns (s : State) : (s.bump).turns = s.turns := rfl
@[simp] theorem bump_free (s : State) : (s.bump).free = s.free := rfl
@[simp] theorem bump_iss (s : State) : (s.bump).iss = s.iss := rfl
@[simp] theorem bump_dbg (s : State) : (s.bump).dbg = s.dbg := rfl

/-! `draw` -/

@[simp] theorem draw_cycle (s : State) : (s.draw).cycle = s.cycle := rfl
@[simp] theorem draw_mem (s : State) : (s.draw).mem = s.mem := rfl
@[simp] theorem draw_threads (s : State) : (s.draw).threads = s.threads := rfl
@[simp] theorem draw_groups (s : State) : (s.draw).groups = s.groups := rfl
@[simp] theorem draw_teams (s : State) : (s.draw).teams = s.teams := rfl
@[simp] theorem draw_cores (s : State) : (s.draw).cores = s.cores := rfl
@[simp] theorem draw_engines (s : State) : (s.draw).engines = s.engines := rfl
@[simp] theorem draw_ctxs (s : State) : (s.draw).ctxs = s.ctxs := rfl
@[simp] theorem draw_wqs (s : State) : (s.draw).wqs = s.wqs := rfl
@[simp] theorem draw_hub (s : State) : (s.draw).hub = s.hub := rfl
@[simp] theorem draw_fabs (s : State) : (s.draw).fabs = s.fabs := rfl
@[simp] theorem draw_sessions (s : State) : (s.draw).sessions = s.sessions := rfl
@[simp] theorem draw_portsDown (s : State) : (s.draw).portsDown = s.portsDown := rfl
@[simp] theorem draw_wire (s : State) : (s.draw).wire = s.wire := rfl
@[simp] theorem draw_turns (s : State) : (s.draw).turns = s.turns := rfl
@[simp] theorem draw_serial (s : State) : (s.draw).serial = s.serial := rfl
@[simp] theorem draw_iss (s : State) : (s.draw).iss = s.iss := rfl
@[simp] theorem draw_dbg (s : State) : (s.draw).dbg = s.dbg := rfl

/-! `setSession` -/

@[simp] theorem setSession_cycle (s : State) (fd slot : Nat) (x : Session) : (s.setSession fd slot x).cycle = s.cycle := rfl
@[simp] theorem setSession_mem (s : State) (fd slot : Nat) (x : Session) : (s.setSession fd slot x).mem = s.mem := rfl
@[simp] theorem setSession_threads (s : State) (fd slot : Nat) (x : Session) : (s.setSession fd slot x).threads = s.threads := rfl
@[simp] theorem setSession_groups (s : State) (fd slot : Nat) (x : Session) : (s.setSession fd slot x).groups = s.groups := rfl
@[simp] theorem setSession_teams (s : State) (fd slot : Nat) (x : Session) : (s.setSession fd slot x).teams = s.teams := rfl
@[simp] theorem setSession_cores (s : State) (fd slot : Nat) (x : Session) : (s.setSession fd slot x).cores = s.cores := rfl
@[simp] theorem setSession_engines (s : State) (fd slot : Nat) (x : Session) : (s.setSession fd slot x).engines = s.engines := rfl
@[simp] theorem setSession_ctxs (s : State) (fd slot : Nat) (x : Session) : (s.setSession fd slot x).ctxs = s.ctxs := rfl
@[simp] theorem setSession_wqs (s : State) (fd slot : Nat) (x : Session) : (s.setSession fd slot x).wqs = s.wqs := rfl
@[simp] theorem setSession_hub (s : State) (fd slot : Nat) (x : Session) : (s.setSession fd slot x).hub = s.hub := rfl
@[simp] theorem setSession_fabs (s : State) (fd slot : Nat) (x : Session) : (s.setSession fd slot x).fabs = s.fabs := rfl
@[simp] theorem setSession_portsDown (s : State) (fd slot : Nat) (x : Session) : (s.setSession fd slot x).portsDown = s.portsDown := rfl
@[simp] theorem setSession_wire (s : State) (fd slot : Nat) (x : Session) : (s.setSession fd slot x).wire = s.wire := rfl
@[simp] theorem setSession_turns (s : State) (fd slot : Nat) (x : Session) : (s.setSession fd slot x).turns = s.turns := rfl
@[simp] theorem setSession_free (s : State) (fd slot : Nat) (x : Session) : (s.setSession fd slot x).free = s.free := rfl
@[simp] theorem setSession_serial (s : State) (fd slot : Nat) (x : Session) : (s.setSession fd slot x).serial = s.serial := rfl
@[simp] theorem setSession_iss (s : State) (fd slot : Nat) (x : Session) : (s.setSession fd slot x).iss = s.iss := rfl
@[simp] theorem setSession_dbg (s : State) (fd slot : Nat) (x : Session) : (s.setSession fd slot x).dbg = s.dbg := rfl

/-! `onSession` -/

@[simp] theorem onSession_cycle (s : State) (fd slot : Nat) (f : Session → Session) : (s.onSession fd slot f).cycle = s.cycle := rfl
@[simp] theorem onSession_mem (s : State) (fd slot : Nat) (f : Session → Session) : (s.onSession fd slot f).mem = s.mem := rfl
@[simp] theorem onSession_threads (s : State) (fd slot : Nat) (f : Session → Session) : (s.onSession fd slot f).threads = s.threads := rfl
@[simp] theorem onSession_groups (s : State) (fd slot : Nat) (f : Session → Session) : (s.onSession fd slot f).groups = s.groups := rfl
@[simp] theorem onSession_teams (s : State) (fd slot : Nat) (f : Session → Session) : (s.onSession fd slot f).teams = s.teams := rfl
@[simp] theorem onSession_cores (s : State) (fd slot : Nat) (f : Session → Session) : (s.onSession fd slot f).cores = s.cores := rfl
@[simp] theorem onSession_engines (s : State) (fd slot : Nat) (f : Session → Session) : (s.onSession fd slot f).engines = s.engines := rfl
@[simp] theorem onSession_ctxs (s : State) (fd slot : Nat) (f : Session → Session) : (s.onSession fd slot f).ctxs = s.ctxs := rfl
@[simp] theorem onSession_wqs (s : State) (fd slot : Nat) (f : Session → Session) : (s.onSession fd slot f).wqs = s.wqs := rfl
@[simp] theorem onSession_hub (s : State) (fd slot : Nat) (f : Session → Session) : (s.onSession fd slot f).hub = s.hub := rfl
@[simp] theorem onSession_fabs (s : State) (fd slot : Nat) (f : Session → Session) : (s.onSession fd slot f).fabs = s.fabs := rfl
@[simp] theorem onSession_portsDown (s : State) (fd slot : Nat) (f : Session → Session) : (s.onSession fd slot f).portsDown = s.portsDown := rfl
@[simp] theorem onSession_wire (s : State) (fd slot : Nat) (f : Session → Session) : (s.onSession fd slot f).wire = s.wire := rfl
@[simp] theorem onSession_turns (s : State) (fd slot : Nat) (f : Session → Session) : (s.onSession fd slot f).turns = s.turns := rfl
@[simp] theorem onSession_free (s : State) (fd slot : Nat) (f : Session → Session) : (s.onSession fd slot f).free = s.free := rfl
@[simp] theorem onSession_serial (s : State) (fd slot : Nat) (f : Session → Session) : (s.onSession fd slot f).serial = s.serial := rfl
@[simp] theorem onSession_iss (s : State) (fd slot : Nat) (f : Session → Session) : (s.onSession fd slot f).iss = s.iss := rfl
@[simp] theorem onSession_dbg (s : State) (fd slot : Nat) (f : Session → Session) : (s.onSession fd slot f).dbg = s.dbg := rfl

/-! `setV` -/

@[simp] theorem setV_cycle (s : State) (r : Reg) (x : W32) : (s.setV r x).cycle = s.cycle := rfl
@[simp] theorem setV_mem (s : State) (r : Reg) (x : W32) : (s.setV r x).mem = s.mem := rfl
@[simp] theorem setV_groups (s : State) (r : Reg) (x : W32) : (s.setV r x).groups = s.groups := rfl
@[simp] theorem setV_teams (s : State) (r : Reg) (x : W32) : (s.setV r x).teams = s.teams := rfl
@[simp] theorem setV_cores (s : State) (r : Reg) (x : W32) : (s.setV r x).cores = s.cores := rfl
@[simp] theorem setV_engines (s : State) (r : Reg) (x : W32) : (s.setV r x).engines = s.engines := rfl
@[simp] theorem setV_ctxs (s : State) (r : Reg) (x : W32) : (s.setV r x).ctxs = s.ctxs := rfl
@[simp] theorem setV_wqs (s : State) (r : Reg) (x : W32) : (s.setV r x).wqs = s.wqs := rfl
@[simp] theorem setV_hub (s : State) (r : Reg) (x : W32) : (s.setV r x).hub = s.hub := rfl
@[simp] theorem setV_fabs (s : State) (r : Reg) (x : W32) : (s.setV r x).fabs = s.fabs := rfl
@[simp] theorem setV_sessions (s : State) (r : Reg) (x : W32) : (s.setV r x).sessions = s.sessions := rfl
@[simp] theorem setV_portsDown (s : State) (r : Reg) (x : W32) : (s.setV r x).portsDown = s.portsDown := rfl
@[simp] theorem setV_wire (s : State) (r : Reg) (x : W32) : (s.setV r x).wire = s.wire := rfl
@[simp] theorem setV_turns (s : State) (r : Reg) (x : W32) : (s.setV r x).turns = s.turns := rfl
@[simp] theorem setV_free (s : State) (r : Reg) (x : W32) : (s.setV r x).free = s.free := rfl
@[simp] theorem setV_serial (s : State) (r : Reg) (x : W32) : (s.setV r x).serial = s.serial := rfl
@[simp] theorem setV_iss (s : State) (r : Reg) (x : W32) : (s.setV r x).iss = s.iss := rfl
@[simp] theorem setV_dbg (s : State) (r : Reg) (x : W32) : (s.setV r x).dbg = s.dbg := rfl

/-! `setVd` -/

@[simp] theorem setVd_cycle (s : State) (r : Reg) (x : W64) : (s.setVd r x).cycle = s.cycle := rfl
@[simp] theorem setVd_mem (s : State) (r : Reg) (x : W64) : (s.setVd r x).mem = s.mem := rfl
@[simp] theorem setVd_groups (s : State) (r : Reg) (x : W64) : (s.setVd r x).groups = s.groups := rfl
@[simp] theorem setVd_teams (s : State) (r : Reg) (x : W64) : (s.setVd r x).teams = s.teams := rfl
@[simp] theorem setVd_cores (s : State) (r : Reg) (x : W64) : (s.setVd r x).cores = s.cores := rfl
@[simp] theorem setVd_engines (s : State) (r : Reg) (x : W64) : (s.setVd r x).engines = s.engines := rfl
@[simp] theorem setVd_ctxs (s : State) (r : Reg) (x : W64) : (s.setVd r x).ctxs = s.ctxs := rfl
@[simp] theorem setVd_wqs (s : State) (r : Reg) (x : W64) : (s.setVd r x).wqs = s.wqs := rfl
@[simp] theorem setVd_hub (s : State) (r : Reg) (x : W64) : (s.setVd r x).hub = s.hub := rfl
@[simp] theorem setVd_fabs (s : State) (r : Reg) (x : W64) : (s.setVd r x).fabs = s.fabs := rfl
@[simp] theorem setVd_sessions (s : State) (r : Reg) (x : W64) : (s.setVd r x).sessions = s.sessions := rfl
@[simp] theorem setVd_portsDown (s : State) (r : Reg) (x : W64) : (s.setVd r x).portsDown = s.portsDown := rfl
@[simp] theorem setVd_wire (s : State) (r : Reg) (x : W64) : (s.setVd r x).wire = s.wire := rfl
@[simp] theorem setVd_turns (s : State) (r : Reg) (x : W64) : (s.setVd r x).turns = s.turns := rfl
@[simp] theorem setVd_free (s : State) (r : Reg) (x : W64) : (s.setVd r x).free = s.free := rfl
@[simp] theorem setVd_serial (s : State) (r : Reg) (x : W64) : (s.setVd r x).serial = s.serial := rfl
@[simp] theorem setVd_iss (s : State) (r : Reg) (x : W64) : (s.setVd r x).iss = s.iss := rfl
@[simp] theorem setVd_dbg (s : State) (r : Reg) (x : W64) : (s.setVd r x).dbg = s.dbg := rfl

/-! `setP` -/

@[simp] theorem setP_cycle (s : State) (n : Nat) (b : Bool) : (s.setP n b).cycle = s.cycle := rfl
@[simp] theorem setP_mem (s : State) (n : Nat) (b : Bool) : (s.setP n b).mem = s.mem := rfl
@[simp] theorem setP_groups (s : State) (n : Nat) (b : Bool) : (s.setP n b).groups = s.groups := rfl
@[simp] theorem setP_teams (s : State) (n : Nat) (b : Bool) : (s.setP n b).teams = s.teams := rfl
@[simp] theorem setP_cores (s : State) (n : Nat) (b : Bool) : (s.setP n b).cores = s.cores := rfl
@[simp] theorem setP_engines (s : State) (n : Nat) (b : Bool) : (s.setP n b).engines = s.engines := rfl
@[simp] theorem setP_ctxs (s : State) (n : Nat) (b : Bool) : (s.setP n b).ctxs = s.ctxs := rfl
@[simp] theorem setP_wqs (s : State) (n : Nat) (b : Bool) : (s.setP n b).wqs = s.wqs := rfl
@[simp] theorem setP_hub (s : State) (n : Nat) (b : Bool) : (s.setP n b).hub = s.hub := rfl
@[simp] theorem setP_fabs (s : State) (n : Nat) (b : Bool) : (s.setP n b).fabs = s.fabs := rfl
@[simp] theorem setP_sessions (s : State) (n : Nat) (b : Bool) : (s.setP n b).sessions = s.sessions := rfl
@[simp] theorem setP_portsDown (s : State) (n : Nat) (b : Bool) : (s.setP n b).portsDown = s.portsDown := rfl
@[simp] theorem setP_wire (s : State) (n : Nat) (b : Bool) : (s.setP n b).wire = s.wire := rfl
@[simp] theorem setP_turns (s : State) (n : Nat) (b : Bool) : (s.setP n b).turns = s.turns := rfl
@[simp] theorem setP_free (s : State) (n : Nat) (b : Bool) : (s.setP n b).free = s.free := rfl
@[simp] theorem setP_serial (s : State) (n : Nat) (b : Bool) : (s.setP n b).serial = s.serial := rfl
@[simp] theorem setP_iss (s : State) (n : Nat) (b : Bool) : (s.setP n b).iss = s.iss := rfl
@[simp] theorem setP_dbg (s : State) (n : Nat) (b : Bool) : (s.setP n b).dbg = s.dbg := rfl

/-! `later` -/

@[simp] theorem later_cycle (s : State) (rs : List (Nat × W32)) (ps : List (Nat × Bool)) : (s.later rs ps).cycle = s.cycle := rfl
@[simp] theorem later_mem (s : State) (rs : List (Nat × W32)) (ps : List (Nat × Bool)) : (s.later rs ps).mem = s.mem := rfl
@[simp] theorem later_groups (s : State) (rs : List (Nat × W32)) (ps : List (Nat × Bool)) : (s.later rs ps).groups = s.groups := rfl
@[simp] theorem later_teams (s : State) (rs : List (Nat × W32)) (ps : List (Nat × Bool)) : (s.later rs ps).teams = s.teams := rfl
@[simp] theorem later_cores (s : State) (rs : List (Nat × W32)) (ps : List (Nat × Bool)) : (s.later rs ps).cores = s.cores := rfl
@[simp] theorem later_engines (s : State) (rs : List (Nat × W32)) (ps : List (Nat × Bool)) : (s.later rs ps).engines = s.engines := rfl
@[simp] theorem later_ctxs (s : State) (rs : List (Nat × W32)) (ps : List (Nat × Bool)) : (s.later rs ps).ctxs = s.ctxs := rfl
@[simp] theorem later_wqs (s : State) (rs : List (Nat × W32)) (ps : List (Nat × Bool)) : (s.later rs ps).wqs = s.wqs := rfl
@[simp] theorem later_hub (s : State) (rs : List (Nat × W32)) (ps : List (Nat × Bool)) : (s.later rs ps).hub = s.hub := rfl
@[simp] theorem later_fabs (s : State) (rs : List (Nat × W32)) (ps : List (Nat × Bool)) : (s.later rs ps).fabs = s.fabs := rfl
@[simp] theorem later_sessions (s : State) (rs : List (Nat × W32)) (ps : List (Nat × Bool)) : (s.later rs ps).sessions = s.sessions := rfl
@[simp] theorem later_portsDown (s : State) (rs : List (Nat × W32)) (ps : List (Nat × Bool)) : (s.later rs ps).portsDown = s.portsDown := rfl
@[simp] theorem later_wire (s : State) (rs : List (Nat × W32)) (ps : List (Nat × Bool)) : (s.later rs ps).wire = s.wire := rfl
@[simp] theorem later_turns (s : State) (rs : List (Nat × W32)) (ps : List (Nat × Bool)) : (s.later rs ps).turns = s.turns := rfl
@[simp] theorem later_free (s : State) (rs : List (Nat × W32)) (ps : List (Nat × Bool)) : (s.later rs ps).free = s.free := rfl
@[simp] theorem later_serial (s : State) (rs : List (Nat × W32)) (ps : List (Nat × Bool)) : (s.later rs ps).serial = s.serial := rfl
@[simp] theorem later_iss (s : State) (rs : List (Nat × W32)) (ps : List (Nat × Bool)) : (s.later rs ps).iss = s.iss := rfl
@[simp] theorem later_dbg (s : State) (rs : List (Nat × W32)) (ps : List (Nat × Bool)) : (s.later rs ps).dbg = s.dbg := rfl

/-! `parkThread` -/

@[simp] theorem parkThread_cycle (s : State) (i : Nat) (w : Wait) : (s.parkThread i w).cycle = s.cycle := rfl
@[simp] theorem parkThread_mem (s : State) (i : Nat) (w : Wait) : (s.parkThread i w).mem = s.mem := rfl
@[simp] theorem parkThread_groups (s : State) (i : Nat) (w : Wait) : (s.parkThread i w).groups = s.groups := rfl
@[simp] theorem parkThread_teams (s : State) (i : Nat) (w : Wait) : (s.parkThread i w).teams = s.teams := rfl
@[simp] theorem parkThread_cores (s : State) (i : Nat) (w : Wait) : (s.parkThread i w).cores = s.cores := rfl
@[simp] theorem parkThread_engines (s : State) (i : Nat) (w : Wait) : (s.parkThread i w).engines = s.engines := rfl
@[simp] theorem parkThread_ctxs (s : State) (i : Nat) (w : Wait) : (s.parkThread i w).ctxs = s.ctxs := rfl
@[simp] theorem parkThread_wqs (s : State) (i : Nat) (w : Wait) : (s.parkThread i w).wqs = s.wqs := rfl
@[simp] theorem parkThread_hub (s : State) (i : Nat) (w : Wait) : (s.parkThread i w).hub = s.hub := rfl
@[simp] theorem parkThread_fabs (s : State) (i : Nat) (w : Wait) : (s.parkThread i w).fabs = s.fabs := rfl
@[simp] theorem parkThread_sessions (s : State) (i : Nat) (w : Wait) : (s.parkThread i w).sessions = s.sessions := rfl
@[simp] theorem parkThread_portsDown (s : State) (i : Nat) (w : Wait) : (s.parkThread i w).portsDown = s.portsDown := rfl
@[simp] theorem parkThread_wire (s : State) (i : Nat) (w : Wait) : (s.parkThread i w).wire = s.wire := rfl
@[simp] theorem parkThread_turns (s : State) (i : Nat) (w : Wait) : (s.parkThread i w).turns = s.turns := rfl
@[simp] theorem parkThread_free (s : State) (i : Nat) (w : Wait) : (s.parkThread i w).free = s.free := rfl
@[simp] theorem parkThread_serial (s : State) (i : Nat) (w : Wait) : (s.parkThread i w).serial = s.serial := rfl
@[simp] theorem parkThread_iss (s : State) (i : Nat) (w : Wait) : (s.parkThread i w).iss = s.iss := rfl
@[simp] theorem parkThread_dbg (s : State) (i : Nat) (w : Wait) : (s.parkThread i w).dbg = s.dbg := rfl

/-! `wakeThread` -/

@[simp] theorem wakeThread_cycle (s : State) (i : Nat) : (s.wakeThread i).cycle = s.cycle := rfl
@[simp] theorem wakeThread_mem (s : State) (i : Nat) : (s.wakeThread i).mem = s.mem := rfl
@[simp] theorem wakeThread_groups (s : State) (i : Nat) : (s.wakeThread i).groups = s.groups := rfl
@[simp] theorem wakeThread_teams (s : State) (i : Nat) : (s.wakeThread i).teams = s.teams := rfl
@[simp] theorem wakeThread_cores (s : State) (i : Nat) : (s.wakeThread i).cores = s.cores := rfl
@[simp] theorem wakeThread_engines (s : State) (i : Nat) : (s.wakeThread i).engines = s.engines := rfl
@[simp] theorem wakeThread_ctxs (s : State) (i : Nat) : (s.wakeThread i).ctxs = s.ctxs := rfl
@[simp] theorem wakeThread_wqs (s : State) (i : Nat) : (s.wakeThread i).wqs = s.wqs := rfl
@[simp] theorem wakeThread_hub (s : State) (i : Nat) : (s.wakeThread i).hub = s.hub := rfl
@[simp] theorem wakeThread_fabs (s : State) (i : Nat) : (s.wakeThread i).fabs = s.fabs := rfl
@[simp] theorem wakeThread_sessions (s : State) (i : Nat) : (s.wakeThread i).sessions = s.sessions := rfl
@[simp] theorem wakeThread_portsDown (s : State) (i : Nat) : (s.wakeThread i).portsDown = s.portsDown := rfl
@[simp] theorem wakeThread_wire (s : State) (i : Nat) : (s.wakeThread i).wire = s.wire := rfl
@[simp] theorem wakeThread_turns (s : State) (i : Nat) : (s.wakeThread i).turns = s.turns := rfl
@[simp] theorem wakeThread_free (s : State) (i : Nat) : (s.wakeThread i).free = s.free := rfl
@[simp] theorem wakeThread_serial (s : State) (i : Nat) : (s.wakeThread i).serial = s.serial := rfl
@[simp] theorem wakeThread_iss (s : State) (i : Nat) : (s.wakeThread i).iss = s.iss := rfl
@[simp] theorem wakeThread_dbg (s : State) (i : Nat) : (s.wakeThread i).dbg = s.dbg := rfl

/-! `wake` -/

@[simp] theorem wake_cycle (s : State) (w : Wait) (c : Nat → Bool) : (s.wake w c).cycle = s.cycle := rfl
@[simp] theorem wake_mem (s : State) (w : Wait) (c : Nat → Bool) : (s.wake w c).mem = s.mem := rfl
@[simp] theorem wake_groups (s : State) (w : Wait) (c : Nat → Bool) : (s.wake w c).groups = s.groups := rfl
@[simp] theorem wake_teams (s : State) (w : Wait) (c : Nat → Bool) : (s.wake w c).teams = s.teams := rfl
@[simp] theorem wake_cores (s : State) (w : Wait) (c : Nat → Bool) : (s.wake w c).cores = s.cores := rfl
@[simp] theorem wake_engines (s : State) (w : Wait) (c : Nat → Bool) : (s.wake w c).engines = s.engines := rfl
@[simp] theorem wake_ctxs (s : State) (w : Wait) (c : Nat → Bool) : (s.wake w c).ctxs = s.ctxs := rfl
@[simp] theorem wake_wqs (s : State) (w : Wait) (c : Nat → Bool) : (s.wake w c).wqs = s.wqs := rfl
@[simp] theorem wake_hub (s : State) (w : Wait) (c : Nat → Bool) : (s.wake w c).hub = s.hub := rfl
@[simp] theorem wake_fabs (s : State) (w : Wait) (c : Nat → Bool) : (s.wake w c).fabs = s.fabs := rfl
@[simp] theorem wake_sessions (s : State) (w : Wait) (c : Nat → Bool) : (s.wake w c).sessions = s.sessions := rfl
@[simp] theorem wake_portsDown (s : State) (w : Wait) (c : Nat → Bool) : (s.wake w c).portsDown = s.portsDown := rfl
@[simp] theorem wake_wire (s : State) (w : Wait) (c : Nat → Bool) : (s.wake w c).wire = s.wire := rfl
@[simp] theorem wake_turns (s : State) (w : Wait) (c : Nat → Bool) : (s.wake w c).turns = s.turns := rfl
@[simp] theorem wake_free (s : State) (w : Wait) (c : Nat → Bool) : (s.wake w c).free = s.free := rfl
@[simp] theorem wake_serial (s : State) (w : Wait) (c : Nat → Bool) : (s.wake w c).serial = s.serial := rfl
@[simp] theorem wake_iss (s : State) (w : Wait) (c : Nat → Bool) : (s.wake w c).iss = s.iss := rfl
@[simp] theorem wake_dbg (s : State) (w : Wait) (c : Nat → Bool) : (s.wake w c).dbg = s.dbg := rfl

/-! `newRequest` -/

@[simp] theorem newRequest_cycle (s : State) : (s.newRequest).cycle = s.cycle := rfl
@[simp] theorem newRequest_mem (s : State) : (s.newRequest).mem = s.mem := rfl
@[simp] theorem newRequest_threads (s : State) : (s.newRequest).threads = s.threads := rfl
@[simp] theorem newRequest_groups (s : State) : (s.newRequest).groups = s.groups := rfl
@[simp] theorem newRequest_teams (s : State) : (s.newRequest).teams = s.teams := rfl
@[simp] theorem newRequest_cores (s : State) : (s.newRequest).cores = s.cores := rfl
@[simp] theorem newRequest_engines (s : State) : (s.newRequest).engines = s.engines := rfl
@[simp] theorem newRequest_ctxs (s : State) : (s.newRequest).ctxs = s.ctxs := rfl
@[simp] theorem newRequest_wqs (s : State) : (s.newRequest).wqs = s.wqs := rfl
@[simp] theorem newRequest_hub (s : State) : (s.newRequest).hub = s.hub := rfl
@[simp] theorem newRequest_fabs (s : State) : (s.newRequest).fabs = s.fabs := rfl
@[simp] theorem newRequest_sessions (s : State) : (s.newRequest).sessions = s.sessions := rfl
@[simp] theorem newRequest_portsDown (s : State) : (s.newRequest).portsDown = s.portsDown := rfl
@[simp] theorem newRequest_wire (s : State) : (s.newRequest).wire = s.wire := rfl
@[simp] theorem newRequest_turns (s : State) : (s.newRequest).turns = s.turns := rfl
@[simp] theorem newRequest_free (s : State) : (s.newRequest).free = s.free := rfl
@[simp] theorem newRequest_serial (s : State) : (s.newRequest).serial = s.serial := rfl
@[simp] theorem newRequest_dbg (s : State) : (s.newRequest).dbg = s.dbg := rfl
@[simp] theorem newRequest_get_thread (s : State) (j : Nat) : (s.newRequest).thread j = s.thread j := rfl
@[simp] theorem newRequest_get_group (s : State) (j : Nat) : (s.newRequest).group j = s.group j := rfl
@[simp] theorem newRequest_get_team (s : State) (j : Nat) : (s.newRequest).team j = s.team j := rfl
@[simp] theorem newRequest_get_core (s : State) (j : Nat) : (s.newRequest).core j = s.core j := rfl
@[simp] theorem newRequest_get_ctx (s : State) (j : Nat) : (s.newRequest).ctx j = s.ctx j := rfl
@[simp] theorem newRequest_get_wq (s : State) (j : Nat) : (s.newRequest).wq j = s.wq j := rfl
@[simp] theorem newRequest_get_fab (s : State) (j : Nat) : (s.newRequest).fab j = s.fab j := rfl
@[simp] theorem newRequest_get_engine (s : State) (j : Nat) : (s.newRequest).engine j = s.engine j := rfl

/-! `accept` -/

@[simp] theorem accept_cycle (s : State) (p : Nat) : (s.accept p).cycle = s.cycle := rfl
@[simp] theorem accept_mem (s : State) (p : Nat) : (s.accept p).mem = s.mem := rfl
@[simp] theorem accept_threads (s : State) (p : Nat) : (s.accept p).threads = s.threads := rfl
@[simp] theorem accept_groups (s : State) (p : Nat) : (s.accept p).groups = s.groups := rfl
@[simp] theorem accept_teams (s : State) (p : Nat) : (s.accept p).teams = s.teams := rfl
@[simp] theorem accept_cores (s : State) (p : Nat) : (s.accept p).cores = s.cores := rfl
@[simp] theorem accept_engines (s : State) (p : Nat) : (s.accept p).engines = s.engines := rfl
@[simp] theorem accept_ctxs (s : State) (p : Nat) : (s.accept p).ctxs = s.ctxs := rfl
@[simp] theorem accept_wqs (s : State) (p : Nat) : (s.accept p).wqs = s.wqs := rfl
@[simp] theorem accept_hub (s : State) (p : Nat) : (s.accept p).hub = s.hub := rfl
@[simp] theorem accept_fabs (s : State) (p : Nat) : (s.accept p).fabs = s.fabs := rfl
@[simp] theorem accept_sessions (s : State) (p : Nat) : (s.accept p).sessions = s.sessions := rfl
@[simp] theorem accept_portsDown (s : State) (p : Nat) : (s.accept p).portsDown = s.portsDown := rfl
@[simp] theorem accept_wire (s : State) (p : Nat) : (s.accept p).wire = s.wire := rfl
@[simp] theorem accept_turns (s : State) (p : Nat) : (s.accept p).turns = s.turns := rfl
@[simp] theorem accept_free (s : State) (p : Nat) : (s.accept p).free = s.free := rfl
@[simp] theorem accept_serial (s : State) (p : Nat) : (s.accept p).serial = s.serial := rfl
@[simp] theorem accept_dbg (s : State) (p : Nat) : (s.accept p).dbg = s.dbg := rfl
@[simp] theorem accept_get_thread (s : State) (p : Nat) (j : Nat) : (s.accept p).thread j = s.thread j := rfl
@[simp] theorem accept_get_group (s : State) (p : Nat) (j : Nat) : (s.accept p).group j = s.group j := rfl
@[simp] theorem accept_get_team (s : State) (p : Nat) (j : Nat) : (s.accept p).team j = s.team j := rfl
@[simp] theorem accept_get_core (s : State) (p : Nat) (j : Nat) : (s.accept p).core j = s.core j := rfl
@[simp] theorem accept_get_ctx (s : State) (p : Nat) (j : Nat) : (s.accept p).ctx j = s.ctx j := rfl
@[simp] theorem accept_get_wq (s : State) (p : Nat) (j : Nat) : (s.accept p).wq j = s.wq j := rfl
@[simp] theorem accept_get_fab (s : State) (p : Nat) (j : Nat) : (s.accept p).fab j = s.fab j := rfl
@[simp] theorem accept_get_engine (s : State) (p : Nat) (j : Nat) : (s.accept p).engine j = s.engine j := rfl

@[simp] theorem newRequest_joint (s : State) : s.newRequest.iss.joint = [] := rfl

end Sys2Proof.Machine.State
end

