-- ==== Sys2Proof/Laws/Canonical.lean ====
section
/-! SUPPORT. The canonical form of memory through the shared operations: all that writes bytes comes to `writeAs`. -/

namespace Sys2Proof.Machine.State

theorem canonical_of_mem {s t : State} (hm : t.mem = s.mem) (h : Canonical s) : Canonical t := by
  simpa [Canonical, hm] using h

theorem canonical_recastBlock {s : State} (cipher : Option Nat) (b : Nat) (h : Canonical s) : Canonical (s.recastBlock cipher b) := by
  unfold recastBlock; split
  · exact h
  · exact Memory.wf_writes _ _ h

theorem canonical_recastSpan {s : State} (cipher : Option Nat) (key n : Nat) (h : Canonical s) : Canonical (s.recastSpan cipher key n) := by
  unfold recastSpan
  induction span (key / 16) ((key + n + 15) / 16 - key / 16) generalizing s with
  | nil => exact h
  | cons b bs ih => exact ih (canonical_recastBlock _ _ h)

theorem canonical_writeAs {s : State} (who cipher : Option Nat) (key : Nat) (bs : List Byte) (h : Canonical s) :
    Canonical (s.writeAs who cipher key bs) := by
  unfold writeAs; split
  · exact Memory.wf_writes _ _ (canonical_recastSpan _ _ _ h)
  · exact h

theorem canonical_physWrite {s : State} (who : Option Nat) (key : Nat) (bs : List Byte) (h : Canonical s) :
    Canonical (s.physWrite who key bs) := canonical_writeAs _ _ _ _ h

theorem canonical_pageWrite {s : State} (c : Nat) (prot : Bool) (key : Nat) (bs : List Byte) (h : Canonical s) :
    Canonical (s.pageWrite c prot key bs) := by
  unfold pageWrite; split <;> exact canonical_writeAs _ _ _ _ h

@[simp] theorem interrupt_mem (s : State) (v : Nat) : (s.interrupt v).mem = s.mem := by
  unfold interrupt; split <;> rfl

@[simp] theorem onHub_mem (s : State) (f : Hub → Hub) : (s.onHub f).mem = s.mem := by
  simp only [onHub]; split
  · rfl
  · rw [interrupt_mem]

theorem canonical_ctxWrite {s : State} (c pa : Nat) (bs : List Byte) (h : Canonical s) : Canonical (s.ctxWrite c pa bs) :=
  canonical_physWrite _ _ _ h

@[simp] theorem charge_mem (s : State) (c kind point units : Nat) : (s.charge c kind point units).mem = s.mem := by
  unfold charge; split <;> rfl

@[simp] theorem chargeAt_mem (s : State) (c pa units : Nat) : (s.chargeAt c pa units).mem = s.mem := charge_mem ..

theorem canonical_errorRecord {s : State} (c type cause kind : Nat) (addr : W64) (tag source : Nat) (h : Canonical s) :
    Canonical (s.errorRecord c type cause kind addr tag source) := by
  simp only [errorRecord]; split
  · exact canonical_of_mem (by simp) h
  · exact canonical_of_mem (interrupt_mem _ _) (canonical_ctxWrite _ _ _ (canonical_of_mem (by simp) h))

theorem canonical_faultRecord {s : State} (c : Nat) (u : UnderFault) (h : Canonical s) : Canonical (s.faultRecord c u).2 := by
  simp only [faultRecord]; split
  · exact canonical_of_mem (by simp) h
  · exact canonical_of_mem (interrupt_mem _ _) (canonical_ctxWrite _ _ _ (canonical_of_mem (by simp) h))

/-- A warm reset keeps the memory. -/
@[simp] theorem warm_mem (s : State) : s.warm.mem = s.mem := by
  simp only [warm, boot, onHub_mem]; rfl

end Sys2Proof.Machine.State
end

