-- ==== Sys2Proof/Laws/Fabric.lean ====
section
/-! SUPPORT. Fields of words, the global window, and the shared frame of an Akpor instruction. -/

namespace Sys2Proof.Machine

/-- A field of w bits at p is a quotient's remainder. -/
theorem bitsAt_eq (x p w : Nat) : bitsAt x p w = x / 2 ^ p % 2 ^ w := by
  simp [bitsAt, Nat.shiftRight_eq_div_pow]

/-- The global window is the addresses below 2^57 (R94). -/
theorem isGlobal_iff (x : W64) : isGlobal x = true ↔ x.toNat < 2 ^ 57 := by
  have := x.isLt
  simp only [isGlobal, bitsAt_eq, beq_iff_eq]
  omega

/-- A ready slot makes the checks and the effect of its instruction. -/
theorem fxIssue_ready {s : State} {x : FSlot} (h : SlotReady s x) (k : FSlot → State → FRes Bool) :
    fxIssue s k = .next (State.fxSettle (k x s)) := by
  simp [fxIssue, show s.fslot s.iss.proc s.iss.slot = some x from h]

/-- An instruction that only changes its slot leaves the slot at the next instruction. -/
theorem fxTo_ready {s : State} {x : FSlot} (h : SlotReady s x) (f : FSlot → FSlot) :
    fxTo s f = .next (State.fxSettle (.ok true (s.setFSlot s.iss.proc s.iss.slot (f x)))) := by
  simp [fxTo, fxIssue_ready h]

/-- An instruction with a condition on its operands changes its slot, or ends the collective with status 4. -/
theorem fxIf_ready {s : State} {x : FSlot} (h : SlotReady s x) (ok : FSlot → Bool) (f : FSlot → FSlot) :
    fxIf s ok f = .next (if ok x then State.fxSettle (.ok true (s.setFSlot s.iss.proc s.iss.slot (f x)))
      else s.beginEnd s.iss.proc s.iss.slot 4) := by
  simp only [fxIf, fxIssue_ready h]; split <;> rfl

end Sys2Proof.Machine
end

