-- ==== Sys2Proof/Laws/Issue.lean ====
section
/-! SUPPORT. What the shared frame of a Gorbex instruction does: its register checks, and the outcome of its own checks and effect. -/

namespace Sys2Proof.Machine

theorem find_none_of_all {α : Type} (p q : α → Bool) (ts : List α) (h : ts.all (fun x => !p x && q x) = true) :
    ts.find? p = none := by
  rw [List.find?_eq_none]; intro x hx
  have := List.all_eq_true.mp h x hx
  simp_all

/-- Clear registers pass the register checks. -/
theorem checkTouches_clear {s : State} {ts : List Touch} (h : ts.all (fun x => x.clear s.opnd) = true) :
    checkTouches s ts = .ok () s := by
  have h1 : ts.find? (·.above s.opnd.limit) = none := find_none_of_all _ (fun x => !x.pendingIn s.opnd) ts h
  have h2 : ts.find? (·.pendingIn s.opnd) = none :=
    find_none_of_all _ (fun x => !x.above s.opnd.limit) ts (by simpa [Bool.and_comm] using h)
  simp [checkTouches, h1, h2]

/-- A ready thread makes the checks and the effect of its instruction. -/
theorem issue_ready {s : State} {ts : List Touch} (h : Ready s ts) (k : State → Res Unit) :
    issue s ts k = .next (k s).settle := by
  simp [issue, h.1, checkTouches_clear h.2, Res.andThen]

/-- A ready thread executes an instruction without further checks. -/
theorem issueTo_ready {s : State} {ts : List Touch} (h : Ready s ts) (f : State → State) :
    issueTo s ts f = .next (f s) := by
  simp [issueTo, issue_ready h, Res.settle]

/-- An instruction of a live thread always answers a next state. -/
theorem issue_live {s : State} (h : s.thr.live = true) (ts : List Touch) (k : State → Res Unit) :
    issue s ts k = .next ((checkTouches s ts).andThen fun _ s => k s).settle := by
  simp [issue, h]

/-- A register at or above the limit traps with cause 0x03, before any hazard (R53). -/
theorem checkTouches_above {s : State} {ts : List Touch} {x : Touch} (h : ts.find? (·.above s.opnd.limit) = some x) :
    checkTouches s ts = .trap 0x03 0 x.info s := by
  simp [checkTouches, h]

/-- A pending register traps with cause 0x04 (R60). -/
theorem checkTouches_pending {s : State} {ts : List Touch} {x : Touch} (h : ts.find? (·.above s.opnd.limit) = none)
    (hp : ts.find? (·.pendingIn s.opnd) = some x) : checkTouches s ts = .trap 0x04 0 x.info s := by
  simp [checkTouches, h, hp]

end Sys2Proof.Machine
end

