-- ==== Sys2Proof/Laws/PerInstr.lean ====
section
/-! SUPPORT. The family `EncodedOnce`, one lemma per instruction: an instruction has a Gorbex word, an Akpor word or none, and never
both (R314, R331). -/

namespace Sys2Proof.Laws.EncodedOnce

/-- No instruction is encoded both ways. -/
def Statement (i : Instr) : Prop := encodeBody i = none ∨ encodeFx i = none

end Sys2Proof.Laws.EncodedOnce

open Sys2Proof

theorem Sys2Proof.Laws.EncodedOnce.nop : Laws.EncodedOnce.Statement (.nop) := .inr rfl
theorem Sys2Proof.Laws.EncodedOnce.add (d a b m) : Laws.EncodedOnce.Statement (.add d a b m) := .inr rfl
theorem Sys2Proof.Laws.EncodedOnce.addImm (d a imm) : Laws.EncodedOnce.Statement (.addImm d a imm) := .inr rfl
theorem Sys2Proof.Laws.EncodedOnce.sub (d a b m) : Laws.EncodedOnce.Statement (.sub d a b m) := .inr rfl
theorem Sys2Proof.Laws.EncodedOnce.mul (d a b) : Laws.EncodedOnce.Statement (.mul d a b) := .inr rfl
theorem Sys2Proof.Laws.EncodedOnce.mulImm (d a imm) : Laws.EncodedOnce.Statement (.mulImm d a imm) := .inr rfl
theorem Sys2Proof.Laws.EncodedOnce.mulh (d a b m) : Laws.EncodedOnce.Statement (.mulh d a b m) := .inr rfl
theorem Sys2Proof.Laws.EncodedOnce.mad (d a b) : Laws.EncodedOnce.Statement (.mad d a b) := .inr rfl
theorem Sys2Proof.Laws.EncodedOnce.and (d a b m) : Laws.EncodedOnce.Statement (.and d a b m) := .inr rfl
theorem Sys2Proof.Laws.EncodedOnce.andImm (d a imm) : Laws.EncodedOnce.Statement (.andImm d a imm) := .inr rfl
theorem Sys2Proof.Laws.EncodedOnce.or (d a b m) : Laws.EncodedOnce.Statement (.or d a b m) := .inr rfl
theorem Sys2Proof.Laws.EncodedOnce.orImm (d a imm) : Laws.EncodedOnce.Statement (.orImm d a imm) := .inr rfl
theorem Sys2Proof.Laws.EncodedOnce.xor (d a b m) : Laws.EncodedOnce.Statement (.xor d a b m) := .inr rfl
theorem Sys2Proof.Laws.EncodedOnce.xorImm (d a imm) : Laws.EncodedOnce.Statement (.xorImm d a imm) := .inr rfl
theorem Sys2Proof.Laws.EncodedOnce.shl (d a b m) : Laws.EncodedOnce.Statement (.shl d a b m) := .inr rfl
theorem Sys2Proof.Laws.EncodedOnce.shlImm (d a imm) : Laws.EncodedOnce.Statement (.shlImm d a imm) := .inr rfl
theorem Sys2Proof.Laws.EncodedOnce.shr (d a b m) : Laws.EncodedOnce.Statement (.shr d a b m) := .inr rfl
theorem Sys2Proof.Laws.EncodedOnce.shrImm (d a imm) : Laws.EncodedOnce.Statement (.shrImm d a imm) := .inr rfl
theorem Sys2Proof.Laws.EncodedOnce.sar (d a b m) : Laws.EncodedOnce.Statement (.sar d a b m) := .inr rfl
theorem Sys2Proof.Laws.EncodedOnce.sarImm (d a imm) : Laws.EncodedOnce.Statement (.sarImm d a imm) := .inr rfl
theorem Sys2Proof.Laws.EncodedOnce.min (d a b m) : Laws.EncodedOnce.Statement (.min d a b m) := .inr rfl
theorem Sys2Proof.Laws.EncodedOnce.max (d a b m) : Laws.EncodedOnce.Statement (.max d a b m) := .inr rfl
theorem Sys2Proof.Laws.EncodedOnce.sel (d a b) : Laws.EncodedOnce.Statement (.sel d a b) := .inr rfl
theorem Sys2Proof.Laws.EncodedOnce.bfx (d a b m) : Laws.EncodedOnce.Statement (.bfx d a b m) := .inr rfl
theorem Sys2Proof.Laws.EncodedOnce.bfi (d a b) : Laws.EncodedOnce.Statement (.bfi d a b) := .inr rfl
theorem Sys2Proof.Laws.EncodedOnce.cmpEq (d a b m) : Laws.EncodedOnce.Statement (.cmpEq d a b m) := .inr rfl
theorem Sys2Proof.Laws.EncodedOnce.cmpNe (d a b m) : Laws.EncodedOnce.Statement (.cmpNe d a b m) := .inr rfl
theorem Sys2Proof.Laws.EncodedOnce.cmpLt (d a b m) : Laws.EncodedOnce.Statement (.cmpLt d a b m) := .inr rfl
theorem Sys2Proof.Laws.EncodedOnce.cmpLe (d a b m) : Laws.EncodedOnce.Statement (.cmpLe d a b m) := .inr rfl
theorem Sys2Proof.Laws.EncodedOnce.cmpLtu (d a b m) : Laws.EncodedOnce.Statement (.cmpLtu d a b m) := .inr rfl
theorem Sys2Proof.Laws.EncodedOnce.cmpLeu (d a b m) : Laws.EncodedOnce.Statement (.cmpLeu d a b m) := .inr rfl
theorem Sys2Proof.Laws.EncodedOnce.pand (d a b m) : Laws.EncodedOnce.Statement (.pand d a b m) := .inr rfl
theorem Sys2Proof.Laws.EncodedOnce.por (d a b m) : Laws.EncodedOnce.Statement (.por d a b m) := .inr rfl
theorem Sys2Proof.Laws.EncodedOnce.pxor (d a b m) : Laws.EncodedOnce.Statement (.pxor d a b m) := .inr rfl
theorem Sys2Proof.Laws.EncodedOnce.pnot (d a m) : Laws.EncodedOnce.Statement (.pnot d a m) := .inr rfl
theorem Sys2Proof.Laws.EncodedOnce.pmov (d a m) : Laws.EncodedOnce.Statement (.pmov d a m) := .inr rfl
theorem Sys2Proof.Laws.EncodedOnce.ldsB (d a imm) : Laws.EncodedOnce.Statement (.ldsB d a imm) := .inr rfl
theorem Sys2Proof.Laws.EncodedOnce.ldsH (d a imm) : Laws.EncodedOnce.Statement (.ldsH d a imm) := .inr rfl
theorem Sys2Proof.Laws.EncodedOnce.lds (d a imm) : Laws.EncodedOnce.Statement (.lds d a imm) := .inr rfl
theorem Sys2Proof.Laws.EncodedOnce.ldsD (d a imm) : Laws.EncodedOnce.Statement (.ldsD d a imm) := .inr rfl
theorem Sys2Proof.Laws.EncodedOnce.stsB (d a imm) : Laws.EncodedOnce.Statement (.stsB d a imm) := .inr rfl
theorem Sys2Proof.Laws.EncodedOnce.stsH (d a imm) : Laws.EncodedOnce.Statement (.stsH d a imm) := .inr rfl
theorem Sys2Proof.Laws.EncodedOnce.sts (d a imm) : Laws.EncodedOnce.Statement (.sts d a imm) := .inr rfl
theorem Sys2Proof.Laws.EncodedOnce.stsD (d a imm) : Laws.EncodedOnce.Statement (.stsD d a imm) := .inr rfl
theorem Sys2Proof.Laws.EncodedOnce.ldB (d a imm) : Laws.EncodedOnce.Statement (.ldB d a imm) := .inr rfl
theorem Sys2Proof.Laws.EncodedOnce.ldH (d a imm) : Laws.EncodedOnce.Statement (.ldH d a imm) := .inr rfl
theorem Sys2Proof.Laws.EncodedOnce.ld (d a imm) : Laws.EncodedOnce.Statement (.ld d a imm) := .inr rfl
theorem Sys2Proof.Laws.EncodedOnce.ldD (d a imm) : Laws.EncodedOnce.Statement (.ldD d a imm) := .inr rfl
theorem Sys2Proof.Laws.EncodedOnce.stB (d a imm) : Laws.EncodedOnce.Statement (.stB d a imm) := .inr rfl
theorem Sys2Proof.Laws.EncodedOnce.stH (d a imm) : Laws.EncodedOnce.Statement (.stH d a imm) := .inr rfl
theorem Sys2Proof.Laws.EncodedOnce.st (d a imm) : Laws.EncodedOnce.Statement (.st d a imm) := .inr rfl
theorem Sys2Proof.Laws.EncodedOnce.stD (d a imm) : Laws.EncodedOnce.Statement (.stD d a imm) := .inr rfl
theorem Sys2Proof.Laws.EncodedOnce.ldp (d a imm) : Laws.EncodedOnce.Statement (.ldp d a imm) := .inr rfl
theorem Sys2Proof.Laws.EncodedOnce.ldpD (d a imm) : Laws.EncodedOnce.Statement (.ldpD d a imm) := .inr rfl
theorem Sys2Proof.Laws.EncodedOnce.stp (d a imm) : Laws.EncodedOnce.Statement (.stp d a imm) := .inr rfl
theorem Sys2Proof.Laws.EncodedOnce.stpD (d a imm) : Laws.EncodedOnce.Statement (.stpD d a imm) := .inr rfl
theorem Sys2Proof.Laws.EncodedOnce.movi (d imm) : Laws.EncodedOnce.Statement (.movi d imm) := .inr rfl
theorem Sys2Proof.Laws.EncodedOnce.movh (d imm) : Laws.EncodedOnce.Statement (.movh d imm) := .inr rfl
theorem Sys2Proof.Laws.EncodedOnce.srd (d imm) : Laws.EncodedOnce.Statement (.srd d imm) := .inr rfl
theorem Sys2Proof.Laws.EncodedOnce.swr (d imm) : Laws.EncodedOnce.Statement (.swr d imm) := .inr rfl
theorem Sys2Proof.Laws.EncodedOnce.lit (d imm) : Laws.EncodedOnce.Statement (.lit d imm) := .inr rfl
theorem Sys2Proof.Laws.EncodedOnce.pref (a imm) : Laws.EncodedOnce.Statement (.pref a imm) := .inr rfl
theorem Sys2Proof.Laws.EncodedOnce.voteAny (d a) : Laws.EncodedOnce.Statement (.voteAny d a) := .inr rfl
theorem Sys2Proof.Laws.EncodedOnce.voteAll (d a) : Laws.EncodedOnce.Statement (.voteAll d a) := .inr rfl
theorem Sys2Proof.Laws.EncodedOnce.voteBallot (d a) : Laws.EncodedOnce.Statement (.voteBallot d a) := .inr rfl
theorem Sys2Proof.Laws.EncodedOnce.shfl (d a b m) : Laws.EncodedOnce.Statement (.shfl d a b m) := .inr rfl
theorem Sys2Proof.Laws.EncodedOnce.copy (d a b m) : Laws.EncodedOnce.Statement (.copy d a b m) := .inr rfl
theorem Sys2Proof.Laws.EncodedOnce.gath (d a b m) : Laws.EncodedOnce.Statement (.gath d a b m) := .inr rfl
theorem Sys2Proof.Laws.EncodedOnce.unfold (d a b m) : Laws.EncodedOnce.Statement (.unfold d a b m) := .inr rfl
theorem Sys2Proof.Laws.EncodedOnce.quant (d a b m) : Laws.EncodedOnce.Statement (.quant d a b m) := .inr rfl
theorem Sys2Proof.Laws.EncodedOnce.mma (d a b m) : Laws.EncodedOnce.Statement (.mma d a b m) := .inr rfl
theorem Sys2Proof.Laws.EncodedOnce.mmo (d a b m) : Laws.EncodedOnce.Statement (.mmo d a b m) := .inr rfl
theorem Sys2Proof.Laws.EncodedOnce.tile (d a b) : Laws.EncodedOnce.Statement (.tile d a b) := .inr rfl
theorem Sys2Proof.Laws.EncodedOnce.obres (d a b m) : Laws.EncodedOnce.Statement (.obres d a b m) := .inr rfl
theorem Sys2Proof.Laws.EncodedOnce.fread (d a b) : Laws.EncodedOnce.Statement (.fread d a b) := .inr rfl
theorem Sys2Proof.Laws.EncodedOnce.fwrite (d a b m) : Laws.EncodedOnce.Statement (.fwrite d a b m) := .inr rfl
theorem Sys2Proof.Laws.EncodedOnce.arm (d a b m) : Laws.EncodedOnce.Statement (.arm d a b m) := .inr rfl
theorem Sys2Proof.Laws.EncodedOnce.cinc (a b) : Laws.EncodedOnce.Statement (.cinc a b) := .inr rfl
theorem Sys2Proof.Laws.EncodedOnce.cstart (d a b) : Laws.EncodedOnce.Statement (.cstart d a b) := .inr rfl
theorem Sys2Proof.Laws.EncodedOnce.renq (d a m) : Laws.EncodedOnce.Statement (.renq d a m) := .inr rfl
theorem Sys2Proof.Laws.EncodedOnce.wenq (d a m) : Laws.EncodedOnce.Statement (.wenq d a m) := .inr rfl
theorem Sys2Proof.Laws.EncodedOnce.mov (d a) : Laws.EncodedOnce.Statement (.mov d a) := .inr rfl
theorem Sys2Proof.Laws.EncodedOnce.clz (d a) : Laws.EncodedOnce.Statement (.clz d a) := .inr rfl
theorem Sys2Proof.Laws.EncodedOnce.popc (d a) : Laws.EncodedOnce.Statement (.popc d a) := .inr rfl
theorem Sys2Proof.Laws.EncodedOnce.leaS (d a) : Laws.EncodedOnce.Statement (.leaS d a) := .inr rfl
theorem Sys2Proof.Laws.EncodedOnce.leaP (d a) : Laws.EncodedOnce.Statement (.leaP d a) := .inr rfl
theorem Sys2Proof.Laws.EncodedOnce.frcp (d a) : Laws.EncodedOnce.Statement (.frcp d a) := .inr rfl
theorem Sys2Proof.Laws.EncodedOnce.frsq (d a) : Laws.EncodedOnce.Statement (.frsq d a) := .inr rfl
theorem Sys2Proof.Laws.EncodedOnce.fsqrt (d a) : Laws.EncodedOnce.Statement (.fsqrt d a) := .inr rfl
theorem Sys2Proof.Laws.EncodedOnce.fexp2 (d a) : Laws.EncodedOnce.Statement (.fexp2 d a) := .inr rfl
theorem Sys2Proof.Laws.EncodedOnce.flog2 (d a) : Laws.EncodedOnce.Statement (.flog2 d a) := .inr rfl
theorem Sys2Proof.Laws.EncodedOnce.atom (op w64 scope d a) : Laws.EncodedOnce.Statement (.atom op w64 scope d a) := .inr rfl
theorem Sys2Proof.Laws.EncodedOnce.red (op w64 scope d a) : Laws.EncodedOnce.Statement (.red op w64 scope d a) := .inr rfl
theorem Sys2Proof.Laws.EncodedOnce.fence : Laws.EncodedOnce.Statement (.fence) := .inr rfl
theorem Sys2Proof.Laws.EncodedOnce.fenceE : Laws.EncodedOnce.Statement (.fenceE) := .inr rfl
theorem Sys2Proof.Laws.EncodedOnce.fenceW : Laws.EncodedOnce.Statement (.fenceW) := .inr rfl
theorem Sys2Proof.Laws.EncodedOnce.clean (a) : Laws.EncodedOnce.Statement (.clean a) := .inr rfl
theorem Sys2Proof.Laws.EncodedOnce.obrel (a) : Laws.EncodedOnce.Statement (.obrel a) := .inr rfl
theorem Sys2Proof.Laws.EncodedOnce.spawn (a) : Laws.EncodedOnce.Statement (.spawn a) := .inr rfl
theorem Sys2Proof.Laws.EncodedOnce.disarm (d a) : Laws.EncodedOnce.Statement (.disarm d a) := .inr rfl
theorem Sys2Proof.Laws.EncodedOnce.exit : Laws.EncodedOnce.Statement (.exit) := .inr rfl
theorem Sys2Proof.Laws.EncodedOnce.yield : Laws.EncodedOnce.Statement (.yield) := .inr rfl
theorem Sys2Proof.Laws.EncodedOnce.ret : Laws.EncodedOnce.Statement (.ret) := .inr rfl
theorem Sys2Proof.Laws.EncodedOnce.rfe : Laws.EncodedOnce.Statement (.rfe) := .inr rfl
theorem Sys2Proof.Laws.EncodedOnce.brx (a) : Laws.EncodedOnce.Statement (.brx a) := .inr rfl
theorem Sys2Proof.Laws.EncodedOnce.callReg (a) : Laws.EncodedOnce.Statement (.callReg a) := .inr rfl
theorem Sys2Proof.Laws.EncodedOnce.gbar : Laws.EncodedOnce.Statement (.gbar) := .inr rfl
theorem Sys2Proof.Laws.EncodedOnce.tbar : Laws.EncodedOnce.Statement (.tbar) := .inr rfl
theorem Sys2Proof.Laws.EncodedOnce.wend (a) : Laws.EncodedOnce.Statement (.wend a) := .inr rfl
theorem Sys2Proof.Laws.EncodedOnce.wvr (d a) : Laws.EncodedOnce.Statement (.wvr d a) := .inr rfl
theorem Sys2Proof.Laws.EncodedOnce.choose (a) : Laws.EncodedOnce.Statement (.choose a) := .inr rfl
theorem Sys2Proof.Laws.EncodedOnce.barInit (d a) : Laws.EncodedOnce.Statement (.barInit d a) := .inr rfl
theorem Sys2Proof.Laws.EncodedOnce.barExpect (d a) : Laws.EncodedOnce.Statement (.barExpect d a) := .inr rfl
theorem Sys2Proof.Laws.EncodedOnce.barArrive (d a) : Laws.EncodedOnce.Statement (.barArrive d a) := .inr rfl
theorem Sys2Proof.Laws.EncodedOnce.barWait (d a b m) : Laws.EncodedOnce.Statement (.barWait d a b m) := .inr rfl
theorem Sys2Proof.Laws.EncodedOnce.barTry (d a b m) : Laws.EncodedOnce.Statement (.barTry d a b m) := .inr rfl
theorem Sys2Proof.Laws.EncodedOnce.br (off) : Laws.EncodedOnce.Statement (.br off) := .inr rfl
theorem Sys2Proof.Laws.EncodedOnce.call (off) : Laws.EncodedOnce.Statement (.call off) := .inr rfl
theorem Sys2Proof.Laws.EncodedOnce.fork (d imm) : Laws.EncodedOnce.Statement (.fork d imm) := .inr rfl
theorem Sys2Proof.Laws.EncodedOnce.rgive (imm) : Laws.EncodedOnce.Statement (.rgive imm) := .inr rfl
theorem Sys2Proof.Laws.EncodedOnce.rclaim (imm) : Laws.EncodedOnce.Statement (.rclaim imm) := .inr rfl
theorem Sys2Proof.Laws.EncodedOnce.brk (imm) : Laws.EncodedOnce.Statement (.brk imm) := .inr rfl
theorem Sys2Proof.Laws.EncodedOnce.trap (imm) : Laws.EncodedOnce.Statement (.trap imm) := .inr rfl
theorem Sys2Proof.Laws.EncodedOnce.redux (op d a) : Laws.EncodedOnce.Statement (.redux op d a) := .inr rfl
theorem Sys2Proof.Laws.EncodedOnce.fadd (rnd d a b) : Laws.EncodedOnce.Statement (.fadd rnd d a b) := .inr rfl
theorem Sys2Proof.Laws.EncodedOnce.fmul (rnd d a b) : Laws.EncodedOnce.Statement (.fmul rnd d a b) := .inr rfl
theorem Sys2Proof.Laws.EncodedOnce.fma (rnd d a b) : Laws.EncodedOnce.Statement (.fma rnd d a b) := .inr rfl
theorem Sys2Proof.Laws.EncodedOnce.fmin (d a b) : Laws.EncodedOnce.Statement (.fmin d a b) := .inr rfl
theorem Sys2Proof.Laws.EncodedOnce.fmax (d a b) : Laws.EncodedOnce.Statement (.fmax d a b) := .inr rfl
theorem Sys2Proof.Laws.EncodedOnce.fcmpEq (d a b m) : Laws.EncodedOnce.Statement (.fcmpEq d a b m) := .inr rfl
theorem Sys2Proof.Laws.EncodedOnce.fcmpLt (d a b m) : Laws.EncodedOnce.Statement (.fcmpLt d a b m) := .inr rfl
theorem Sys2Proof.Laws.EncodedOnce.fcmpLe (d a b m) : Laws.EncodedOnce.Statement (.fcmpLe d a b m) := .inr rfl
theorem Sys2Proof.Laws.EncodedOnce.fcmpUn (d a b m) : Laws.EncodedOnce.Statement (.fcmpUn d a b m) := .inr rfl
theorem Sys2Proof.Laws.EncodedOnce.hadd2 (d a b m) : Laws.EncodedOnce.Statement (.hadd2 d a b m) := .inr rfl
theorem Sys2Proof.Laws.EncodedOnce.hmul2 (d a b m) : Laws.EncodedOnce.Statement (.hmul2 d a b m) := .inr rfl
theorem Sys2Proof.Laws.EncodedOnce.hfma2 (d a b m) : Laws.EncodedOnce.Statement (.hfma2 d a b m) := .inr rfl
theorem Sys2Proof.Laws.EncodedOnce.hmin2 (d a b m) : Laws.EncodedOnce.Statement (.hmin2 d a b m) := .inr rfl
theorem Sys2Proof.Laws.EncodedOnce.hmax2 (d a b m) : Laws.EncodedOnce.Statement (.hmax2 d a b m) := .inr rfl
theorem Sys2Proof.Laws.EncodedOnce.cvtFromF32 (dst sat rnd d a) : Laws.EncodedOnce.Statement (.cvtFromF32 dst sat rnd d a) := .inr rfl
theorem Sys2Proof.Laws.EncodedOnce.cvtFromF16 (dst sat rnd d a) : Laws.EncodedOnce.Statement (.cvtFromF16 dst sat rnd d a) := .inr rfl
theorem Sys2Proof.Laws.EncodedOnce.cvtFromBf16 (dst sat rnd d a) : Laws.EncodedOnce.Statement (.cvtFromBf16 dst sat rnd d a) := .inr rfl
theorem Sys2Proof.Laws.EncodedOnce.cvtFromE4m3 (dst sat rnd d a) : Laws.EncodedOnce.Statement (.cvtFromE4m3 dst sat rnd d a) := .inr rfl
theorem Sys2Proof.Laws.EncodedOnce.cvtFromE5m2 (dst sat rnd d a) : Laws.EncodedOnce.Statement (.cvtFromE5m2 dst sat rnd d a) := .inr rfl
theorem Sys2Proof.Laws.EncodedOnce.cvtFromE2m1 (dst sat rnd d a) : Laws.EncodedOnce.Statement (.cvtFromE2m1 dst sat rnd d a) := .inr rfl
theorem Sys2Proof.Laws.EncodedOnce.cvtFromInt32 (dst sat rnd d a) : Laws.EncodedOnce.Statement (.cvtFromInt32 dst sat rnd d a) := .inr rfl
theorem Sys2Proof.Laws.EncodedOnce.cvtFromUint32 (dst sat rnd d a) : Laws.EncodedOnce.Statement (.cvtFromUint32 dst sat rnd d a) := .inr rfl
theorem Sys2Proof.Laws.EncodedOnce.cvtFromE8m0 (dst sat rnd d a) : Laws.EncodedOnce.Statement (.cvtFromE8m0 dst sat rnd d a) := .inr rfl
theorem Sys2Proof.Laws.EncodedOnce.fxLi (h d a imm) : Laws.EncodedOnce.Statement (.fxLi h d a imm) := .inl rfl
theorem Sys2Proof.Laws.EncodedOnce.fxLd (width d a imm) : Laws.EncodedOnce.Statement (.fxLd width d a imm) := .inl rfl
theorem Sys2Proof.Laws.EncodedOnce.fxSt (width d a imm) : Laws.EncodedOnce.Statement (.fxSt width d a imm) := .inl rfl
theorem Sys2Proof.Laws.EncodedOnce.fxAdd (form d a b) : Laws.EncodedOnce.Statement (.fxAdd form d a b) := .inl rfl
theorem Sys2Proof.Laws.EncodedOnce.fxCmp (sgn a b) : Laws.EncodedOnce.Statement (.fxCmp sgn a b) := .inl rfl
theorem Sys2Proof.Laws.EncodedOnce.fxBr (target) : Laws.EncodedOnce.Statement (.fxBr target) := .inl rfl
theorem Sys2Proof.Laws.EncodedOnce.fxBcc (cc target) : Laws.EncodedOnce.Statement (.fxBcc cc target) := .inl rfl
theorem Sys2Proof.Laws.EncodedOnce.fxLoop (a target) : Laws.EncodedOnce.Statement (.fxLoop a target) := .inl rfl
theorem Sys2Proof.Laws.EncodedOnce.fxEnd : Laws.EncodedOnce.Statement (.fxEnd) := .inl rfl
theorem Sys2Proof.Laws.EncodedOnce.fxDeadline (a imm) : Laws.EncodedOnce.Statement (.fxDeadline a imm) := .inl rfl
theorem Sys2Proof.Laws.EncodedOnce.fxQuorum (off) : Laws.EncodedOnce.Statement (.fxQuorum off) := .inl rfl
theorem Sys2Proof.Laws.EncodedOnce.fxHist (off) : Laws.EncodedOnce.Statement (.fxHist off) := .inl rfl
theorem Sys2Proof.Laws.EncodedOnce.fxScale (a imm) : Laws.EncodedOnce.Statement (.fxScale a imm) := .inl rfl
theorem Sys2Proof.Laws.EncodedOnce.fxItin (j clr a imm) : Laws.EncodedOnce.Statement (.fxItin j clr a imm) := .inl rfl
theorem Sys2Proof.Laws.EncodedOnce.fxStep (a imm) : Laws.EncodedOnce.Statement (.fxStep a imm) := .inl rfl
theorem Sys2Proof.Laws.EncodedOnce.fxSend (a b) : Laws.EncodedOnce.Statement (.fxSend a b) := .inl rfl
theorem Sys2Proof.Laws.EncodedOnce.fxRecv (dlv sig d a b) : Laws.EncodedOnce.Statement (.fxRecv dlv sig d a b) := .inl rfl
theorem Sys2Proof.Laws.EncodedOnce.fxWait (d k) : Laws.EncodedOnce.Statement (.fxWait d k) := .inl rfl
theorem Sys2Proof.Laws.EncodedOnce.fxMatch (d b) : Laws.EncodedOnce.Statement (.fxMatch d b) := .inl rfl
theorem Sys2Proof.Laws.EncodedOnce.fxRed (nh d a b) : Laws.EncodedOnce.Statement (.fxRed nh d a b) := .inl rfl
theorem Sys2Proof.Laws.EncodedOnce.fxResid (clr d a imm) : Laws.EncodedOnce.Statement (.fxResid clr d a imm) := .inl rfl
theorem Sys2Proof.Laws.EncodedOnce.fxPack1 (d a b) : Laws.EncodedOnce.Statement (.fxPack1 d a b) := .inl rfl
theorem Sys2Proof.Laws.EncodedOnce.fxPack3 (d a b) : Laws.EncodedOnce.Statement (.fxPack3 d a b) := .inl rfl
theorem Sys2Proof.Laws.EncodedOnce.fxPackq (d a b) : Laws.EncodedOnce.Statement (.fxPackq d a b) := .inl rfl
theorem Sys2Proof.Laws.EncodedOnce.fxUnpack (code d a b) : Laws.EncodedOnce.Statement (.fxUnpack code d a b) := .inl rfl
theorem Sys2Proof.Laws.EncodedOnce.fxGather (a b) : Laws.EncodedOnce.Statement (.fxGather a b) := .inl rfl
theorem Sys2Proof.Laws.EncodedOnce.fxSig (a b) : Laws.EncodedOnce.Statement (.fxSig a b) := .inl rfl
theorem Sys2Proof.Laws.EncodedOnce.variableResultWrite (thread idx) : Laws.EncodedOnce.Statement (.variableResultWrite thread idx) := .inr rfl
theorem Sys2Proof.Laws.EncodedOnce.groupExchange (core slot) : Laws.EncodedOnce.Statement (.groupExchange core slot) := .inr rfl
theorem Sys2Proof.Laws.EncodedOnce.forcedExchange (core) : Laws.EncodedOnce.Statement (.forcedExchange core) := .inr rfl
theorem Sys2Proof.Laws.EncodedOnce.exchangeDone (core slot) : Laws.EncodedOnce.Statement (.exchangeDone core slot) := .inr rfl
theorem Sys2Proof.Laws.EncodedOnce.slotFill (core slot) : Laws.EncodedOnce.Statement (.slotFill core slot) := .inr rfl
theorem Sys2Proof.Laws.EncodedOnce.yieldResume (thread) : Laws.EncodedOnce.Statement (.yieldResume thread) := .inr rfl
theorem Sys2Proof.Laws.EncodedOnce.rclaimGrant (core) : Laws.EncodedOnce.Statement (.rclaimGrant core) := .inr rfl
theorem Sys2Proof.Laws.EncodedOnce.teamPlacement (die) : Laws.EncodedOnce.Statement (.teamPlacement die) := .inr rfl
theorem Sys2Proof.Laws.EncodedOnce.balanceExchange (die) : Laws.EncodedOnce.Statement (.balanceExchange die) := .inr rfl
theorem Sys2Proof.Laws.EncodedOnce.budgetPeriod : Laws.EncodedOnce.Statement (.budgetPeriod) := .inr rfl
theorem Sys2Proof.Laws.EncodedOnce.scratchpadCompaction (team place) : Laws.EncodedOnce.Statement (.scratchpadCompaction team place) := .inr rfl
theorem Sys2Proof.Laws.EncodedOnce.wqRecordFetch (q) : Laws.EncodedOnce.Statement (.wqRecordFetch q) := .inr rfl
theorem Sys2Proof.Laws.EncodedOnce.futureWalk (ctx) : Laws.EncodedOnce.Statement (.futureWalk ctx) := .inr rfl
theorem Sys2Proof.Laws.EncodedOnce.remoteEnqueueArrival (fd slot msg) : Laws.EncodedOnce.Statement (.remoteEnqueueArrival fd slot msg) := .inr rfl
theorem Sys2Proof.Laws.EncodedOnce.enqueueAck (fd slot code) : Laws.EncodedOnce.Statement (.enqueueAck fd slot code) := .inr rfl
theorem Sys2Proof.Laws.EncodedOnce.jobSector (core job sector) : Laws.EncodedOnce.Statement (.jobSector core job sector) := .inr rfl
theorem Sys2Proof.Laws.EncodedOnce.sectorLand (core job) : Laws.EncodedOnce.Statement (.sectorLand core job) := .inr rfl
theorem Sys2Proof.Laws.EncodedOnce.intervalRetire (core idx) : Laws.EncodedOnce.Statement (.intervalRetire core idx) := .inr rfl
theorem Sys2Proof.Laws.EncodedOnce.mmaMultiplyStart (core) : Laws.EncodedOnce.Statement (.mmaMultiplyStart core) := .inr rfl
theorem Sys2Proof.Laws.EncodedOnce.mmaComplete (core) : Laws.EncodedOnce.Statement (.mmaComplete core) := .inr rfl
theorem Sys2Proof.Laws.EncodedOnce.cloneStart (team) : Laws.EncodedOnce.Statement (.cloneStart team) := .inr rfl
theorem Sys2Proof.Laws.EncodedOnce.outboxEntry (ctx) : Laws.EncodedOnce.Statement (.outboxEntry ctx) := .inr rfl
theorem Sys2Proof.Laws.EncodedOnce.viewSweep (ctx) : Laws.EncodedOnce.Statement (.viewSweep ctx) := .inr rfl
theorem Sys2Proof.Laws.EncodedOnce.faultRetry (agent value) : Laws.EncodedOnce.Statement (.faultRetry agent value) := .inr rfl
theorem Sys2Proof.Laws.EncodedOnce.faultFatal (agent value) : Laws.EncodedOnce.Statement (.faultFatal agent value) := .inr rfl
theorem Sys2Proof.Laws.EncodedOnce.xinv (agent value) : Laws.EncodedOnce.Statement (.xinv agent value) := .inr rfl
theorem Sys2Proof.Laws.EncodedOnce.xinvComplete : Laws.EncodedOnce.Statement (.xinvComplete) := .inr rfl
theorem Sys2Proof.Laws.EncodedOnce.contextTeardown (ctx) : Laws.EncodedOnce.Statement (.contextTeardown ctx) := .inr rfl
theorem Sys2Proof.Laws.EncodedOnce.watchdog (thread) : Laws.EncodedOnce.Statement (.watchdog thread) := .inr rfl
theorem Sys2Proof.Laws.EncodedOnce.fabricWatchdog (proc slot) : Laws.EncodedOnce.Statement (.fabricWatchdog proc slot) := .inr rfl
theorem Sys2Proof.Laws.EncodedOnce.switchOut (agent ctx) : Laws.EncodedOnce.Statement (.switchOut agent ctx) := .inr rfl
theorem Sys2Proof.Laws.EncodedOnce.drainLimit (team) : Laws.EncodedOnce.Statement (.drainLimit team) := .inr rfl
theorem Sys2Proof.Laws.EncodedOnce.teamSaveComplete (team) : Laws.EncodedOnce.Statement (.teamSaveComplete team) := .inr rfl
theorem Sys2Proof.Laws.EncodedOnce.switchOutComplete (ctx) : Laws.EncodedOnce.Statement (.switchOutComplete ctx) := .inr rfl
theorem Sys2Proof.Laws.EncodedOnce.switchIn (agent ctx) : Laws.EncodedOnce.Statement (.switchIn agent ctx) := .inr rfl
theorem Sys2Proof.Laws.EncodedOnce.teamRestore (die) : Laws.EncodedOnce.Statement (.teamRestore die) := .inr rfl
theorem Sys2Proof.Laws.EncodedOnce.contextBind (agent ctx value) : Laws.EncodedOnce.Statement (.contextBind agent ctx value) := .inr rfl
theorem Sys2Proof.Laws.EncodedOnce.contextKill (agent ctx) : Laws.EncodedOnce.Statement (.contextKill agent ctx) := .inr rfl
theorem Sys2Proof.Laws.EncodedOnce.scrubCoreState : Laws.EncodedOnce.Statement (.scrubCoreState) := .inr rfl
theorem Sys2Proof.Laws.EncodedOnce.scrubGranule (die) : Laws.EncodedOnce.Statement (.scrubGranule die) := .inr rfl
theorem Sys2Proof.Laws.EncodedOnce.scrubJournalWrite : Laws.EncodedOnce.Statement (.scrubJournalWrite) := .inr rfl
theorem Sys2Proof.Laws.EncodedOnce.scrubEnd : Laws.EncodedOnce.Statement (.scrubEnd) := .inr rfl
theorem Sys2Proof.Laws.EncodedOnce.handshakeRetry (fd slot) : Laws.EncodedOnce.Statement (.handshakeRetry fd slot) := .inr rfl
theorem Sys2Proof.Laws.EncodedOnce.keyRotationStart (fd slot) : Laws.EncodedOnce.Statement (.keyRotationStart fd slot) := .inr rfl
theorem Sys2Proof.Laws.EncodedOnce.keySwitch (fd slot) : Laws.EncodedOnce.Statement (.keySwitch fd slot) := .inr rfl
theorem Sys2Proof.Laws.EncodedOnce.oldKeyDiscard (fd slot) : Laws.EncodedOnce.Statement (.oldKeyDiscard fd slot) := .inr rfl
theorem Sys2Proof.Laws.EncodedOnce.transportGiveUp (fd slot pkt) : Laws.EncodedOnce.Statement (.transportGiveUp fd slot pkt) := .inr rfl
theorem Sys2Proof.Laws.EncodedOnce.startRequest (proc) : Laws.EncodedOnce.Statement (.startRequest proc) := .inr rfl
theorem Sys2Proof.Laws.EncodedOnce.imageLoadComplete (proc slot) : Laws.EncodedOnce.Statement (.imageLoadComplete proc slot) := .inr rfl
theorem Sys2Proof.Laws.EncodedOnce.deferredFireRelease (ctx) : Laws.EncodedOnce.Statement (.deferredFireRelease ctx) := .inr rfl
theorem Sys2Proof.Laws.EncodedOnce.receiveDeadline (proc slot idx) : Laws.EncodedOnce.Statement (.receiveDeadline proc slot idx) := .inr rfl
theorem Sys2Proof.Laws.EncodedOnce.storePerformed (thread) : Laws.EncodedOnce.Statement (.storePerformed thread) := .inr rfl
theorem Sys2Proof.Laws.EncodedOnce.packetRetransmit (fd slot pkt) : Laws.EncodedOnce.Statement (.packetRetransmit fd slot pkt) := .inr rfl
theorem Sys2Proof.Laws.EncodedOnce.wqDoorbell (agent q tail) : Laws.EncodedOnce.Statement (.wqDoorbell agent q tail) := .inr rfl
theorem Sys2Proof.Laws.EncodedOnce.wqEnable (agent q value) : Laws.EncodedOnce.Statement (.wqEnable agent q value) := .inr rfl
theorem Sys2Proof.Laws.EncodedOnce.wqDisable (agent q) : Laws.EncodedOnce.Statement (.wqDisable agent q) := .inr rfl
theorem Sys2Proof.Laws.EncodedOnce.wqErrClear (agent q) : Laws.EncodedOnce.Statement (.wqErrClear agent q) := .inr rfl
theorem Sys2Proof.Laws.EncodedOnce.claim (agent window byte) : Laws.EncodedOnce.Statement (.claim agent window byte) := .inr rfl
theorem Sys2Proof.Laws.EncodedOnce.release (agent) : Laws.EncodedOnce.Statement (.release agent) := .inr rfl
theorem Sys2Proof.Laws.EncodedOnce.ownerLinkDown : Laws.EncodedOnce.Statement (.ownerLinkDown) := .inr rfl
theorem Sys2Proof.Laws.EncodedOnce.deniedRead (agent) : Laws.EncodedOnce.Statement (.deniedRead agent) := .inr rfl
theorem Sys2Proof.Laws.EncodedOnce.errdropRead (agent ctx) : Laws.EncodedOnce.Statement (.errdropRead agent ctx) := .inr rfl
theorem Sys2Proof.Laws.EncodedOnce.partcfgWrite (agent value) : Laws.EncodedOnce.Statement (.partcfgWrite agent value) := .inr rfl
theorem Sys2Proof.Laws.EncodedOnce.registerWrite (agent off size value) : Laws.EncodedOnce.Statement (.registerWrite agent off size value) := .inr rfl
theorem Sys2Proof.Laws.EncodedOnce.hostMemoryAccess (lead pa acc) : Laws.EncodedOnce.Statement (.hostMemoryAccess lead pa acc) := .inr rfl
theorem Sys2Proof.Laws.EncodedOnce.attestationRequest (agent value) : Laws.EncodedOnce.Statement (.attestationRequest agent value) := .inr rfl
theorem Sys2Proof.Laws.EncodedOnce.attestationDone : Laws.EncodedOnce.Statement (.attestationDone) := .inr rfl
theorem Sys2Proof.Laws.EncodedOnce.warmReset (agent) : Laws.EncodedOnce.Statement (.warmReset agent) := .inr rfl
theorem Sys2Proof.Laws.EncodedOnce.coldReset : Laws.EncodedOnce.Statement (.coldReset) := .inr rfl
theorem Sys2Proof.Laws.EncodedOnce.resetReq (value) : Laws.EncodedOnce.Statement (.resetReq value) := .inr rfl
theorem Sys2Proof.Laws.EncodedOnce.pwrReq (value) : Laws.EncodedOnce.Statement (.pwrReq value) := .inr rfl
theorem Sys2Proof.Laws.EncodedOnce.agentkeyWrite (idx byte) : Laws.EncodedOnce.Statement (.agentkeyWrite idx byte) := .inr rfl
theorem Sys2Proof.Laws.EncodedOnce.agentlock (value) : Laws.EncodedOnce.Statement (.agentlock value) := .inr rfl
theorem Sys2Proof.Laws.EncodedOnce.throttle (die temp power) : Laws.EncodedOnce.Statement (.throttle die temp power) := .inr rfl
theorem Sys2Proof.Laws.EncodedOnce.thermalTrip (die temp) : Laws.EncodedOnce.Statement (.thermalTrip die temp) := .inr rfl
theorem Sys2Proof.Laws.EncodedOnce.sessionEnable (agent fd slot value) : Laws.EncodedOnce.Statement (.sessionEnable agent fd slot value) := .inr rfl
theorem Sys2Proof.Laws.EncodedOnce.sessionDisable (agent fd slot) : Laws.EncodedOnce.Statement (.sessionDisable agent fd slot) := .inr rfl
theorem Sys2Proof.Laws.EncodedOnce.sessionFailedClear (agent fd slot) : Laws.EncodedOnce.Statement (.sessionFailedClear agent fd slot) := .inr rfl
theorem Sys2Proof.Laws.EncodedOnce.handshakeOffer (fd slot dgram) : Laws.EncodedOnce.Statement (.handshakeOffer fd slot dgram) := .inr rfl
theorem Sys2Proof.Laws.EncodedOnce.handshakeAnswer (fd slot dgram) : Laws.EncodedOnce.Statement (.handshakeAnswer fd slot dgram) := .inr rfl
theorem Sys2Proof.Laws.EncodedOnce.packetArrival (fd slot pkt) : Laws.EncodedOnce.Statement (.packetArrival fd slot pkt) := .inr rfl
theorem Sys2Proof.Laws.EncodedOnce.acceptResponse (fd slot pkt) : Laws.EncodedOnce.Statement (.acceptResponse fd slot pkt) := .inr rfl
theorem Sys2Proof.Laws.EncodedOnce.lateResponse (fd slot pkt) : Laws.EncodedOnce.Statement (.lateResponse fd slot pkt) := .inr rfl
theorem Sys2Proof.Laws.EncodedOnce.portLinkDown (port) : Laws.EncodedOnce.Statement (.portLinkDown port) := .inr rfl
theorem Sys2Proof.Laws.EncodedOnce.portLinkUp (port) : Laws.EncodedOnce.Statement (.portLinkUp port) := .inr rfl
theorem Sys2Proof.Laws.EncodedOnce.throttleEnd (die temp power) : Laws.EncodedOnce.Statement (.throttleEnd die temp power) := .inr rfl
theorem Sys2Proof.Laws.EncodedOnce.powerRemoval : Laws.EncodedOnce.Statement (.powerRemoval) := .inr rfl
theorem Sys2Proof.Laws.EncodedOnce.remoteSlotRelease (fd slot) : Laws.EncodedOnce.Statement (.remoteSlotRelease fd slot) := .inr rfl
theorem Sys2Proof.Laws.EncodedOnce.partitionSwap (agent lead out) : Laws.EncodedOnce.Statement (.partitionSwap agent lead out) := .inr rfl
theorem Sys2Proof.Laws.EncodedOnce.debuggerHalt (team) : Laws.EncodedOnce.Statement (.debuggerHalt team) := .inr rfl
end

