-- ==== Sys2Proof/Laws/Request.lean ====
section
/-! SUPPORT. What a charge, a turn at a memory controller and a sending on a session can do: their cases and their frames. -/

namespace Sys2Proof.Machine.State

/-- A charge changes the units that a context has spent, and nothing else (R90). -/
theorem charge_frame (s : State) (c kind point units : Nat) : { s.charge c kind point units with ctxs := s.ctxs } = s := by
  unfold charge; split <;> rfl

/-- Where a turn is given, the whole request is served: memory and all but the spent units and the request's points are as before (R91). -/
theorem memTurn_frame {s t : State} {c key n : Nat} (h : s.memTurn c key n = some t) : { t with ctxs := s.ctxs, iss := s.iss } = s := by
  simp only [memTurn] at h
  split at h
  · cases h; rfl
  · split at h
    · cases h; simp only [accept, charge]; split <;> rfl
    · cases h

theorem memTurn_mem {s t : State} {c key n : Nat} (h : s.memTurn c key n = some t) : t.mem = s.mem := by
  rw [← memTurn_frame h]

/-- A controller whose share is not spent gives the turn; so does one that has accepted a part of the request before (R91). -/
theorem memTurn_isSome {s : State} {c key n : Nat}
    (h : s.hasBudget c 1 (key / 2 ^ 36) = true ∨ key / 2 ^ 36 ∈ s.iss.joint) : (s.memTurn c key n).isSome = true := by
  simp only [memTurn]
  split
  · rfl
  · split
    · rfl
    · rename_i h'; simp_all

/-- A charge at an address of a partition changes the units that a context has spent, and nothing else (R90). -/
theorem chargeAt_frame (s : State) (c pa units : Nat) : { s.chargeAt c pa units with ctxs := s.ctxs } = s := charge_frame ..

/-- The granules of a context that is not protected are not tagged (R307). -/
theorem tagRegion_clear {s : State} {c : Nat} (base units : Nat) (h : (s.ctx c).prot = false) : s.tagRegion c base units = s := by
  simp [tagRegion, h]

/-- A thread without waiting write-combining stores, or whose side log has room for them, has them performed and goes on (R128, R137). -/
theorem drained_ready {s : State} {i : Nat} (h : s.drainReady i = true) : s.drained i = .ok () (s.drainWc i) := by
  simp [drained, h]

theorem drainReady_none {s : State} {i : Nat} (h : (s.thread i).wc = []) : s.drainReady i = true := by
  simp [drainReady, wcEntries, h]

/-- Else the thread waits for the side log, and nothing has happened (R128). -/
theorem drained_full {s : State} {i : Nat} (h : s.drainReady i = false) : s.drained i = .wait .sideLog s := by
  simp [drained, h]

/-- Something for a session without a key waits there (R247). -/
theorem transmit_noKey {s : State} {fd slot : Nat} (o : Outgoing) (h : (s.session fd slot).key = none) :
    s.transmit fd slot o = s.onSession fd slot fun x => { x with pend := x.pend ++ [o] } := by
  simp only [transmit, h]

/-- Nothing leaves on a session of which no port's link is up: it waits there (R244). -/
theorem transmit_noPort {s : State} {fd slot : Nat} (o : Outgoing) (h : s.upPorts fd slot = []) :
    s.transmit fd slot o = s.onSession fd slot fun x => { x with pend := x.pend ++ [o] } := by
  simp only [transmit]; split <;> simp [h]

/-- A live session whose key is fresh sends at once what `transmit` can (R247). -/
theorem sendOn_fresh {s : State} {fd slot : Nat} (o : Outgoing) (hk : s.readyKey fd slot = s) (hd : s.sessDead fd slot = false) :
    s.sendOn fd slot o = s.transmit fd slot o := by
  simp [sendOn, hk, hd]

end Sys2Proof.Machine.State
end

