-- ==== Sys2Proof/Tests/Slice0.lean ====
section
/-! SUPPORT. Tests: an ill-formed term for each check of WellFormed, words that the spec writes out, single steps with the results the
spec gives, and for every statement a state and operands that meet its hypotheses. -/

namespace Sys2Proof.Tests

open Sys2Proof.Machine

/-! ## Ill-formed terms: each check refuses one -/

theorem test_illformed_odd_pair : (Instr.add 2 4 7 true).illFormed = some .oddPair := by decide
theorem test_illformed_register_block : (Instr.copy 20 62 30 false).illFormed = some .registerBlock := by decide
theorem test_illformed_unused_field : (Instr.copy 20 24 30 true).illFormed = some .unusedField := by decide
theorem test_illformed_immediate_range : (Instr.fork 2 5).illFormed = some .immediateRange := by decide
theorem test_illformed_atom_form : (Instr.atom .fadd true .mod 4 6).illFormed = some .atomForm := by decide
theorem test_illformed_cvt_pair : (Instr.cvtFromE4m3 .e4m3 false .rne 7 2).illFormed = some .cvtPair := by decide
theorem test_illformed_special_register : (Instr.srd 1 0x060).illFormed = some .specialRegister := by decide
theorem test_illformed_receive : (Instr.fxRecv false true 1 2 3).illFormed = some .receiveForm := by decide
theorem test_illformed_event_data : (Instr.handshakeOffer 0 0 []).illFormed = some .eventData := by decide

/-! ## Words that the spec writes out -/

/-- A word with the guard "always" and no marker is an instruction. -/
abbrev reads (w : W32) (i : Instr) : Prop := (decodeWord w).toOption = some (.plain, i)

/-- R344, R456, R419, R428, R463, R433, R450, R448, R420, R426, R435, R364, R434. -/
theorem test_decode_alu :
    reads 0x1C8861FF (.addImm 3 3 (-1)) ∧ reads 0x1C102106 (.sub 1 2 3 false) ∧ reads 0x1C28828C (.mad 4 5 6) ∧
    reads 0x1C90E383 (.mulImm 7 7 3) ∧ reads 0x1C202107 (.mulh 1 2 3 true) ∧ reads 0x1C402106 (.xor 1 2 3 false) ∧
    reads 0x1CA820FF (.xorImm 1 1 (-1)) ∧ reads 0x1CA02088 (.orImm 1 1 8) ∧ reads 0x1CB02104 (.shlImm 1 2 4) ∧
    reads 0x1C582106 (.sar 1 2 3 false) ∧ reads 0x1C702106 (.sel 1 2 3) ∧ reads 0x1C682107 (.max 1 2 3 true) ∧
    reads 0x1E802100 (.mov 1 2) ∧ reads 0x1E802102 (.popc 1 2) ∧ reads 0x1CE8C189 (.cmpLtu 6 3 4 true) ∧
    reads 0x1CF82106 (.pand 1 2 3 false) ∧ reads 0x1DB02101 (.pnot 1 2 true) := by decide

/-- R427, R418, R417, R452. -/
theorem test_decode_moves :
    reads 0x1DC02004 (.movi 1 4) ∧ reads 0x1DC03FFF (.movi 1 (-1)) ∧ reads 0x1DC831A2 (.movh 1 0x11A2) ∧
    reads 0x1DE0A00A (.lit 5 10) ∧ reads 0x1E808384 (.leaP 4 7) ∧ reads 0x1DD02000 (.srd 1 0x000) ∧
    reads 0x1DD04030 (.srd 2 0x030) ∧ reads 0x1DD8A020 (.swr 5 0x020) := by decide

/-- R372, R373, R375, R413, R368. -/
theorem test_decode_float :
    reads 0x1F002106 (.fadd .rne 1 2 3) ∧ reads 0x1F40828A (.fma .rne 4 5 5) ∧ reads 0x1F786084 (.fcmpLt 3 1 2 false) ∧
    reads 0x1E884181 (.frsq 2 3) ∧ reads 0x1F902106 (.hadd2 1 2 3 false) ∧ reads 0x1F902107 (.hadd2 1 2 3 true) ∧
    reads 0x1FB8E113 (.cvtFromF32 .e4m3 true .rne 7 2) := by decide

/-- R454, R440, R436, R374. -/
theorem test_decode_memory :
    reads 0x1D808502 (.st 4 10 2) ∧ reads 0x1DA06483 (.stp 3 9 3) ∧ reads 0x1D40C382 (.sts 6 7 2) ∧ reads 0x1DE80502 (.pref 10 2) ∧
    reads 0x1E988320 (.red .add false .mod 4 6) ∧ reads 0x1EA00001 (.fenceE) := by decide

/-- R408, R460, R437, R421, R425, R458, R431, R430. -/
theorem test_decode_engines :
    reads 0x1E0A8C3C (.gath 20 24 30 false) ∧ reads 0x1E128C3C (.unfold 20 24 30 false) ∧ reads 0x1E1A8C3C (.quant 20 24 30 false) ∧
    reads 0x1E210805 (.mma 8 16 2 true) ∧ reads 0x1E290804 (.mmo 8 16 2 false) ∧ reads 0x1E30420A (.tile 2 4 5) ∧
    reads 0x1E384402 (.obres 2 8 1 false) ∧ reads 0x1EA00184 (.obrel 3) := by decide

/-- R378, R380, R370, R443, R451. -/
theorem test_decode_events :
    reads 0x1E408512 (.fread 4 10 9) ∧ reads 0x1E484310 (.fwrite 2 6 8 false) ∧ reads 0x1EA0A406 (.disarm 5 8) ∧
    reads 0x1E684401 (.renq 2 8 true) ∧ reads 0x1E704801 (.wenq 2 16 true) ∧ reads 0x1EA00305 (.spawn 6) := by decide

/-- R377, R439, R459, R442, R447, R449, R461, R462, R161, R360, R356. The last two carry the guard ?p3 and the guard ?p0. -/
theorem test_decode_control :
    reads 0x1ED04002 (.fork 2 2) ∧ reads 0x1ED80010 (.rgive 16) ∧ reads 0x1EE00040 (.rclaim 64) ∧ reads 0x1EF00005 (.trap 5) ∧
    reads 0x1EF82100 (.redux .add 1 2) ∧ reads 0x1EA80003 (.rfe) ∧ reads 0x1DF82107 (.shfl 1 2 3 true) ∧
    reads 0x1DF02100 (.voteAny 1 2) ∧ reads 0x1DF08482 (.voteBallot 4 9) ∧ reads 0x1EA80188 (.wend 3) ∧
    reads 0x1EA88289 (.wvr 4 5) ∧ reads 0x1EA8030A (.choose 6) ∧
    (decodeWord 0x0EF00005).toOption = some (⟨false, false, false, 3⟩, .trap 5) ∧
    (decodeWord 0x02C7FFF4).toOption = some (⟨false, false, false, 0⟩, .br (-12)) := by decide

/-- R332, R393, R402 and the programs of the collective chapter. -/
theorem test_decode_akpor :
    (decodeFx 0x3C00000000210007).toOption = some (.fxStep 0 0x210007) ∧
    (decodeFx 0x3800000800120012).toOption = some (.fxItin 0 true 0 0x120012) ∧
    (decodeFx 0x0540000000200001).toOption = some (.fxLi false 10 0 0x200001) ∧
    (decodeFx 0x2007000000000002).toOption = some (.fxLoop 7 2) := by decide

/-- R340: an odd pair register, a primary opcode that the map leaves unused, and a field that is not zero. -/
theorem test_decode_refuses :
    (decodeWord 0x1C082107).toOption = none ∧ (decodeWord 0x1C702107).toOption = none ∧ (decodeWord 0x1EA82003).toOption = none := by
  decide

/-! ## Single steps -/

/-- The state in which the next step runs a word in thread 0, whose registers hold values. -/
def run (w : Nat) (rs : List (Nat × W32)) : State :=
  (State.reset.withFetchWord 32 w).onThread 0 fun t => { t with regs := rs.foldl (fun x e => x.set e.1 e.2) t.regs }

/-- The state in which the next step runs an Akpor word in a slot whose registers hold values. -/
def runFx (w : Nat) (rs : List (Nat × W64)) : State :=
  (State.reset.withFetchWord 64 w).onFSlot 0 0 fun x => { x with regs := rs.foldl (fun y e => y.set e.1 e.2) x.regs }

/-- What a property says of the next state. -/
def after (o : Host.Outcome State Fault Refusal) (p : State → Bool) : Bool := match o with | .next t => p t | _ => false

/-- After a step, register r of thread 0 holds x. -/
def leaves (s : State) (r : Nat) (x : W32) : Bool := after (step s) fun t => (t.thread 0).regs.get r 0 == x

/-- After a step, register r of thread 0 is pending with x. -/
def files (s : State) (r : Nat) (x : W32) : Bool := after (step s) fun t => (t.thread 0).pending == [⟨[(r, x)], []⟩]

/-- After a step, thread 0 is in the supervisor handler with a cause and a detail. -/
def traps (s : State) (cause info : W32) : Bool :=
  after (step s) fun t => (t.thread 0).mode == 2 && (t.thread 0).tcause == cause && (t.thread 0).tinfo == info

theorem test_add_wraps : leaves (run 0x1C8861FF [(3, 0)]) 3 0xFFFFFFFF = true := by decide
theorem test_sub_wraps : leaves (run 0x1C102106 [(2, 1), (3, 2)]) 1 0xFFFFFFFF = true := by decide
theorem test_mad : leaves (run 0x1C28828C [(4, 7), (5, 0x10000), (6, 0x10001)]) 4 0x10007 = true := by decide
theorem test_mulh_unsigned : leaves (run 0x1C202107 [(2, 0xFFFFFFFF), (3, 2)]) 1 1 = true := by decide
theorem test_xor_inverts : leaves (run 0x1CA820FF [(1, 0xF0F0A5A5)]) 1 0x0F0F5A5A = true := by decide
theorem test_or_sign_extends : leaves (run 0x1CA020C0 [(1, 1)]) 1 0xFFFFFFC1 = true := by decide
theorem test_sar_over_width : leaves (run 0x1C582106 [(2, 0x80000010), (3, 40)]) 1 0xFFFFFFFF = true := by decide
theorem test_shr_over_width : leaves (run 0x1C502106 [(2, 0x80000010), (3, 40)]) 1 0 = true := by decide
theorem test_max_signed : leaves (run 0x1C682106 [(2, 0xFFFFFFFF), (3, 1)]) 1 1 = true := by decide
theorem test_max_unsigned : leaves (run 0x1C682107 [(2, 0xFFFFFFFF), (3, 1)]) 1 0xFFFFFFFF = true := by decide
theorem test_popc : leaves (run 0x1E802102 [(2, 0xF0F00001)]) 1 9 = true := by decide
theorem test_movh : leaves (run 0x1DC831A2 [(1, 4)]) 1 0x91A2 = true := by decide
theorem test_lea_private : after (step (run 0x1E808384 [(7, 28)])) (fun t =>
    (t.thread 0).regs.get 4 0 == 0x1C && (t.thread 0).regs.get 5 0 == 0xFD000000) = true := by decide
theorem test_lane : leaves (run 0x1DD02000 [(1, 5)]) 1 0 = true := by decide

/-- R355: the field of 12 bits at 8, without and with its sign, and one of 8 bits at 24. -/
theorem test_bfx :
    after (exec (.bfx 1 2 3 false) (run 0 [(2, 0xABCD1234), (3, 0x0C08)])) (fun t => (t.thread 0).regs.get 1 0 == 0xD12) = true ∧
    after (exec (.bfx 1 2 3 true) (run 0 [(2, 0xABCD1234), (3, 0x0C08)])) (fun t => (t.thread 0).regs.get 1 0 == 0xFFFFFD12) = true ∧
    after (exec (.bfx 1 2 3 true) (run 0 [(2, 0xABCD1234), (3, 0x0818)])) (fun t => (t.thread 0).regs.get 1 0 == 0xFFFFFFAB) = true := by
  decide

/-- R364: the compare writes p70, the upper half's predicate 6. -/
theorem test_compare_upper_half :
    after (step (run 0x1CE8C189 [(3, 1), (4, 0xFFFFFFFF)])) (fun t => (t.thread 0).preds.getLsbD 70 && !(t.thread 0).preds.getLsbD 6) =
      true := by decide

set_option maxRecDepth 4000 in
/-- R375: 1/√4 is 0.5. -/
theorem test_rsqrt : fRsq 0x40800000 = 0x3F000000 := by decide

/-- R376, R172: -0 is the smaller zero, and a NaN operand gives the canonical NaN. -/
theorem test_fmin_fmax : fMinMax fp32 false 0 0x80000000 = 0x80000000 ∧ fMinMax fp32 true 0x3F800000 0xFF800001 = 0x7FC00000 := by decide

/-- R375: 2^-150 ties to the even zero, and 2^-149 is the least subnormal. -/
theorem test_exp2_underflow : fExp2 0xC3160000 = 0 ∧ fExp2 0xC3150000 = 1 := by decide

/-- R418: the literal ten words on, here a word of zeros, becomes pending. -/
theorem test_lit : files (run 0x1DE0A001 [(5, 9)]) 5 0 = true := by decide

/-- R454: the store puts the bytes at offset 8 of the team's scratchpad, lowest first. -/
theorem test_store_scratchpad :
    after (step (run 0x1D40C382 [(6, 0x11223344), (7, 0)])) (fun t => t.spBytes 0 7 6 == [0, 0x44, 0x33, 0x22, 0x11, 0]) = true := by decide

/-- R103: an allocation of 4 KiB ends before offset 0x1000. -/
theorem test_scratchpad_bound : traps (run 0x1D40C382 [(6, 1), (7, 0xFF8)]) 0x13 0 = true := by decide

/-- R459: the software trap with its immediate, at its own word. -/
theorem test_trap : traps (run 0x1EF00005 []) 0x08 5 = true := by decide

/-- R275, R340: a word that is no instruction, and `rfe` outside a handler. -/
theorem test_illegal : traps (run 0x1C702107 []) 0x01 0 = true ∧ traps (run 0x1EA80003 []) 0x01 0 = true := by decide

/-- R356: a taken branch goes back by two words. -/
theorem test_branch : after (step ((run 0x1EC7FFFE []).onThread 0 fun t => t)) (fun t => (t.thread 0).pc == 0x1FFFFFFFFFFFFF8) = true := by
  decide

/-- R439, R55: registers given back lower the limit. -/
theorem test_rgive : after (step (run 0x1ED80010 [])) (fun t => (t.thread 0).limit == 16) = true := by decide

/-- R371: the last thread that exits ends its group and its team. -/
theorem test_exit : after (step (run 0x1EA80000 [])) (fun t => !(t.thread 0).live) = true := by decide

/-- R332, R393: the two words that build 0x0123456789ABCDEF. -/
theorem test_fx_li :
    after (exec (.fxLi false 9 0 0x89ABCDEF) (runFx 0 [])) (fun t => (t.fslot 0 0).any fun x => x.f 9 == 0xFFFFFFFF89ABCDEF) = true ∧
    after (exec (.fxLi true 9 9 0x01234567) (runFx 0 [(9, 0xFFFFFFFF89ABCDEF)])) (fun t =>
      (t.fslot 0 0).any fun x => x.f 9 == 0x0123456789ABCDEF) = true := by decide

/-- R394: the loop goes back while its count is not zero, and the slot then stands at the target. -/
theorem test_fx_loop : after (step (runFx 0x2007000000000000 [(7, 2)])) (fun t =>
    (t.fslot 0 0).any fun x => x.f 7 == 1 && x.pc == 0) = true := by decide

/-! ## The spec's worked numbers -/

/-- R368: conversions to E4M3 with and without saturation, and to an integer toward minus infinity. -/
theorem test_cvt :
    [0x43FA0000, 0xBC000000, 0x7F800000, 0x7FC00001].map (fun x => cvtResult .e4m3 true .rne (fp32.decode x)) = [0x7E, 0x84, 0x7E, 0x7F] ∧
    [0x43FA0000, 0xBC000000, 0x7F800000, 0x7FC00001].map (fun x => cvtResult .e4m3 false .rne (fp32.decode x)) = [0x7F, 0x84, 0x7F, 0x7F] ∧
    cvtResult .int32 false .rne (fp32.decode 0x40200000) = 2 ∧ cvtResult .int32 false .rm (fp32.decode 0xC0200000) = 0xFFFFFFFD := by decide

set_option maxRecDepth 8000 in
/-- R183: the DN4 block of the worked example: exponent 0x80, micro byte 0xFE, payload 0x6B, 0x02. -/
theorem test_dn4 :
    let r := dnEncode 2 true ([0x40400000, 0xBF400000, 0x3F000000, 0x3E99999A] ++ List.replicate 12 0)
    (r.1, r.2.1, packElems 3 r.2.2) = (0x80, 0xFE, [0x6B, 0x02, 0, 0, 0, 0]) := by decide

set_option maxRecDepth 8000 in
/-- R190: the T3 step of the worked example. -/
theorem test_t3 : t3Encode ([0x40000000, 0xBF800000, 0x3F000000, 0x3E800000, 0xC0400000] ++ List.replicate 27 0) =
    [0xCD, 0, 0, 0, 0, 0, 0, 0xAD, 0x3F] := by decide

/-- R193, R269: at scale 127 a sum of 500.0 clips to 448. -/
theorem test_q8_clip : qEncode 127 0x43FA0000 = 0x7E ∧ qClips 127 0x43FA0000 = true ∧ qDecode 127 0x7E = 0x43E00000 := by decide

/-- R242: sums of 0.0, 1.5, 2^-70, 6.0 × 10^30 and NaN fall in bins 0, 17, 1, 38 and 39. -/
theorem test_histogram : [0, 0x3FC00000, 0x1C800000, 0x7297751F, 0x7FC00000].map histBin = [0, 17, 1, 38, 39] := by decide

/-- R184: two units of 1.0 added to 2^24 one after the other leave 2^24. -/
theorem test_unit_sums : unitAdd (unitAdd 0x4B800000 [.fin false 1 0]) [.fin false 1 0] = 0x4B800000 := by decide

/-! ## The standards that the spec names -/

/-- R16: the AES-256 example of FIPS 197, appendix C.3. -/
theorem test_aes : Aes.encryptBlock (List.range 32) ((List.range 16).map (· * 17)) =
    [0x8E, 0xA2, 0xB7, 0xCA, 0x51, 0x67, 0x45, 0xBF, 0xEA, 0xFC, 0x49, 0x90, 0x4B, 0x49, 0x60, 0x89] := by decide +kernel

/-- R75, R311: the public key of RFC 8032, 7.1, test 1. -/
theorem test_ed25519 :
    Crypto.publicKey (Crypto.natBe 32 0x9D61B19DEFFD5A60BA844AF492EC2CC44449C5697B326919703BAC031CAE7F60) =
      Crypto.natBe 32 0xD75A980182B10AB7D54BFED3C964073A0EE172F3DAA62325AF021A68F707511A := by decide +kernel

/-! ## Witnesses: for every statement, states and operands that meet the hypotheses of each of its clauses -/

/-- A thread that is ready to execute, with three register values. -/
def idle : State := run 0x1C000000 [(3, 7), (4, 0xFFFFFFF9), (6, 0x80000064)]

/-- The same thread in another mode. -/
def inMode (m : BitVec 2) : State := idle.onThread 0 fun t => { t with mode := m }

/-- What a property says of an answer and of the state it leaves. -/
def okRes {α : Type} (r : Res α) (p : α → State → Bool) : Bool := match r with | .ok a s => p a s | _ => false
def okXlat (r : Xlat × State) (p : Nat → TlbEntry → State → Bool) : Bool := match r with | (.ok k l, s) => p k l s | _ => false
def okFx {α : Type} (r : FRes α) (p : α → State → Bool) : Bool := match r with | .ok a s => p a s | _ => false
def okFired (r : Fired) (p : State → Bool) : Bool := match r with | .done s => p s | _ => false

theorem witness_integer_arithmetic :
    Ready idle (pairs [0, 4, 62]) ∧ Ready idle (regs [0, 4, 63]) := by decide

theorem witness_immediates_and_shifts :
    Ready idle (regs [63, 0]) ∧ Ready idle (regs [63]) ∧ Ready idle (pair 62 ++ regs [0]) ∧ Ready idle (pairs [62, 0] ++ regs [63]) ∧
    Ready idle (regs [0, 4, 63]) := by decide

theorem witness_bit_fields : Ready idle (regs [0, 4, 63]) ∧ Ready idle (regs [63, 0]) ∧ idle.v 0 = 0 ∧ idle.v 4 ≠ 0 := by decide

theorem witness_compares_and_predicates :
    Ready idle (preds [0] false ++ regs [4, 63]) ∧ Ready idle (preds [63] true ++ regs [4, 63]) ∧
    Ready idle (preds [0, 62, 63] true) ∧ Ready idle (preds [63, 0] false) := by decide

theorem witness_float : Ready idle (regs [0, 4, 63]) ∧ Ready idle (preds [63] true ++ regs [4, 63]) := by decide

/-- A register that holds a NaN with a payload and a sign. -/
theorem witness_nan : nanBits ((run 0 [(3, 0xFF800001)]).v 3) = true ∧ Ready (run 0 [(3, 0xFF800001)]) (regs [0, 3, 63]) ∧
    Ready (run 0 [(3, 0xFF800001)]) (regs [3, 0, 63]) ∧
    Ready (run 0 [(3, 0xFF800001)]) (preds [63] true ++ regs [63, 3]) := by decide

theorem witness_special_registers : Ready idle (regs [63]) ∧ (inMode 2).opnd.mode = 2 ∧ Ready (inMode 2) (regs [63]) ∧
    (inMode 1).opnd.mode ≠ 2 ∧ Ready (inMode 1) (regs [63]) := by decide

/-- A thread whose user handler takes all that may be delegated, with a result pending or not. -/
def delegating (m : BitVec 2) (rs : List Reply) : State :=
  (run 0 []).onCtx 0 (fun x => { x with deleg := 7 }) |>.onThread 0 fun t => { t with mode := m, udmask := 7, udvec := 0x100, pending := rs }

theorem witness_trap_delivery :
    ((delegating 0 []).thread 0).pending = [] ∧ (∃ b, delegBitOf 0x23 = some b ∧ ((delegating 0 []).udmask 0).getLsbD b = true) ∧
    ((delegating 1 []).thread 0).mode ≠ 2 ∧ ((delegating 2 []).thread 0).mode = 2 ∧ delegBitOf 0x13 = none ∧
    ((delegating 0 [⟨[(5, 1)], []⟩]).thread 0).pending ≠ [] := by
  refine ⟨by decide, ⟨2, by decide, by decide⟩, by decide, by decide, by decide, by decide⟩

/-- A limit below two of the registers named; a register that is pending. -/
def limited : State := idle.onThread 0 fun t => { t with limit := 8 }
def awaiting : State := idle.onThread 0 fun t => { t with pending := [⟨[(3, 1)], []⟩] }

theorem witness_raised_traps :
    limited.thr.live = true ∧ limited.opnd.limit ≤ (8 : Reg).toNat ∧ (7 : Reg).toNat < limited.opnd.limit ∧ awaiting.thr.live = true ∧
    awaiting.opnd.regPending 3 = true ∧ (63 : Reg).toNat < awaiting.opnd.limit := by decide

/-- A handler with a return address. -/
def handler (m : BitVec 2) (a : W64) (cause : W32) : State :=
  idle.onThread 0 fun t => { t with mode := m, uepc := a, tepc := a, tcause := cause }

theorem witness_return_from_handler :
    (handler 1 0x1FFFFFFFFFFFFFC 0).opnd.uepc.toNat < 2 ^ 57 ∧ (handler 1 0x1FFFFFFFFFFFFFC 0).opnd.uepc.toNat % 4 = 0 ∧
    (handler 2 0x40 0x112).opnd.tcause.extractLsb' 8 2 = 1 ∧ 2 ^ 57 ≤ (handler 1 0x200000000000000 0).opnd.uepc.toNat ∧
    (handler 2 2 0).opnd.tepc.toNat % 4 ≠ 0 ∧ (handler 2 0 0x300).opnd.tcause.extractLsb' 8 2 = 3 ∧ idle.opnd.mode = 0 ∧
    (handler 1 0x1FFFFFFFFFFFFFC 0).thr.live = true := by decide

/-- The predicates' numbers end at 127. -/
theorem witness_register_writes : (127 : Nat) < 128 := by decide

/-! ### Memory -/

/-- Thread 0 with 256 private bytes at the start of its mapped page, and registers that name private and scratchpad offsets. -/
def withStack (rs : List (Nat × W32)) : State :=
  (run 0 rs).onThread 0 fun t => { t with stklim := 256 }

/-- Another engine's interval on the first bytes of the team's scratchpad. -/
def blocked : State := (run 0 [(2, 0), (3, 0xFE000000)]).onCore 0 fun k => { k with ivals := [⟨.sp 0, 0, 64, .w, 5, 0⟩] }

theorem witness_scratchpad :
    Ready (run 0 [(4, 0xFF8)]) (dataTouch 62 8 ++ regs [4]) ∧ SpanOpen (run 0 [(4, 0xFF8)]) 0xFF8 8 .r ∧
    SpanOpen (run 0 [(4, 0xFF8)]) 0xFFF 1 .w ∧
    Ready (run 0 [(2, 0xFFC), (3, 0xFE000000)]) (dataTouch 63 4 ++ pair 2) ∧
    (run 0 [(2, 0xFFC), (3, 0xFE000000)]).vd 2 = BitVec.ofNat 64 (0xFE * 2 ^ 56 + 0xFFC) ∧
    SpanOpen (run 0 [(2, 0xFFC), (3, 0xFE000000)]) 0xFFC 4 .w := by decide

theorem witness_access_traps :
    Ready blocked (dataTouch 62 8 ++ regs [2]) ∧ blocked.spBlocked blocked.curTeam 0 4 .r = true ∧
    (0x1004 : Nat) % 4 = 0 ∧ (run 0 []).scratchSize 0 < 0x1004 + 4 ∧
    2 ≤ ((run 0 [(2, 0), (3, 0x02000000)]).vd 2).toNat / 2 ^ 56 ∧ ((run 0 [(2, 0x10000), (3, 0xFD000000)]).vd 2).toNat / 2 ^ 16 % 2 ^ 40 ≠ 0 ∧
    ((run 0 [(2, 3), (3, 0)]).vd 2).toNat % 2 ≠ 0 := by decide

theorem witness_private :
    PieceOpen (withStack [(4, 252)]) ((withStack [(4, 252)]).privVa 0 252) ∧
    PieceOpen (withStack [(4, 248)]) ((withStack [(4, 248)]).privVa 0 248) ∧
    okXlat ((withStack [(4, 252)]).xlatThread ((withStack [(4, 252)]).privVa 0 252) .read) (fun k l t =>
      l.type == 0 && (t.hbm k 4).any fun u => u.privVa 0 252 == (withStack [(4, 252)]).privVa 0 252) = true ∧
    Ready (withStack [(4, 252)]) (regs [63, 4]) ∧ (withStack [(4, 252)]).v 4 + (0 : BitVec 7).signExtend 32 * 4 = BitVec.ofNat 32 252 ∧
    Ready (withStack [(4, 252), (5, 0xFD000000)]) (regs [63] ++ pair 4) ∧
    (withStack [(4, 252), (5, 0xFD000000)]).vd 4 + (0 : BitVec 7).signExtend 64 * 4 = BitVec.ofNat 64 (0xFD * 2 ^ 56 + 252) ∧
    252 + 4 ≤ (withStack [(4, 252)]).opnd.stklim.toNat ∧ Ready (withStack [(4, 252)]) (pair 62 ++ regs [4]) ∧
    (withStack [(4, 252)]).opnd.stklim.toNat < 256 + 8 ∧ (252 : Nat) % 8 ≠ 0 :=
  ⟨⟨_, _, rfl, rfl⟩, ⟨_, _, rfl, rfl⟩, by decide, by decide, by decide, by decide, by decide, by decide,
    by decide, by decide, by decide⟩

/-- Thread 0 with a page of the global window: its memory type, and whether it is shared by worlds. -/
def onPage (type : Nat) (shared : Bool) (rs : List (Nat × W32)) : State :=
  (run 0 rs).onCtx 0 fun x => { x with tlb := [{ placedPage with type := type, wshared := shared }] }

/-- The same thread in a world: its team runs in view 1, which has room. -/
def inView (type : Nat) (shared : Bool) (rs : List (Nat × W32)) : State :=
  ((onPage type shared rs).onTeam 0 fun x => { x with view := 1 }).onCtx 0 fun x => { x with vpsize := 64 }

/-- Whether a store to an address is translated and takes effect at once. -/
def storesNow (s : State) (va : Nat) : Bool :=
  okXlat (s.xlatThread va .write) fun k l t => !t.queuesStore l && t.cellReady s.curCtx t.curView k && (t.hbm k 8).isSome

theorem witness_global :
    Ready (onPage 0 false [(2, 0xFF8)]) (dataTouch 62 8 ++ pair 2) ∧ ((onPage 0 false [(2, 0xFF8)]).vd 2).toNat = 0xFF8 ∧
    okXlat ((onPage 0 false [(2, 0xFF8)]).xlatThread 0xFF8 .read) (fun k _ t => t.curView == 0 && (t.hbm k 8).isSome) = true ∧
    storesNow (onPage 0 false [(2, 0xFFF)]) 0xFFF = true ∧ storesNow (onPage 1 false [(2, 0xFF8)]) 0xFF8 = true ∧
    storesNow (onPage 2 true [(2, 0xFF8)]) 0xFF8 = true := by decide

theorem witness_global_store_frame :
    okXlat ((onPage 0 false [(2, 0xFF8)]).xlatThread 0xFF8 .write) (fun _ _ _ => true) = true ∧
    after (exec (.stD 62 2 0) (onPage 0 false [(2, 0xFF8)])) (fun _ => true) = true := by decide

theorem witness_queued_stores :
    okXlat ((inView 1 false [(2, 0xFF8)]).xlatThread 0xFF8 .write) (fun _ l t =>
      t.curView != 0 && l.type != 0 && decide ((t.view t.curCtx t.curView).outbox.length < 1024) &&
      decide (t.usedCells t.curCtx < t.poolCells t.curCtx)) = true ∧
    okXlat ((inView 0 true [(2, 0xFF8)]).xlatThread 0xFF8 .write) (fun _ l _ => l.type == 0 && l.wshared) = true ∧
    Ready (inView 1 false [(2, 0xFF8)]) (dataTouch 62 8 ++ pair 2) := by decide

theorem witness_atomics :
    Ready (run 0 [(2, 0xFF8), (3, 0xFE000000)]) (atomTouch .cas true 60 ++ pair 2) ∧
    (run 0 [(2, 0xFF8), (3, 0xFE000000)]).vd 2 = BitVec.ofNat 64 (0xFE * 2 ^ 56 + 0xFF8) ∧
    SpanOpen (run 0 [(2, 0xFF8), (3, 0xFE000000)]) 0xFF8 8 .w ∧
    Ready (onPage 0 false [(2, 0xFF8)]) (atomTouch .add false 63 ++ pair 2) ∧
    okXlat ((onPage 0 false [(2, 0xFF8)]).xlatThread 0xFF8 .write) (fun k l t => l.type == 0 && t.curView == 0 && (t.hbm k 8).isSome) = true := by
  decide

/-! ### Control flow, the life of a thread, and convergence -/

/-- Thread 0 with a stack of 256 bytes a thread, which its page holds in part, and a depth of calls. -/
def calling (depth : Nat) (rs : List (Nat × W32)) : State :=
  ((run 0 rs).onCtx 0 fun x => { x with stack := 0x10000, stkbase := 0, tlb := [{ placedPage with size := 65536 }] }).onThread 0 fun t =>
    { t with stklim := 256, depth := depth }

/-- A thread with a store that is not yet performed; one with a matrix instruction that has not retired. -/
def storing : State := (run 0 []).onThread 0 fun t => { t with wc := [⟨64, 64, [1, 2, 3, 4], false, none⟩] }
def multiplying : State := (run 0 []).onGroup 0 fun g => { g with mms := [7] }

theorem witness_hints_and_fences :
    okRes ((run 0 []).fetchWord (((run 0 []).iss.word + (1 : BitVec 13).signExtend 64 * 4) &&& 0x1FFFFFFFFFFFFFF)) (fun _ _ => true) = true ∧
    Ready (run 0 [(2, 0xFFFF), (3, 0xFD000000)]) (pair 2) ∧
    (run 0 [(2, 0xFFFF), (3, 0xFD000000)]).vd 2 = BitVec.ofNat 64 (0xFD * 2 ^ 56 + 0xFFFF) ∧
    (run 0 [(2, 0xFFFFFF), (3, 0xFE000000)]).vd 2 = BitVec.ofNat 64 (0xFE * 2 ^ 56 + 0xFFFFFF) ∧
    window ((run 0 [(2, 0), (3, 0x02000000)]).vd 2) = .none ∧ ((run 0 [(2, 0), (3, 0x01FFFFFF)]).vd 2).toNat < 2 ^ 57 ∧
    storing.thr.wc ≠ [] ∧ (multiplying.group (multiplying.groupOf multiplying.iss.cur)).mms ≠ [] ∧ (run 0 []).thr.wc = [] ∧
    ((run 0 []).group ((run 0 []).groupOf (run 0 []).iss.cur)).mms = [] ∧ (run 0 []).jobsOf (run 0 []).curTeam = [] := by decide

theorem witness_transfers :
    (calling 0 []).thr.live = true ∧ 8 * ((calling 0 []).opnd.depth + 1) ≤ (calling 0 []).stackBytes (calling 0 []).curCtx ∧
    okRes ((calling 31 []).putPriv (256 - 8 * 32) (natLe 8 (calling 31 []).iss.after.toNat)) (fun _ _ => true) = true ∧
    (run 0 []).stackBytes (run 0 []).curCtx < 8 * ((run 0 []).opnd.depth + 1) ∧
    okRes ((calling 32 []).privPiecesRead 0 (privPieces (256 - 8 * 32) 8)) (fun bs _ => leNat bs % 4 == 0) = true ∧
    (calling 32 []).opnd.depth ≠ 0 ∧ (calling 0 []).opnd.depth = 0 ∧
    Ready (run 0 [(62, 0xFFFFFFFC), (63, 0x1FFFFFF)]) (pair 62) ∧ ((run 0 [(62, 0xFFFFFFFC), (63, 0x1FFFFFF)]).vd 62).toNat = 2 ^ 57 - 4 := by
  decide

/-- Two live threads of one group, of which the first executes. -/
def two : State := { run 0 [] with threads := [(0, { Thread.start with limit := 64 }), (1, { Thread.start with limit := 64 })] }

/-- A core whose first claim asks for the 64 registers of a group that has 32. -/
def claiming : State :=
  ((run 0 []).onGroup 0 fun g => { g with count := 32 }).onCore 0 fun k => { k with claims := [⟨0, 64⟩] }

theorem witness_thread_life :
    two.thr.live = true ∧ (1 : Nat) ≠ two.iss.cur ∧ (two.thread 1).live = true ∧ 1 ∈ two.liveOfGroup (two.groupOf two.iss.cur) ∧
    two.groupOf two.iss.cur / 16 = State.teamOf two.iss.cur ∧ two.arrivedOf (State.teamOf two.iss.cur) = [] ∧
    ((two.onThread 1 fun t => { t with wait := .pause }).thread 1).wait = .pause ∧
    ((two.onThread 1 fun t => { t with wait := .pause }).thread 1).yieldUntil ≤ two.cycle ∧
    two.opnd.limit ≤ (64 : BitVec 13).toNat ∧ (63 : BitVec 13).toNat < two.opnd.limit ∧
    (64 : BitVec 13).toNat ≤ (two.group (two.groupOf two.iss.cur)).count ∧
    (claiming.group (claiming.groupOf claiming.iss.cur)).count < (64 : BitVec 13).toNat ∧
    (claiming.core claiming.curCore).claims = [⟨0, 64⟩] ∧
    (claiming.team 0).record.width * (64 - (claiming.group 0).count) ≤ claiming.freeRegs claiming.curCore ∧
    ((two.onThread 1 fun t => { t with wait := .pause, marked := true, pending := [⟨[(5, 1)], []⟩] }).thread 1).marked = true := by decide

/-- Two live threads of one group with registers, of which the second waits at a convergence point that the first is about to reach. -/
def meeting (op : Instr) (rs : List (Nat × W32)) : State :=
  let t : Thread := { Thread.start with limit := 64, preds := 5, regs := rs.foldl (fun x e => x.set e.1 e.2) [] }
  { run 0 [] with threads := [(0, t), (1, { t with wait := .convergence, arrival := some ⟨op, false⟩ })] }

/-- The same in a group of 64, the widest. -/
def wide (op : Instr) : State := (meeting op []).onTeam 0 fun x => { x with record := { x.record with width := 64 } }

theorem witness_group_operations :
    ([.gbar, .tbar, .voteAny 3 2, .voteAll 3 2, .voteBallot 4 2, .shfl 1 2 3 true, .redux .smin 1 2] : List Instr).all
      (fun i => decide (Completes (meeting i []) i)) = true ∧
    Ready (meeting (.voteAny 3 2) []) (preds [3, 2] false) ∧ (meeting (.voteBallot 4 2) []).widthOf 0 = 16 ∧
    Ready (meeting (.voteBallot 4 2) []) (regs [4] ++ preds [2] false) ∧
    (wide (.voteBallot 4 2)).widthOf 0 = 64 ∧ Completes (wide (.voteBallot 4 2)) (.voteBallot 4 2) ∧
    Ready (wide (.voteBallot 4 2)) (pair 4 ++ preds [2] false) ∧
    ((wide (.voteBallot 4 2)).team 0).record.width = 64 ∧
    Ready (meeting (.shfl 1 2 3 true) []) (regs [1, 2, 3]) ∧
    Ready (meeting (.redux .smin 1 2) []) (regs [1, 2]) := by decide

/-- Two live threads of one group, or of two groups of a team, of which the second waits at a barrier at another program counter. -/
def astray (op : Instr) (j : Nat) : State :=
  let t : Thread := { Thread.start with limit := 64 }
  { run 0 [] with threads := [(0, t), (j, { t with pc := 8, wait := .convergence, arrival := some ⟨op, false⟩ })] }.onTeam 0 fun x =>
    { x with record := { x.record with groups := 2 } }

/-- The points, with registers that a thread of 64 may name. -/
def pointsAt (s : State) : List (Instr × List Touch) := points s .smin 2 4 6 true 2

theorem witness_arrival :
    (pointsAt two).all (fun c => decide (Ready two c.2) && decide (Arrives two c.1) == !isMatrix c.1 && !decide (AllMet two c.1)) = true ∧
    Ready (inMode 1) (matrixTouch (inMode 1) 2 4 6) ∧ (inMode 1).thr.mode ≠ 0 ∧ two.thr.mode = 0 ∧ two.thr.arrival = none ∧
    (pointsAt two).all (fun c => let s := standing (astray .gbar 1) c.1; 1 < (s.waitPcs (s.liveOfGroup 0)).length) = true ∧
    ([.tbar, .fork 2 2, .wend 6, .choose 6] : List Instr).all (fun i => let s := standing (astray .tbar 16) i
      (s.waitPcs (s.liveOfGroup 0)).length ≤ 1 && decide (1 < (s.waitPcs (s.teamWaiters 0)).length)) = true ∧
    ([.mma 2 4 6 true, .mmo 2 4 6 true] : List Instr).all (fun i => let s := standing two i
      (s.waitPcs (s.teamWaiters 0)).length ≤ 1 && isMatrix i && (s.liveOfGroup 0).length < (two.team 0).record.width) = true ∧
    ((standing two .gbar).thread 0).arrival = some ⟨.gbar, false⟩ := by decide

/-- A team whose scratchpad holds a barrier at offset 0xFF0: phase 15 of the last arrival and one sector, or with other fields. -/
def barred (x : State.Barrier) (rs : List (Nat × W32)) : State := (run 0 rs).putBarrier 0 0xFF0 x

theorem witness_barriers :
    let x : State.Barrier := ⟨15, 1, 3, 0, false, true, 0⟩
    let s := barred x [(2, 0xFF0), (3, 1048575), (4, 15), (5, 14)]
    Ready s (regs [2, 3]) ∧ SpanOpen s 0xFF0 16 .w ∧ (s.barrier s.curTeam 0xFF0).resvd = 0 ∧ (s.v 3).toNat ≤ 1048575 ∧
    (s.barrier s.curTeam 0xFF0).sectors + (s.v 3).toNat < 2 ^ 32 ∧ (s.barrier s.curTeam 0xFF0).pending ≠ 0 ∧
    Ready s (preds [63] true ++ regs [2, 4]) ∧ SpanOpen s 0xFF0 16 .r ∧ (s.barrier s.curTeam 0xFF0).phase = (s.v 4).toNat % 16 ∧
    (s.barrier s.curTeam 0xFF0).phase ≠ (s.v 5).toNat % 16 := by decide

/-! ### Worlds and engines -/

/-- Thread 0 in a context with a pool of view cells. -/
def poolled (rs : List (Nat × W32)) : State := (run 0 rs).onCtx 0 fun x => { x with vpsize := 64 }

/-- Team 0 as the first of two rivals of world 5, in view 1. The second has abstained. -/
def rivalling (resumed : Bool) (rs : List (Nat × W32)) : State :=
  ((poolled rs).onCtx 0 fun x => { x with
      views := [(1, { View.free with state := .live, depth := 1 })],
      worlds := [(5, ⟨[⟨0, 1, if resumed then some 77 else none, false, false, none⟩, ⟨9, 2, none, false, true, none⟩], resumed, 0, none⟩)] }).onTeam 0
    fun x => { x with view := 1, rival := 0, world := some 5 }

theorem witness_worlds :
    Ready (poolled []) (regs [2]) ∧ Completes (poolled []) (.fork 2 1) ∧ Completes (poolled []) (.fork 2 4) ∧
    okFired ((standing (poolled []) (.fork 2 4)).forkExec 0 4 2) (fun _ => true) = true ∧
    Completes (rivalling false [(3, 9)]) (.wend 3) ∧ ((rivalling false [(3, 9)]).team 0).world = some 5 ∧
    ((rivalling false [(3, 9)]).rivalOf 0).any (fun r => !r.parked && r.verdict.isNone) = true ∧
    (standing (rivalling false [(3, 9)]) (.wend 3)).undrained 0 = false ∧
    ((rivalling true [(3, 1)]).resumedWorld (rivalling true [(3, 1)]).curTeam).isSome = true ∧ Ready (rivalling true [(3, 1)]) (regs [4, 3]) ∧
    Completes (rivalling true [(3, 0)]) (.choose 3) ∧ ((rivalling true [(3, 0)]).ctx 0).runs = [] ∧
    (standing (rivalling true [(3, 0)]) (.choose 3)).undrained 0 = false := by decide

/-- A descriptor with global base 0x100 and local offset 0x200 (R194). -/
def descBytes (ctrl param aux0 : Nat) (bound stride box : List Nat) : List Byte :=
  let row (w n : Nat) (xs : List Nat) : List Byte := xs.flatMap (natLe w) ++ natLe (w * (n - xs.length)) 0
  natLe 8 0x100 ++ natLe 4 ctrl ++ natLe 4 0 ++ natLe 4 0x200 ++ natLe 4 param ++ row 4 10 bound ++ row 4 9 stride ++ row 2 10 box ++
    natLe 4 aux0 ++ natLe 4 0

/-- A team whose scratchpad holds a descriptor at 0, and whose thread 0 names it, a zero coordinate and a barrier at 0xFF0. -/
def engineTeam (desc : List Byte) : State :=
  (run 0 [(2, 0), (30, 0xFF0), (28, 0x300), (29, 0)]).spPut 0 0 desc

/-- Whether a descriptor of a kind passes its checks, with room for the job. -/
def jobStarts (s : State) (kind : Nat) (idxa : W64) (bar : Option Nat) : Bool :=
  let j := jobOfDesc s 0 0 0 0 idxa bar
  s.descOk (s.spBytes s.curTeam 0 128) j kind 0 && !s.barOverflow j && s.jobRoom s.curCore 1 &&
    s.roomFor s.curTeam s.curCore (s.jobIvals j)

/-- One line of 32 elements; two rows of a table; a window of a tensor of three dimensions; the block of R201's example. -/
def copyTeam : State := engineTeam (descBytes 0x20 0 0 [32] [] [32])
def gathTeam : State := engineTeam (descBytes 0x121 0 0 [32, 8] [32] [8, 2])
def unfoldTeam : State := engineTeam (descBytes 0x223 0 0 [8, 4, 4, 1] [8, 32, 128] [8, 2, 2, 1])
def quantTeam : State :=
  (engineTeam (descBytes 0x320 0x13 0x2040 [32] [] [32])).onTeam 0 fun x => { x with record := { x.record with scratch := 3 } }

theorem witness_copy_unit_jobs :
    Ready copyTeam (jobTouch 2 24 30 false) ∧ Ready gathTeam (jobTouch 2 24 30 false ++ [.reg 28, .reg 29]) ∧
    SpanOpen copyTeam 0 128 .r ∧ (copyTeam.v 2).toNat = 0 ∧ (copyTeam.v 30).toNat = 0xFF0 ∧ 0xFF0 % 16 = 0 ∧
    0xFF0 + 16 ≤ copyTeam.scratchSize copyTeam.curTeam ∧ jobStarts copyTeam 0 0 (some 0xFF0) = true ∧
    jobStarts gathTeam 1 0x300 (some 0xFF0) = true ∧ jobStarts unfoldTeam 2 0 none = true ∧ jobStarts quantTeam 3 0 none = true := by
  decide +kernel

/-- The same copy with its global base in no window, of a reservation that is free, with a kind of another instruction, with a barrier that
has no room for its sectors, and on a core with 32 jobs. -/
theorem witness_copy_unit_traps :
    let job (s : State) := jobOfDesc s 0 0 0 0 0 (some 0xFF0)
    window (job (copyTeam.spPut 0 7 [5])).desc.gbase = .none ∧ (0xFF4 : Nat) % 16 ≠ 0 ∧ copyTeam.scratchSize 0 < 0x1000 + 16 ∧
    (engineTeam (descBytes 0xA0 0 0 [32] [] [32])).namesFree 0 (job (engineTeam (descBytes 0xA0 0 0 [32] [] [32]))).desc = true ∧
    gathTeam.namesFree 0 (job gathTeam).desc = false ∧ gathTeam.descOk (gathTeam.spBytes 0 0 128) (job gathTeam) 0 0 = false ∧
    (copyTeam.putBarrier 0 0xFF0 ⟨0, 1, 1, 2 ^ 32 - 1, true, false, 0⟩).barOverflow (job copyTeam) = true ∧
    (copyTeam.onCore 0 fun k => { k with jobs := List.replicate 32 (job copyTeam) }).jobRoom 0 1 = false := by decide +kernel

/-- A team with an E4M3 reservation of 192 rows and 128 columns as id 0 (R109), and a record of the same shape in v8 to v11. -/
def reserving (rs : List (Nat × W32)) : State :=
  (run 0 ([(4, 0x30), (8, 0x6003), (9, 0x008000C0)] ++ rs)).onTeam 0 fun x => { x with resv := [(0, resvRecord 0x6003 0x008000C0 0 0 0 1)] }

/-- The operand buffer of core 0 in use up to its last unit. -/
def bufferFull : State :=
  (reserving []).onTeam 0 fun x => { x with resv := [(0, { resvRecord 0x6003 0x008000C0 0 0 0 1 with units := 2048 })] }

theorem witness_operand_buffer :
    resvValid 0x6003 0x008000C0 0 0 = true ∧ ((reserving []).vn 8, (reserving []).vn 9, (reserving []).vn 10) = (0x6003, 0x008000C0, 0) ∧
    Ready (reserving []) (regs [2] ++ [.reg 8, .reg 9, .reg 10, .reg 11] ++ preds [63] true) ∧ (reserving []).freeResvId 0 = some 1 ∧
    (reserving []).freeRun 0 96 = some 96 ∧ bufferFull.freeRun 0 96 = none ∧
    Ready (reserving []) (regs [5]) ∧ ((reserving []).resvOn 0 ((reserving []).v 5).toNat 0).isSome = true ∧
    (reserving []).resvBusy 0 0 = false ∧ Ready (reserving []) (pair 2 ++ regs [4, 5]) ∧
    ((reserving []).resvOn 0 (((reserving []).v 4).toNat % 16) 0).any (fun r => formatsFit 3 r.fmt && tileFits r 0 0) = true := by decide

/-- A whole group of 16 threads, of which all but the first wait at an instruction. -/
def wholeGroup (op : Instr) : State :=
  let t : Thread := { Thread.start with limit := 64, regs := [(2, 0x30)] }
  { reserving [] with threads := (span 0 16).map fun i => (i, if i = 0 then t else { t with wait := .convergence, arrival := some ⟨op, false⟩ }) }

theorem witness_matrix :
    let s := wholeGroup (.mma 8 16 2 true)
    Ready s (matrixTouch s 8 16 2) ∧ Completes s (.mma 8 16 2 true) ∧ (standing s (.mma 8 16 2 true)).partialGroup 0 = false ∧
    okFired ((standing s (.mma 8 16 2 true)).mmaExec 0 false true 8 16 2) (fun _ => true) = true := by decide

/-! ### Futures, counters, starts and enqueues -/

/-- Bytes stand at an address of the mapped page. -/
def holding (s : State) (va : Nat) (bs : List Byte) : State := { s with mem := s.mem.writes (physKey (s.ctxDies 0) va) bs }

/-- Registers that name a future at 0x200, a block at 0x280, a value, a counter at 0x300, a threshold, an action at 0x320. -/
def objects : State :=
  run 0 [(4, 0x200), (6, 0x280), (8, 0x11223344), (9, 0xFFFFFFFF), (20, 0x300), (22, 9), (24, 0x320), (26, 0), (30, 0x340), (32, 0x380), (34, 0x400)]

/-- A future that is empty, full, waited for, or in no state. -/
def future (top : Nat) : State := holding objects 0x200 (natLe 8 (2 ^ 62 * top + 0x100))

theorem witness_futures :
    objects.curView = 0 ∧ Ready objects (pair 2 ++ pair 4 ++ [.reg 6, .reg 7] ++ preds [63] false) ∧
    Ready objects (preds [63] true ++ pair 4 ++ pair 8) ∧ GlobalAt (objects.vd 4) 8 ∧ GlobalAt (objects.vdn 6) 128 ∧
    (∀ top ∈ [0, 1, 2, 3], okRes ((future top).normalPage 0x200 .write) (fun p s1 => (s1.hbm p.1 8).any fun s2 =>
      leNat (s2.pageRead 0 p.2.prot p.1 8) / 2 ^ 62 == top && okRes (s2.normalPage 0x280 .write) fun q s3 => (s3.hbm q.1 8).isSome) = true) ∧
    okRes ((future 3).devPage 0 0x200 8 .write 0 0 true) (fun _ _ => true) = true := by decide

/-- A counter that stands at a value, and a trigger on it. -/
def counter (x : Nat) : State :=
  (holding objects 0x300 (natLe 8 x)).onCtx 0 fun y => { y with trigs := [(0, ⟨0x300, 0x300, 20, 0, 0, 0, 0, 1⟩)] }

/-- Every trigger of a context is in use. -/
def triggersFull : State :=
  (counter 5).onCtx 0 fun y => { y with trigs := (span 0 4096).map fun i => (i, ⟨0x300, 0x300, 20, 0, 0, 0, 0, 1⟩) }

theorem witness_counters :
    Ready (counter 5) (regs [2] ++ (span 20 6).map Touch.reg ++ preds [63] true) ∧ GlobalAt ((counter 5).vd 20) 8 ∧
    GlobalAt ((counter 5).vdn 24) 32 ∧
    okRes ((counter 5).devPage 0 0x300 8 .read 0 0 true) (fun e s1 => okRes (s1.whoLoad (counter 5).who 0x320 32) fun _ s2 =>
      s2.freeTrigger 0 == some 1 && decide (leNat (s2.physRead (some 0) e.1 8) < 9)) = true ∧
    okRes ((counter 9).devPage 0 0x300 8 .read 0 0 true) (fun e s1 => okRes (s1.whoLoad (counter 5).who 0x320 32) fun _ s2 =>
      decide (9 ≤ leNat (s2.physRead (some 0) e.1 8))) = true ∧
    Ready (counter 5) (preds [63] false ++ regs [26]) ∧ ((counter 5).ctx 0).trigs.find? ((counter 5).v 22).toNat = none ∧
    (((counter 5).ctx 0).trigs.find? ((counter 5).v 26).toNat).isSome = true ∧
    okRes ((counter 5).devPage 0 0x300 8 .read 0 0 false) (fun _ _ => true) = true ∧
    okXlat ((counter 5).markExternal.xlatThread 0x300 .write) (fun k l s1 => l.type == 0 && (s1.hbm k 8).any fun s2 =>
      s2.satisfied 0 k 5 (5 + 9) == [] && s2.satisfied 0 k 15 (15 + 9) != []) = true := by decide

/-- A station-table entry of each kind: of an empty session slot, of the context itself, of no station, and with a reserved bit. -/
def stations : List Byte := natLe 4 0x8007 ++ natLe 4 0x10000 ++ natLe 4 0 ++ natLe 4 0x28007

/-- A start header of tag 1 for processor 1, with a record, an argument block, an ack word and a station table in the mapped page. -/
def starting (st len : W32) : State :=
  ((holding (holding (holding objects 0x340 (natLe 8 0x10001)) 0x380 (natLe 64 0)) 0 stations).onCtx 0 fun y =>
    { y with bal := 0x200000000, station := 0 }).onThread 0 fun t =>
      { t with regs := [(4, 0x200), (20, 0x340), (22, 0x380), (24, st), (28, 0x400), (40, 0x300), (42, 0x300), (44, 0x380), (46, len),
        (47, st)].foldl (fun x e => x.set e.1 e.2) t.regs }

theorem witness_starts :
    Ready (starting 0 64) (pair 4 ++ pair 20 ++ pair 28) ∧ GlobalAt ((starting 0 64).vd 28) 256 ∧ ((starting 0 64).ctx 0).starts = [] ∧
    okRes (((starting 0 64).drainWc 0).devLoad 0 0x340 8 0 0 false) (fun bs t =>
      decide (leNat bs < 2 ^ 21) && t.serves 0 (leNat bs / 2 ^ 16 % 32) && (t.fab 1).queue.length == 0) = true ∧
    Ready (starting 0 64) (pair 22) ∧ okRes ((starting 0 64).devLoad 0 0x380 64 0 0 true) (fun _ _ => true) = true := by decide +kernel

theorem witness_enqueues :
    Ready (starting 2 64) (pair 4 ++ (span 22 3).map Touch.reg) ∧ Ready (starting 2 64) (pair 4 ++ (span 40 8).map Touch.reg) ∧
    okRes ((starting 2 64).checkPages [(0x380, .read), (0x200, .write)]) (fun _ s1 =>
      okRes (s1.renqFor s1.who 0x380 2 (some 0x200) true) fun _ _ => true) = true ∧
    okRes ((starting 2 64).checkPages [(0x380, .read), (0x300, .read), (0x200, .write)]) (fun _ s1 =>
      okRes (s1.wenqFor s1.who 0x300 0x300 0x380 64 2 (some 0x200) true) fun _ _ => true) = true := by decide +kernel

/-- A session slot whose 64 outgoing enqueues are all in use. -/
def slotFull : State :=
  (starting 0 64).onSession 0 7 fun x => { x with outs := (span 0 64).map fun n => ⟨n, 0, 0, none, ⟨[], [], 0, false, false, false, 0⟩, true, none⟩ }

theorem witness_enqueue_stations :
    okRes ((starting 0 64).devLoad 0 0 4 0 0 false) (fun bs _ => bs == natLe 4 0x8007) = true ∧
    okRes ((starting 0 64).devLoad 0 4 4 0 0 false) (fun bs _ => bs == natLe 4 0x10000) = true ∧
    okRes ((starting 0 64).devLoad 0 8 4 0 0 false) (fun bs _ => bs == natLe 4 0) = true ∧
    okRes ((starting 0 64).devLoad 0 12 4 0 0 false) (fun bs _ => bs == natLe 4 0x28007) = true ∧
    (slotFull.session 0 7).outs.length = 64 := by decide +kernel

/-- The same thread in a world. -/
def queueing : State := ((starting 2 64).onTeam 0 fun x => { x with view := 1 }).onCtx 0 fun x => { x with vpsize := 64 }

theorem witness_queued_operations :
    queueing.curView = 1 ∧ (queueing.view 0 1).outbox.length < 1024 ∧ queueing.usedCells 0 < queueing.poolCells 0 ∧
    Ready queueing (preds [63] true ++ pair 4 ++ pair 20) ∧ Ready queueing (pair 4 ++ regs [63]) ∧
    Ready queueing (pair 4 ++ pair 20 ++ pair 28) ∧ Ready queueing (regs [2] ++ (span 40 6).map Touch.reg ++ preds [63] true) ∧
    GlobalAt (queueing.vdn 44) 32 ∧ Ready queueing (preds [63] false ++ regs [2]) ∧
    Ready queueing (pair 4 ++ (span 22 3).map Touch.reg) ∧ Ready queueing (pair 4 ++ (span 40 8).map Touch.reg) ∧
    (queueing.vn 46).toNat = 64 ∧ (queueing.vn 47).toNat = 2 := by decide +kernel

/-! ### Akpor -/

/-- A slot with registers, a payload code, and a residual object of 64 elements at 0x400 that is bound from its first. -/
def packing (rs : List (Nat × W64)) (code : PayCode) : State :=
  (runFx 0 rs).onFSlot 0 0 fun x => { x with code := code, objs := [⟨1, 0x400, 64⟩], resid := some (1, 0) }

theorem witness_slot : ((runFx 0 []).fslot 0 0).isSome = true := by decide

theorem witness_akpor_scalars :
    (∃ x, SlotReady (runFx 0 [(1, 5)]) x) ∧ PayCode.ofNat? (0x3FFFFF / 2 ^ 20) = some .t3 ∧ (0x3FFFFF : Nat) < 2 ^ 23 ∧
    PayCode.ofNat? (0x500000 / 2 ^ 20) = none := ⟨⟨_, rfl⟩, by decide, by decide, by decide⟩

theorem witness_akpor_loads :
    okFx ((runFx 0 [(1, 0xFF8)]).fabSpan 0 0 0xFF8 8 8 .read) (fun _ t => t.iss == (runFx 0 []).iss && (t.fslot 0 0).isSome) = true ∧
    okFx ((runFx 0 [(1, 0xFF8)]).fabSpan 0 0 0xFF8 8 8 .write) (fun _ _ => true) = true ∧
    2 ^ 57 < (0x1FFFFFFFFFFFFFF : Nat) + 2 ∧ (0xFF9 : Nat) % 2 ≠ 0 := by decide

theorem witness_akpor_arrays :
    let s := packing [(1, 0x800), (3, 32), (4, 64)] .t3
    ((s.fslot 0 0).any fun x => x.region 32 == some 0x400 && x.region 64 == some 0x400) = true ∧
    okFx (s.fabSpan 0 0 0 128 1 .read) (fun _ s1 => okFx (s1.fabSpan 0 0 0x400 128 1 .write) fun _ s2 =>
      okFx (s2.fabSpan 0 0 0x800 8 1 .write) fun _ _ => true) = true ∧
    okFx (s.fabSpan 0 0 0x800 7 1 .read) (fun _ s1 => okFx (s1.fabSpan 0 0 0 128 1 .write) fun _ _ => true) = true ∧
    okFx (s.fabSpan 0 0 0 (4 * min 64 32) 1 .write) (fun _ s1 => okFx (s1.fabSpan 0 0 0x800 (4 * min 64 32) 1 .read) fun _ _ => true) =
      true := by decide

/-- A slot with an itinerary of one waypoint with an action, by the station of the context itself. -/
def sending (act : Nat) (rs : List (Nat × W64)) : State :=
  (((packing rs .bf16).placeBytes (natLe 4 0x10000)).onCtx 0 fun y => { y with station := 0 }).onFSlot 0 0 fun x =>
    { x with nwp := 1, wps := [(0, BitVec.ofNat 32 (2 ^ 16 * act))] }

theorem witness_akpor_sends :
    ((sending 1 [(3, 64)]).fslot 0 0).any (fun x => x.itinOk && x.adds && (x.region 64).isSome) = true ∧
    okFx ((sending 1 [(3, 64)]).fabSpan 0 0 0 128 1 .read) (fun ps s1 => ((sending 1 [(3, 64)]).fslot 0 0).any fun x =>
      okFx (s1.sendFrom 0 0 x (x.packet 0 (s1.readParts 0 ps)) (some 0x400)) fun _ _ => true) = true ∧
    ((sending 5 [(3, 32)]).fslot 0 0).any (fun x => x.itinOk && decide (x.code.toNat ≤ 1)) = true ∧
    okFx ((sending 5 [(3, 32)]).fabSpan 0 0 0 128 1 .read) (fun ps s1 => ((sending 5 [(3, 32)]).fslot 0 0).any fun x =>
      okFx (s1.sendFrom 0 0 x (x.packet 0 (encodeBlock x.code x.scale (bytesWords (s1.readParts 0 ps)))) none) fun _ _ => true) = true := by
  decide

/-- A slot with a posted receive, met or not, and a quorum. -/
def receiving (met : Bool) : State :=
  (sending 1 [(2, 0x200000), (4, 0x280)]).onFSlot 0 0 fun x =>
    { x with quorum := true, recvs := [⟨3, 0, 0, 0, 0, true, none, 0, 32, .bf16, [], met, true, none, false⟩] }

theorem witness_akpor_receives :
    GlobalAt 0x280 64 ∧ okRes ((receiving false).devPage 0 0x280 8 .read 4 0 true) (fun _ _ => true) = true ∧
    ((receiving false).fslot 0 0).any (fun x => x.recvs.any fun r => r.openR && !r.met) = true ∧
    ((receiving true).fslot 0 0).any (fun x => x.recvs.all fun r => !(r.openR && !r.met)) = true ∧
    ((receiving true).fslot 0 0).any (fun x => okFx ((receiving true).nameObject 0 0 x 1) fun _ t =>
      t.iss == (receiving true).iss && (t.fslot 0 0).isSome) = true ∧
    okRes ((receiving true).cincFor ⟨0, 0, 0, 0⟩ 0x280 5 4 0) (fun _ _ => true) = true := by decide

/-! ### Events: scheduling, queues, engines, contexts -/

/-- The next state that an instruction answers. -/
def nextOf (o : Host.Outcome State Fault Refusal) : State := match o with | .next t => t | _ => State.reset

/-- A second team on core 0 whose thread is ready and not in the active set; the first thread waits or not, with a slot coming in or not. -/
def crowded (w : Wait) (incoming : Option Nat) : State :=
  let s := run 0 []
  { s with cycle := 4096, teams := s.teams.set 1 { placedTeam with slot := some 1 }, groups := s.groups.set 16 ⟨0, 64, none, [], none, [4]⟩,
           threads := [(0, { Thread.start with limit := 64, wait := w }), (1024, { Thread.start with limit := 64 })],
           cores := [(0, { Core.reset with slots := [(0, ⟨0, incoming, 4096⟩)] })] }

/-- A thread with results that are pending, parked at a marker or with a trap that waits. -/
def pendingThread (rs : List Reply) (due : Option TrapDue) : State :=
  (run 0 []).onThread 0 fun t => { t with pending := rs, trapDue := due, wait := .marker }

theorem witness_scheduling :
    ((pendingThread [⟨[(5, 1)], []⟩] none).thread 0).pending[0]? = some ⟨[(5, 1)], []⟩ ∧
    ((pendingThread [⟨[(5, 1)], []⟩, ⟨[], [(3, true)]⟩] none).thread 0).pending.length ≠ 1 ∧
    ((pendingThread [⟨[(5, 1)], []⟩] (some ⟨1, 0, 0, 0, false⟩)).thread 0).trapDue = some ⟨1, 0, 0, 0, false⟩ ∧
    (crowded .join none).allLong 0 = true ∧ (crowded .join none).nextGroup 0 = some 16 ∧ (crowded .join none).cycle % 2048 = 0 ∧
    (crowded .ready none).forcedSlot ((crowded .ready none).core 0).slots = some (0, ⟨0, none, 4096⟩) ∧
    ((crowded .join (some 16)).core 0).slots.find? 0 = some ⟨0, some 16, 4096⟩ ∧ 4096 ≤ (crowded .join (some 16)).cycle ∧
    ((crowded .join none).core 0).slots.find? 7 = none := by decide

/-- A team that waits at the queue engine of die 0. -/
def waiting (y : Team) : State :=
  let s := State.reset.placeCtx
  { s with cycle := 12500, teams := [(3, { y with record := { TaskRecord.zero with x := 1, y := 1, z := 1 } })] }

set_option maxRecDepth 4000 in
theorem witness_placement :
    (((waiting Team.queued).noteLine 0).nextTeam 0).any (fun e => e.1 == 3 && e.2.image.isNone && !e.2.clone) = true ∧
    (((waiting { Team.queued with clone := true }).noteLine 0).nextTeam 0).any (fun e => e.2.image.isNone && e.2.clone) = true ∧
    (((waiting { Team.queued with image := some ⟨0, 1, 0⟩ }).noteLine 0).nextTeam 0).any (fun e => e.2.image.isSome) = true ∧
    (15 : Nat) < ((waiting Team.queued).team 3).record.groups * ((waiting Team.queued).team 3).record.width ∧
    ((waiting Team.queued).engine 1).lastBal < (waiting Team.queued).cycle / 2500 ∧ (waiting Team.queued).waitingOn 1 = [] ∧
    ({ State.reset with cycle := 12500 } : State).hub.periodStart + 12500 ≤ 12500 ∧
    ((waiting Team.queued).onCtx 0 fun x => { x with bal := 0 }).ctx 0 = { (waiting Team.queued).ctx 0 with bal := 0 } := by decide +kernel

set_option maxRecDepth 4000 in
theorem witness_compaction :
    (run 0 []).onCores 0 = true ∧ (∀ iv ∈ (run 0 []).ivalsOfTeam 0, iv.space ≠ .sp 0) ∧ (run 0 []).jobsOf 0 = [] ∧
    255 + (State.halves ((run 0 []).team 0).record).1 ≤ 256 ∧
    ((run 0 []).usedScratch ((run 0 []).team 0).core 0).all (apart (255, 255 + (State.halves ((run 0 []).team 0).record).1)) = true := by
  decide +kernel

/-- A hub that has booted and is owned by agent 2. -/
def own : State := { State.reset with hub := { Hub.reset with ready := true, held := true, owner := 2 } }

/-- Work queue 9 of context 0, with its record in the mapped page, enabled or not. -/
def queue9 (en err : Bool) : State := own.placeCtx.setWq 9 ⟨0x240, en, 5, 3, err, 0, 100, 105, false⟩

theorem witness_work_queues :
    ((queue9 true false).wq 9).head ≠ ((queue9 true false).wq 9).tail ∧
    okRes ((queue9 true false).devPage 0 (0x240 + 64 * (100 % 2 ^ 5)) 64 .read 6 0 false) (fun _ t => t.wq 9 == (queue9 true false).wq 9) = true ∧
    (queue9 true false).powered = true ∧ (queue9 true false).isOwner 2 = true ∧ (queue9 true false).isOwner 1 = false ∧
    ((132 : W32) - 100).toNat ≤ 2 ^ 5 ∧ 2 ^ 5 < ((133 : W32) - 100).toNat ∧ ((queue9 false true).wq 9).en = false ∧
    (0x03FF0161 : Nat) / 2 ^ 9 % 2 ^ 7 = 0 ∧ (0x03FF0161 : Nat) / 2 ^ 16 < 1024 ∧ (0x03FF0161 : Nat) / 2 % 32 = 16 := by decide

/-- The copy of one line that core 0 has accepted, with a barrier; the same with its first source sector read; and with its unit moved. -/
def jobbed : State := nextOf (execCopy 2 24 30 false copyTeam)
def readJob : State := nextOf (execJobSector 0 0 0 jobbed)
def movedJob : State := nextOf (execJobSector 0 0 0 readJob)

/-- The `mma` of a whole group, accepted and started. -/
def mmaAccepted : State := nextOf (execMma 8 16 2 true (wholeGroup (.mma 8 16 2 true)))
def mmaStarted : State := nextOf (execMmaMultiplyStart 0 mmaAccepted)

/-- The scoreboard of core 0 after the owner of its interval has gone. -/
def ownerless : State := jobbed.onCore 0 fun k => { k with jobs := [] }

theorem witness_engines :
    (jobbed.jobOf 0 0).any (fun j => jobbed.jobReady j && j.cloneOf.isNone && j.desc.kind == 0 && j.bar == some 0xFF0) = true ∧
    (jobbed.jobOf 0 0).any (fun j => (jobbed.piecesOf j)[0]?.any fun p => !jobbed.unitBlocked j p && State.missing j (State.pieceSrcs p) == some 0x100 &&
      match jobbed.readSector j false 0x100 with | .ok _ _ => true | _ => false) = true ∧
    (readJob.jobOf 0 0).any (fun j => (readJob.piecesOf j)[0]?.any fun p => !readJob.unitBlocked j p && (State.missing j (State.pieceSrcs p)).isNone &&
      match readJob.movePiece j p with | .ok _ _ => true | _ => false) = true ∧
    (movedJob.jobOf 0 0).any (fun j => movedJob.landable j == [16] && (movedJob.barrier 0 0xFF0).sectors == 4) = true ∧
    (ownerless.core 0).ivals[0]?.any (fun iv => ownerless.cores.all fun e =>
      e.2.mms.all (fun m => m.serial != iv.owner) && e.2.jobs.all fun j => j.serial != iv.owner) = true ∧
    (((run 0 []).onTeam 0 fun x => { x with phase := .copying }).team 0).copies = 0 := by decide +kernel

theorem witness_matrix_events :
    (mmaAccepted.core 0).mms.any (fun x => !x.abandoned && !x.started && (mmaAccepted.core 0).jobs.all (fun j => j.fetchFor != some x.serial) &&
      !(mmaAccepted.coresOfTeam x.team).any fun c => mmaAccepted.startBlocked c x.serial) = true ∧
    (mmaStarted.core 0).mms.any (fun x => x.started && !x.abandoned && (mmaStarted.resvOn x.team x.res 0).isSome) = true := by decide +kernel

/-- A context with a walk of the record at 0x280, and with a view whose outbox it runs. -/
def walking : State :=
  (holding objects 0x280 (natLe 8 0 ++ natLe 8 0x380 ++ natLe 112 0)).onCtx 0 fun x => { x with
    walks := [⟨0x280, 5, 0, 0⟩], runs := [⟨1, 0, 0, false⟩], sweep := [2],
    views := [(1, { View.free with state := .live, depth := 1, outbox := [.cinc 0x300 5] }), (2, { View.free with state := .dead })] }

theorem witness_contexts :
    (walking.ctx 0).state = 1 ∧ (walking.ctx 0).walks ≠ [] ∧ GlobalAt (0x280 : W64) 128 ∧
    okRes (walking.devLoad 0 0x280 128 0 0 false) (fun bs s1 => leNat ((bs.drop 8).take 8) == 0x380 &&
      okRes (s1.devStore 0 0x380 (natLe 8 5) 0 0 false) fun _ _ => true) = true ∧
    (walking.ctx 0).runs ≠ [] ∧ (walking.view 0 1).outbox = [.cinc 0x300 5] ∧
    okRes (walking.runOp (walking.winner 0 ⟨1, 0, 0, false⟩) (.cinc 0x300 5)) (fun _ _ => true) = true ∧
    (walking.ctx 0).sweep = [2] ∧ (walking.view 0 2).outbox = [] ∧ (walking.view 0 2).state ≠ .merged ∧
    nextStores (storing.thread 0).wc ≠ [] := by decide +kernel

/-- A context whose one trigger has fired and waits for room. -/
def deferring : State := (starting 0 64).onCtx 0 fun x => { x with deferred := [⟨0, 0x200, 0x340, 0x300, 0, 0, true, false, false, 0, 0⟩] }

theorem witness_deferred :
    (deferring.ctx 0).state = 1 ∧ okRes (deferring.fireTo ⟨0, 0x200, 0x340, 0x300, 0, 0, true, false, false, 0, 0⟩) (fun _ _ => true) = true := by
  decide +kernel
/-- The same copy, suspended at page 0, which is under fault. -/
def heldCopy : State :=
  (jobbed.onCtx 0 fun x => { x with under := [⟨0, 0x100, 0x40, 2, 0, 0, true⟩] }).onCore 0 fun k =>
    { k with jobs := k.jobs.map fun (j : Job) => { j with held := true } }

theorem witness_fatal_job :
    (heldCopy.ctx 0).walks = [] ∧ heldCopy.enqueuesAt 0 0 = [] ∧ (heldCopy.heldJobs 0).length = 1 ∧ (heldCopy.core 0).log = [] ∧
    (heldCopy.heldJobs 0).all (fun j => (heldCopy.markFatal 0 0).fatalOf j 0 == some (6, 0x100, false)) = true ∧
    jobbed.heldJobs 0 = [] ∧ jobbed.enqueuesAt 0 0 = [] := by decide +kernel

/-- A fatal answer stops the suspended copy with a record of type 5 and cause 6, and tears its context down (R203, R285, R295). -/
theorem test_fatal_answer_stops_the_copy :
    let t := heldCopy.failPage 0 0
    (t.ctx 0).state = 4 ∧ (t.ctx 0).cause = 0x53 ∧ t.jobOf 0 0 = none ∧ (t.ctx 0).errSeq = 1 ∧
    t.ctxRead 0 4 2 = [5, 6] := by decide +kernel


/-! ### Events: faults, pre-emption, binding, sessions, the network, the hub -/

/-- The hub of agent 2 with context 700 in a state, and a page of it under fault. -/
def serviced (st : BitVec 3) : State :=
  own.setCtx 700 { Ctx.reset with state := st, under := [⟨5, 5 * 4096, 0, 0, 0, 0, true⟩], wdog := 1, tlb := [placedPage] }

/-- A thread and a slot that have waited longer than the watchdog of their context allows. -/
def overdue : State := ((run 0 []).onCtx 0 fun x => { x with wdog := 1 }).onThread 0 fun t => { t with wait := .marker, waitCount := 1025 }
def overdueSlot : State :=
  ((runFx 0 []).onCtx 0 fun x => { x with wdog := 1 }).onFSlot 0 0 fun x => { x with wait := .receive, waitCount := 1025 }

theorem witness_fault_service :
    Owned (serviced 1) 2 ∧ ((serviced 1).ctx 700).state = 1 ∧ (700 + 2 ^ 19 * 5 : W64).toNat = 700 + 2 ^ 19 * 5 ∧
    ((serviced 1).ctx 700).under.find? (fun u => u.page == 5) = some ⟨5, 5 * 4096, 0, 0, 0, 0, true⟩ ∧ (serviced 1).loggedOn 700 5 = [] ∧
    ((serviced 4).ctx 700).state = 4 ∧ (overdue.ctx (overdue.ctxOf 0)).wdog.toNat % 2 ^ 24 = 1 ∧ overdue.countFrozen 0 = false ∧
    (overdue.thread 0).wait ≠ .join ∧ 1024 < (overdue.thread 0).waitCount ∧ (overdue.thread 0).trapDue = none ∧
    (overdueSlot.fslot 0 0).any (fun x => decide (x.wait ≠ .ready) && decide (1024 < x.waitCount)) = true := by decide

/-- Invalidations that the hub has begun, with no access in flight. -/
def invalidating : State := { serviced 1 with hub := { (serviced 1).hub with xinvBusy := true, xinv := [(700, none), (3, some 5)] } }

theorem witness_invalidation : invalidating.hub.xinvBusy = true ∧ ∀ e ∈ invalidating.hub.xinv, invalidating.inFlight e.1 = false := by decide

/-- Team 0 in a phase, in a context in a state. -/
def inPhase (p : Phase) (st : BitVec 3) : State := ((run 0 []).onTeam 0 fun x => { x with phase := p }).onCtx 0 fun x => { x with state := st }

theorem witness_preemption :
    (serviced 1).teamsOf 700 = [] ∧ (serviced 1).boundIn 0 = [700] ∧ ((inPhase .draining 1).team 0).drainUntil ≤ (inPhase .draining 1).cycle ∧
    ((inPhase .saving 1).writeBackTeam 0).saveReady 0 = true ∧ ((inPhase .saved 3).teamsOf 0).all (fun t => !(inPhase .saved 3).seated t) = true ∧
    ((inPhase .placed 1).team 0).phase = .placed := by decide

/-- A context that can be bound, but for a root that is not valid. -/
def unbound (ptroot : W64) : State := own.setCtx 700 { Ctx.reset with ptroot := ptroot, faultq := 0x100007, errq := 0x200010 }

/-- A hub with a scrub of context 700: its core state is released or not, and two granules of die 0 and one of die 1 remain or none. -/
def scrubbing (phase : Nat) (gs : List Nat) : State :=
  { own with hub := { own.hub with scrubs := [⟨700, 3, phase, true, gs, [5, 6, 2 ^ 24]⟩] } }.setCtx 700 { Ctx.reset with state := 5, prot := true, kslot := 3 }

theorem witness_binding :
    Owned (unbound 1) 2 ∧ ((unbound 1).ctx 700).state = 0 ∧ (unbound 1).bindable 700 = true ∧ (unbound 0).bindable 700 = false ∧
    (scrubbing 1 []).hub.scrubs.all (scrubbing 1 []).muted = true ∧ (scrubbing 1 []).teamsOf 700 = [] ∧
    (scrubbing 2 [5, 6, 2 ^ 24]).hub.scrubs.map (fun x => x.granules.filter fun g => g / 2 ^ 24 == 0) = [[5, 6]] ∧
    (scrubbing 2 [5, 6, 2 ^ 24]).hub.scrubs.map (fun x => (x.journal.filter fun g => g / 2 ^ 24 == 0).length) = [2] ∧
    (scrubbing 2 []).hub.scrubs.map (fun x => (x.granules, x.journal != [])) = [([], true)] := by decide +kernel

/-- Session slot 7 of domain 3, with values. -/
def sessioned (x : Session) : State := { own with cycle := 12500000000 }.setSession 3 7 x
def offered (n : Nat) : Offer := ⟨0, [], [], 0, n, 0⟩
def spentKey : SessKey := ⟨1, [], true, 2 ^ 32, 0⟩

theorem witness_sessions :
    Owned (sessioned .reset) 2 ∧ (0x3FF0003 : W32).toNat / 2 ^ 16 < 1024 ∧ (0x3FF0003 : W32).toNat % 2 ^ 16 < 4 ∧
    ((sessioned { Session.reset with en := true, failed := true }).session 3 7).failed = true ∧
    leNat (State.dgField [1] 0 1) = 1 ∧ State.dgramOk .reset [1] = false ∧ leNat (State.dgField [2] 0 1) = 2 ∧
    ((sessioned { Session.reset with offer := some (offered 16) }).session 3 7).offer = some (offered 16) ∧
    (offered 15).sentAt + 125000000 ≤ (sessioned .reset).cycle ∧ 2 ^ 31 ≤ spentKey.sent ∧ (sessioned .reset).keySpent spentKey = true ∧
    (0 : Nat) + 12500000000 ≤ (sessioned .reset).cycle := by decide

/-- A datagram whose signature verifies passes the checks: the sender's key, and the lengths and versions, are those of the slot's peer. -/
theorem witness_datagram (x : Session) (bs : List Byte) (hl : bs.length = 204) (hv : leNat (State.dgField bs 1 1) = 1)
    (hk : State.dgField bs 76 32 = State.peerKey x)
    (hs : Crypto.verify (State.peerKey x) (bs.take 140) (State.dgField bs 140 64) = true) : State.dgramOk x bs = true := by
  simp [State.dgramOk, hl, hv, hk, hs]

/-- A session of context 0 with a key, and packet 4 not yet answered. -/
def keyed : Session := { Session.reset with en := true, key := some ⟨2, [], true, 5, 0⟩, unacked := [(4, ⟨0, 0, 0, 0, 1, 0, 0, [], 0, [], false, false, 0⟩)] }
def networked : State := (run 0 []).setSession 3 7 keyed

/-- A send that processor 1 retains as packet 4, and a receive of processor 0 whose deadline has passed. -/
def retaining : State := networked.onFab 1 fun f => { f with retained := [⟨4, 0, none, 0, .fp32, 0, 0, [], none⟩] }
def dueReceive (q : Bool) : State :=
  ({ receiving false with cycle := 9 } : State).onFSlot 0 0 fun x => { x with quorum := q, recvs := x.recvs.map fun r => { r with deadline := some 8 } }

theorem witness_network :
    (networked.session 3 7).en = true ∧ (networked.underKey keyed false).any (fun y => y.ctx == 0) = true ∧ (networked.ctx 0).state = 1 ∧
    (networked.retainedOf 4).isNone = true ∧ (retaining.retainedOf 4).isSome = true ∧
    (keyed.unacked.find? fun e => e.1 == 4).isSome = true ∧
    ((dueReceive true).fslot 0 0).any (fun y => y.quorum && y.ending.isNone && y.recvs[0]?.any fun r => !r.met && r.openR && r.deadline == some 8) = true ∧
    ((dueReceive false).fslot 0 0).any (fun y => !y.quorum) = true ∧ (8 : Nat) < (dueReceive true).cycle := by decide

/-- A start of the image at 0x200, two words long, waits at processor 1; and the same with its image named by a slot and not yet loaded. -/
def startable : State :=
  (holding (starting 0 64) 0x200 (natLe 8 2 ++ natLe 16 0)).onFab 1 fun f => { f with queue := [⟨0, 0x200, 0x340, 0x300, 0, 0, false, false, false, 1, 0⟩] }
def started : State := nextOf (execStartRequest 1 startable)

/-- Enqueues that a session has sent: one that asks for an answer, and one that does not. -/
def enqueued : State :=
  networked.onSession 3 7 fun x => { x with outs := [⟨0, 0, 0, some 0x200, ⟨[], [], 0, false, true, false, 0⟩, true, none⟩, ⟨1, 0, 0, none, ⟨[], [], 0, false, false, false, 0⟩, true, none⟩] }

theorem witness_enqueue_answers :
    ((enqueued.session 3 7).outs.find? fun o => o.sent && o.msg.ack && o.serial == 0).isSome = true ∧
    ((enqueued.session 3 7).outs.find? fun o => o.sent && !o.msg.ack && o.serial == 1).isSome = true ∧
    (((networked.onCtx 0 fun x => { x with state := 0 }).ctx 0).state) = 0 := by decide

theorem witness_ownership :
    (own.claimOpen 1 1 = true) ∧ own.hub.held = true ∧ State.reset.hub.held = false ∧ State.reset.hub.pendingVectors = [] ∧
    State.reset.claimOpen 3 3 = true ∧ own.powered = true ∧ own.isOwner 2 = true ∧ (3 : Nat) ∉ own.hub.linkDown ∧ Owned own 2 ∧
    partcfgValid 0xFEDCBA9876543200 = true ∧ partcfgValid 0xFEDCBA9876543220 = false ∧ (∀ d < 16, own.boundIn (own.leadOf d) = []) ∧
    (regAt 0x100018).wide = true ∧ (0x100002 : Nat) % 4 ≠ 0 ∧ (0x7777777777777740 : Nat) % 64 = 0 ∧ own.leadOf 15 = 15 ∧
    0 + 64 ≤ reservedStart (own.diesOf 0) ∧ own.hub.tags = [] ∧ own.hub.enciphered = [] := by decide +kernel

/-- A claim whose window and key an agent's signature verifies. -/
theorem witness_claim (s : State) (a : Nat) (hw : leNat ((tabBytes s.hub.claims (128 * a) 72).take 8) = a)
    (hk : (s.agentKey a).any (fun b => b != 0) = true)
    (hs : Crypto.verify (s.agentKey a) (s.claimMessage a) ((tabBytes s.hub.claims (128 * a) 72).drop 8) = true) :
    s.claimVerifies a = true := by
  simp only [State.claimVerifies, hw, hk, hs, beq_self_eq_true, Bool.and_self]

theorem witness_board :
    own.powered = true ∧ own.isOwner 2 = true ∧ ({ own.hub with attbusy := true } : Hub).attbusy = true ∧ own.ctxs = [] ∧
    own.hub.agentlock = false ∧ own.hub.agentsel.toNat < 4 ∧ ({ own.hub with agentlock := true } : Hub).agentlock = true ∧
    (∀ d < 21, d ≠ 20 → own.hub.temps.get d 0 < 100) ∧ (10000 : Int) ≤ own.hub.pcap.toNat := by decide

theorem witness_fabric_starts :
    (startable.fab 1).queue.length = 1 ∧
    (match startable.tryStart 1 ⟨0, 0x200, 0x340, 0x300, 0, 0, false, false, false, 1, 0⟩ with | .used _ => true | _ => false) = true ∧
    (started.fslot 1 0).any (fun x => ((started.fab 1).images.find? x.image).any fun m => !m.loaded && m.len == 2 &&
      okRes (started.devSpan m.ctx (m.addr.toNat + 8) (8 * m.len) 4 1 false) fun _ _ => true) = true := by decide +kernel

/-! ### Fetching, encoding and the whole machine -/

/-- A word under guard ?p3 with the guard false, one with it true, one that is no instruction, and a slot at its first word. -/
theorem witness_steps :
    let s := (run 0x0EF00005 []).onThread 0 fun t => { t with preds := 0 }
    (run 0x0EF00005 []).turns = [.core 0] ∧ (run 0x0EF00005 []).powered = true ∧ (run 0x0EF00005 []).keyThread 0 = some 0 ∧
    (run 0x0EF00005 []).canIssue 0 = true ∧ okRes (((run 0x0EF00005 []).place 0).fetchWord 0) (fun w _ => w == 0x0EF00005) = true ∧
    (headerOf 0x0EF00005).chain = false ∧ (decodeWord 0x0EF00005).toOption = some (⟨false, false, false, 3⟩, .trap 5) ∧
    (run 0x0EF00005 []).p 3 = true ∧ s.p 3 = false ∧ s.opnd.predPending 3 = false ∧
    okRes (((run 0x1C702107 []).place 0).fetchWord 0) (fun w _ => w == 0x1C702107) = true ∧ (decodeWord 0x1C702107).toOption = none ∧
    (runFx 0x2007000000000000 []).turns = [.fabric 0] ∧ (runFx 0x2007000000000000 []).nextSlot 0 = some 0 ∧
    ((runFx 0x2007000000000000 []).ctx 0).state = 1 ∧
    ((runFx 0x2007000000000000 []).fslot 0 0).any (fun x => x.ending.isNone && x.pc == 0 && x.image == 0) = true ∧
    (((runFx 0x2007000000000000 []).fab 0).images.find? 0).any (fun m => m.len == 1 && m.code == [0x2007000000000000]) = true ∧
    isEvent (.release 2) = true ∧ (Instr.release 2).wf := by decide

theorem witness_encodings :
    (Instr.cmpLtu 6 3 4 true).wf ∧ headerOk ⟨true, false, true, 3⟩ (.cmpLtu 6 3 4 true) = true ∧
    (encodeWord ⟨true, false, true, 3⟩ (.cmpLtu 6 3 4 true)).isSome = true ∧ (Instr.fxLoop 7 2).wf ∧ (encodeFx (.fxLoop 7 2)).isSome = true ∧
    (decodeWord 0x1CE8C189).toOption.isSome = true ∧ (decodeFx 0x2007000000000002).toOption.isSome = true := by decide

/-- A state with memory whose step is a store. -/
theorem witness_canonical :
    Canonical (holding (onPage 0 false [(2, 0xFF8)]) 0xFF8 [5, 0, 7]) ∧
    after (exec (.stD 62 2 0) (holding (onPage 0 false [(2, 0xFF8)]) 0xFF8 [5, 0, 7])) (fun t => t.mem.wf) = true := by decide

/-! ### Witnesses: balancing, replay, pre-emption, arrivals and chains -/

/-- Four waiting teams of context 0 at die 0, one of them a clone, whose context lets a lead of one team stand. -/
def lined : State :=
  let y : Team := { Team.queued with record := { TaskRecord.zero with x := 1, y := 1, z := 1 } }
  ({ State.reset.placeCtx with cycle := 12500, teams := [(3, y), (4, y), (5, y), (6, { y with clone := true })] } : State).onCtx 0 fun x =>
    { x with bal := 1 }

/-- Team 0 as a twin, whose upper half has one unit. -/
def twinned : State := (run 0 []).onTeam 0 fun x => { x with record := { x.record with twin := true, scratch := 2 } }

set_option maxRecDepth 4000 in
theorem witness_balance :
    (lined.engine 0).lastBal < lined.cycle / 2500 ∧ (lined.ctx 0).bal.toNat % 2 ^ 16 = 1 ∧
    (lined.waitingOf 1 0).length + 1 < (lined.waitingOf 0 0).length ∧ (lined.pushOrder 0 0).length = 3 ∧
    State.reset.cycle / 2500 ≤ (State.reset.engine 0).lastBal ∧ 0 ∈ lined.ctxs.map (·.1) ∧ lined.hub.periodStart + 12500 ≤ lined.cycle ∧
    State.reset.cycle < State.reset.hub.periodStart + 12500 ∧ twinned.onCores 0 = true ∧ twinned.jobsOf 0 = [] ∧
    (∀ iv ∈ twinned.ivalsOfTeam 0, iv.space ≠ .sp 0) ∧ 511 + (2 / 2) ≤ 512 ∧
    (∀ e ∈ twinned.usedScratch 1 0, 255 + 1 ≤ e.1 ∨ e.2 ≤ 255) := by decide +kernel

/-- Two logged accesses in page 0, which is under fault and now has a translation. -/
def logging : State :=
  ((run 0 []).onCtx 0 fun x => { x with under := [⟨0, 0x100, 0, 0, 0, 0, true⟩] }).onCore 3 fun k => { k with
    log := [⟨0, 0, 0x108, .store [1, 2], 0, 0, false, none, 7, none, []⟩, ⟨0, 0, 0x100, .cinc 1, 0, 0, false, none, 2, none, []⟩] }

theorem witness_replay :
    (logging.loggedOn 0 0).map (fun e => (e.1, e.2.place)) = [(3, 2), (3, 7)] ∧
    okXlat ((logging.onCtx 0 fun x => { x with under := [] }).xlat 0 0x100 .write 0 3 0) (fun _ _ _ => true) = true ∧
    ((serviced 5).ctx 700).state = 5 := by decide

/-- Team 0 with the estimate of its run time, in a context with a drain limit, whose kernel may run twice or not. -/
def estimated (cycles : Nat) (idem : Bool) : State :=
  (((run 0 []).onTeam 0 fun x => { x with record := { x.record with idem := idem } }).onCtx 0 fun x => { x with preempt := 1 }).setEngine 0
    { Engine.reset with ests := [⟨0, 0, cycles⟩] }

/-- The clauses of pre-emption that `witness_preemption` leaves: without an estimate, a kernel that runs again, a drain, and the rest. -/
theorem witness_preemption_courses :
    (run 0 []).estimate 0 = none ∧ ((run 0 []).team 0).phase = .placed ∧ (estimated 5000 true).estimate 0 = some 5000 ∧
    ((estimated 5000 true).team 0).record.idem = true ∧ ((estimated 5000 true).team 0).external = false ∧
    ((estimated 5000 true).ctx 0).preempt.toNat / 2 ^ 16 % 2 = 0 ∧ 4 * ((estimated 5000 true).cycle - ((estimated 5000 true).team 0).startedAt) < 5000 ∧
    ((estimated 5000 false).team 0).record.idem = false ∧ ((estimated 5000 false).ctx 0).preempt.toNat % 2 ^ 16 * 1250 ≤ 5000 ∧
    (1000 : Nat) < ((estimated 1000 false).ctx 0).preempt.toNat % 2 ^ 16 * 1250 ∧ ((inPhase .argsHeld 1).team 0).phase = .argsHeld ∧
    ((inPhase .copying 1).team 0).phase = .copying ∧ ((inPhase .draining 2).ctx 0).state = 2 ∧ ((inPhase .draining 2).team 0).image = none ∧
    (((inPhase .saved 2).onTeam 0 fun x => { x with image := some ⟨0, 1, 0⟩ }).team 0).image = some ⟨0, 1, 0⟩ := by decide

/-- A module whose station 1 is processor 0 itself and whose station 0 is reached through a session, with a posted receive. -/
def arriving (deliver : Bool) : State :=
  ((holding (receiving false) 0 stations).setSession 3 7 keyed).onFSlot 0 0 fun x =>
    { x with recvs := x.recvs.map fun r => { r with deliver := deliver } }

/-- One block of BF16 from station 0 to station 1, with an action. -/
def block (act : Nat) : Packet :=
  ⟨0, 0, 0, 0, 1, PayCode.bf16.toNat, 64, [BitVec.ofNat 32 (1 + 2 ^ 16 * act)] ++ List.replicate 7 0, 0, List.replicate 64 0, false, false, 9⟩

/-- The arrival of a block, popped. -/
def popped (act : Nat) : Held := ⟨0, State.popped (block act), BitVec.ofNat 32 (1 + 2 ^ 16 * act), some (3, 7), none⟩

def okTaken (t : Taken) : Bool := match t with | .done _ _ => true | _ => false
def okArrived (t : State.Arrived) : Bool := match t with | .done _ _ => true | _ => false

theorem witness_arrivals :
    okFx ((arriving true).stationOf 0 24 1) (fun e _ => e.self && e.slot % 32 == 0) = true ∧
    okFx ((arriving true).stationOf 0 24 0) (fun e _ => !e.self) = true ∧
    okFx ((arriving true).ownStation 0 0) (fun own _ => own == some 1) = true ∧
    okFx ((holding (arriving true) 16 (natLe 4 0x10000)).stationOf 0 24 4) (fun e _ => e.self && e.slot % 32 == 0) = true ∧
    okFx ((holding (arriving true) 16 (natLe 4 0x10000)).ownStation 0 0) (fun own _ => own != some 4) = true := by decide +kernel

theorem witness_matching :
    State.headerOk (block 3) = true ∧ okArrived ((arriving true).arriveAt 0 0 (block 3) (some (3, 7)) none) = true ∧
    State.keyOf 0 (popped 3).packet (popped 3).wp ∉ ((arriving true).fab 0).closed ∧
    (State.oldest ((arriving true).openFor 0 (State.keyOf 0 (popped 3).packet (popped 3).wp))).isSome = true ∧
    ((arriving true).fslot 0 0).any (fun y => y.recvs[0]?.any fun r => okTaken ((arriving true).take 0 0 0 y r (popped 3))) = true ∧
    ((arriving false).fslot 0 0).any (fun y => y.recvs[0]?.any fun r => okTaken ((arriving false).take 0 0 0 y r (popped 1))) = true ∧
    (((arriving true).onFSlot 0 0 fun x => { x with recvs := x.recvs.map fun r => { r with sig := some 0x280 } }).fslot 0 0).any (fun y =>
      y.recvs[0]?.any fun r => okTaken ((arriving true).take 0 0 0 y r (popped 4))) = true ∧
    ((arriving true).ctx 0).caravsz.toNat % 2 ^ 24 ≤ ((arriving true).ctx 0).held.length := by decide +kernel

/-- What a session has taken in before, ports that are down, and an enqueue that arrives with a payload of one part. -/
theorem witness_transport :
    ({ keyed with seen := [(9, some true)] } : Session).seen.find? 9 = some (some true) ∧ keyed.seen.find? 9 = none ∧
    networked.upPorts 3 7 = [96, 97, 98, 99] ∧ ({ networked with portsDown := [96, 97, 98, 99] } : State).upPorts 3 7 = [] ∧
    networked.keySpent ⟨2, [], true, 5, 0⟩ = false ∧
    (match networked.tryPost 0 0 0x100 [7] (some 1) with | .done _ => true | _ => false) = true ∧
    networked.enqLogged 1 = false ∧ recordValid (natLe 36 0 ++ natLe 4 0x1C0 ++ natLe 24 0) = true ∧ recordValid (natLe 64 5) = false ∧
    (match (startable.onFab 1 fun f => { f with queue := [] }).tryStart 1 ⟨0, 0x100000, 0x340, 0x300, 0, 0, true, false, false, 1, 0⟩ with
      | .held _ _ => true | _ => false) = true := by decide +kernel

/-- Words of a chain, where the thread of `run` fetches it. -/
def chained (ws : List (Header × Instr)) : State :=
  (run 0 [(4, 7)]).placeBytes (ws.flatMap fun w => leBytes 4 (((encodeWord w.1 w.2).getD 0).toNat))

def linkH : Header := ⟨true, false, false, 7⟩

/-- The words of a chain as they are fetched, and read. -/
def fetched (s : State) : List FetchedWord :=
  match State.fetchChain 3 (s.place 0) 0 with | .ok ws _ => (readWords ws).getD [] | _ => []

theorem witness_chains :
    let good := chained [(linkH, .mov 1 4), (Header.plain, .lds 2 63 0)]
    let clash := chained [(linkH, .mov 1 4), (Header.plain, .mov 1 4)]
    let traps := chained [(linkH, .mov 1 4), (Header.plain, .lds 2 4 0)]
    let badWord := chained [(linkH, .rfe), (Header.plain, .exit)]
    (fetched good).length = 2 ∧ ¬Ungrouped (fetched good) ∧ Ungrouped (fetched clash) ∧ ¬Ungrouped (fetched traps) ∧
    Ungrouped (fetched badWord) ∧ ((fetched badWord).map (badWord.place 0).runWord).any State.illegal = true ∧
    ((fetched clash).map (clash.place 0).runWord).all (fun o => !State.illegal o) = true ∧
    ((fetched traps).map (traps.place 0).runWord).any (State.leaves .trapped) = true ∧
    ((fetched good).map (good.place 0).runWord).all (fun o => !State.leaves .trapped o && !State.leaves .waiting o) = true := by decide +kernel

/-- R320: both words of a chain read the registers as they stood before it. -/
theorem test_chain_reads_before :
    after (step (chained [(linkH, .mov 1 4), (Header.plain, .stsD 0 63 0)])) (fun t =>
      (t.thread 0).regs.get 1 0 == 7 && t.spBytes 0 0 8 == List.replicate 8 0 && (t.thread 0).pc == 8) = true := by decide +kernel

theorem witness_bundle :
    let s := run 0x0EF00005 []
    (s.place 0).atPoint.1 = false ∧ (s.bundleOf 0 0 false) = [0] ∧ (s.place 0).atPoint.2.hasBudget 0 0 0 = true ∧ s.throttled 0 = false ∧
    State.reset.keyThread 0 = none ∧ (((run 0 []).onThread 0 fun t => { t with pc := 4 }).thread 0).pc ≠ 0 ∧
    (runFx 0x2007000000000000 []).slotStopped ((((runFx 0x2007000000000000 []).fslot 0 0)).getD .start) = false ∧
    (runFx 0x2007000000000000 []).foldsDue 0 0 = false := by decide +kernel

/-! ### Witnesses: operands, translation, ends, decided worlds and completion records -/

/-- A predicate that is pending. -/
def awaitingPred : State := idle.onThread 0 fun t => { t with pending := [⟨[], [(67, true)]⟩] }

/-- R53, R60: a block of registers past the limit, a pending base pair, a pending predicate of the upper half, and a special register that
mode 0 does not read. -/
theorem witness_operands :
    (operands limited (.wenq 2 4 true)).any (fun x => x == .reg 11) = true ∧ limited.opnd.limit ≤ 11 ∧
    (operands awaiting (.ld 1 2 0)).any (fun x => x == .reg 3) = true ∧ awaiting.opnd.regPending 3 = true ∧
    (operands awaiting (.ld 1 2 0)).all (fun x => x != .reg 64) = true ∧
    (operands awaitingPred (.pand 1 2 3 true)).any (fun x => x == .pred 67) = true ∧ awaitingPred.opnd.predPending 67 = true ∧
    awaitingPred.thr.live = true ∧ idle.srReadable 0x100 = false ∧ idle.srWritable 0x100 = false := by decide

/-- Tables at 0x1000 to 0x5000 of context 0, whose leaf maps its first 64 KiB, and no kept translation. -/
def walked (leaf : Nat) : State :=
  (holding (holding (holding (holding (holding (run 0 [(2, 0x300), (63, 0)]) 0x1000 (natLe 8 0x2001)) 0x2000 (natLe 8 0x3001)) 0x3000
    (natLe 8 0x4001)) 0x4000 (natLe 8 0x5001)) 0x5000 (natLe 8 leaf)).onCtx 0 fun x => { x with ptroot := 0x1001, tlb := [] }

def okWalk (w : Walked) (p : TlbEntry → Bool) : Bool := match w with | .leaf l _ => p l | _ => false
def faultOf (w : Walked) : Nat := match w with | .fault k => k | _ => 0
def heldAs (r : Xlat × State) (b : Bool) : Bool := match r with | (.hold c, _) => c == b | _ => false
def fatalAs (r : Xlat × State) : Bool := match r with | (.fatal, _) => true | _ => false

/-- R280 to R283, R482: a leaf that may be written, one that may not, a walk that finds no entry, a root table among the context's own
regions, host tables of no format; the record of a fault in a free slot, in one that the host has not freed, and of a fatal kind. -/
theorem witness_translation :
    okWalk ((walked 0x40007).walk 0 0x300) (fun l => l.write && l.pa == 0x40000 && l.size == 0x10000) = true ∧
    okXlat ((walked 0x40007).xlat 0 0x300 .write 0 3 0) (fun k _ _ => k == physKey ((walked 0).ctxDies 0) 0x40300) = true ∧
    heldAs ((walked 0x40003).xlat 0 0x300 .write 0 3 0) true = true ∧ faultOf ((walked 0).walk 0 0x300) = 0x40 ∧
    heldAs ((walked 0).xlat 0 0x300 .read 0 3 0) true = true ∧
    faultOf (((walked 0x40007).onCtx 0 fun x => { x with ptroot := 1 }).walk 0 0x300) = 0x44 ∧
    faultOf (((walked 0x40007).onCtx 0 fun x => { x with ptroot := 3 }).walk 0 0x300) = 0x45 ∧
    heldAs ((holding (walked 0) 0 [1]).xlat 0 0x300 .read 0 3 0) false = true ∧
    fatalAs ((walked 0x40017).xlat 0 0x300 .read 0 3 0) = true ∧
    fatalAs (((walked 0).onCtx 0 fun x => { x with state := 4 }).xlat 0 0x300 .read 0 3 0) = true ∧
    ((run 0 []).ctx 0).tlb.any (fun e => e.serves 0x300 .read) = true ∧
    ((logging.ctx 0).under.find? fun u => u.page == 0).isSome = true := by decide +kernel

/-- R126: a load and a store of a page that has no translation: held, logged, without room in the log, and in a view without a free
cell. -/
theorem witness_faulting_accesses :
    Ready (walked 0) (dataTouch 63 4 ++ pair 2) ∧ ((walked 0).vd 2).toNat = 0x300 ∧
    heldAs ((walked 0).xlatThread 0x300 .write) true = true ∧ ((walked 0).xlatThread 0x300 .write).2.logRoom 0 [0x300] = true ∧
    heldAs ((holding (walked 0) 0 [1]).xlatThread 0x300 .write) false = true ∧ fatalAs ((walked 0x40017).xlatThread 0x300 .read) = true ∧
    ((walked 0).onCore 0 fun k => { k with log := (span 0 256).map fun n => ⟨0, 0, 0x400, .cinc 1, 0, 0, false, none, n, none, []⟩ }).logRoom 0
      [0x300] = false ∧
    after (exec (.st 63 2 0) (walked 0)) (fun t => (t.core 0).log.length == 1) = true ∧
    (((walked 0).onTeam 0 fun x => { x with view := 1 }).poolCells 0) ≤ (((walked 0).onTeam 0 fun x => { x with view := 1 }).usedCells 0) := by
  decide +kernel

/-- Two threads in two groups of a team, and one thread alone. -/
def twoGroups : State :=
  { run 0 [] with threads := [(0, { Thread.start with limit := 64 }), (16, { Thread.start with limit := 64 })],
                  groups := [(0, ⟨0, 64, none, [], none, [0]⟩), (1, ⟨0, 64, none, [], none, [1]⟩)] }

/-- Team 0 with a successor block at 0x200, whose counter has n to go. -/
def preceding (n : Nat) : State :=
  (holding (run 0 []) 0x200 (natLe 8 n)).onTeam 0 fun x => { x with record := { x.record with succ := 0x200 } }

/-- R34, R68, R69, R296: the last thread of a group, and of a team; a successor counter that goes on, that comes to zero, and that
has come past it. -/
theorem witness_ends :
    (∀ j ∈ twoGroups.liveOfGroup (twoGroups.groupOf 0), j = twoGroups.iss.cur) ∧ (16 ∈ twoGroups.liveOf 0 ∧ (16 : Nat) ≠ twoGroups.iss.cur) ∧
    twoGroups.thr.live = true ∧ (∀ j ∈ (run 0 []).liveOf 0, j = (run 0 []).iss.cur) ∧ ((run 0 []).team 0).world = none ∧
    ((run 0 []).team 0).dirty = [] ∧ ((run 0 []).team 0).record.succ = 0 ∧ (∀ m ∈ ((run 0 []).core 0).mms, m.group ≠ 0) ∧
    ([0, 1, 2] : List Nat).all (fun n => okXlat ((preceding n).xlat 0 0x200 .write 0 0 0) fun k _ s1 =>
      (s1.newRequest.memTurn 0 k 8).any fun s2 =>
        leNat (s2.pageRead 0 false k 8) == n) = true ∧
    ((preceding 0).team 0).killed = false ∧ ((preceding 0).team 0).view = 0 := by decide +kernel

/-- A world of two rivals that have chosen rival v, with a byte that the winner has written; the forked team ran in view n. -/
def deciding (v : W32) (a : Bool) : State :=
  (((rivalling true []).onCtx 0 fun x => { x with
      views := [(1, { View.free with state := .live, depth := 1, bytes := [(64, 5)] }), (2, { View.free with state := .live, depth := 1 })],
      worlds := [(5, ⟨[⟨0, 1, some 1, false, false, some 0⟩, ⟨9, 2, some 1, false, a, some v⟩], true, 0, none⟩)] }).setTeam 9
    { placedTeam with view := 2, rival := 1, world := some 5 })

/-- The same before the join has resumed, where both are parked. -/
def joining (parked : Bool) : State :=
  (deciding 0 false).onCtx 0 fun x => { x with
    worlds := [(5, ⟨[⟨0, 1, some 1, true, false, none⟩, ⟨9, 2, some 1, parked, false, none⟩], false, 0, none⟩)] }

/-- R122, R159, R160, R162 to R164: the two rivals agree, disagree, and wait; a world that ends with the last to abstain. -/
theorem witness_decided_worlds :
    ((deciding 0 false).world 0 5).any (fun x => x.resumed && x.rivals.all fun r => !r.abstained && r.chosen == some 0 &&
      (deciding 0 false).onCores r.team) = true ∧ (deciding 0 false).commitHeld 0 1 = false ∧
    ((deciding 0 false).tryChoose 0 5).mem.read 64 = 5 ∧ (((deciding 0 false).tryChoose 0 5).view 0 2).state = .dead ∧
    (((deciding 0 false).tryChoose 0 5).view 0 1).state = .merged ∧ (((deciding 0 false).tryChoose 0 5).team 0).view = 0 ∧
    ((deciding 1 false).tryChoose 0 5).mem.read 64 = 0 ∧
    ((((joining true).tryJoin 0 5).world 0 5).any fun x => x.resumed) = true ∧ ((joining false).tryJoin 0 5).world 0 5 = (joining false).world 0 5 ∧
    ((State.abstain 1 (deciding 0 true) 0 5 0).world 0 5) = none ∧ ((State.abstain 1 (deciding 0 true) 0 5 0).view 0 1).state = .dead := by
  decide +kernel

def forking : State := { poolled [] with serial := 1 }

/-- R146 to R149: what a fork of three rivals leaves. -/
theorem witness_forked :
    (0 : Nat) < forking.serial ∧ forking.globalJobs 0 = [] ∧ (forking.view 0 0).depth < 3 ∧ 3 ≤ (forking.freeViews 0).length ∧
    (forking.liveOf 0).all (fun i => (forking.thread i).pending.isEmpty) = true ∧ (forking.rivalOf 0).isNone = true ∧
    okFired (forking.forkExec 0 3 2) (fun u => (u.team 3).rival == 2 && (u.team 0).view == 1 && (u.view 0 3).nriv == 2 &&
      (u.core 0).jobs.length == 2) = true := by decide +kernel

/-- The slot with its receive, with a send that awaits its answer or not, and with a residual object or not. -/
def ending (retained : Bool) (objs : List HeldObj) : State :=
  ((receiving false).onFab 0 fun f => { f with retained := if retained then [⟨4, 0, none, 0, .fp32, 0, 0, [], none⟩] else [] }).onFSlot 0 0
    fun x => { x with comp := 0x400, objs := objs }

/-- R224, R253, R388: an end that waits for an answer; one that writes its record and DONE, and frees its slot. -/
theorem witness_completion :
    (((ending true []).beginEnd 0 0 0).fslot 0 0).any (fun y => y.wait == .send && y.recvs.isEmpty && y.ending == some 0) = true ∧
    ((ending false []).beginEnd 0 0 0).fslot 0 0 = none ∧ ((ending true []).beginEnd 0 0 4).fslot 0 0 = none ∧
    okRes ((ending false []).devPage 0 0x400 256 .write 4 0 false) (fun e t => leNat (t.pageRead 0 e.2.prot e.1 4) == 0 &&
      leNat (((ending true []).beginEnd 0 0 4).pageRead 0 e.2.prot e.1 6) == 1 + 4 * 2 ^ 32) = true ∧
    okFx ((ending false []).fabSpan 0 0 ((ending false []).residVa 0 0) 16 16 .write) (fun _ _ => true) = true := by decide +kernel

/-- R80: a pushed team on its way, whose arrival is the next turn. -/
theorem witness_pushed_team :
    ({ Team.queued with transit := true } : Team).transit = true ∧ ({ lined with turns := [.arrival 3] } : State).turns = .arrival 3 :: [] := by
  decide

/-- R363, R435: a register and a count that the words of `clz` and `popc` name. -/
theorem test_clz : leaves (run 0x1E802101 [(2, 0x00010000)]) 1 15 = true := by decide

/-- A session that has taken in two enqueues, answered the first, and holds the fourth, which has come before the third. -/
def orderly : Session := { keyed with enqDue := 2, enqSeen := [(0, 1)], early := [(3, ⟨[], [], 0, false, true, false, 3⟩)] }

/-- R243, R244, R247: an enqueue that comes again, one that is early and one that is due; a key that is spent; a budget that is spent. -/
theorem witness_ordered_enqueues :
    orderly.enqSeen.find? 0 = some 1 ∧ orderly.enqSeen.find? 1 = none ∧ orderly.enqDue < 3 ∧ (orderly.early.find? 3).isSome = true ∧
    orderly.early.find? orderly.enqDue = none ∧ ({ orderly with enqDue := 3 } : Session).early.find? 3 = orderly.early.find? 3 ∧
    networked.keySpent spentKey = true ∧ networked.sessDead 3 7 = false ∧
    (networked.onCtx 0 fun x => { x with shares := [0, 0, 0, 1], budgetFabric := 1, spent := [(3 * 4096 + 24, 1)] }).hasBudget 0 3 24 = false ∧
    (networked.session 3 7).outs.find? (fun q => q.sent && q.serial == 1) = none ∧
    (enqueued.session 3 7).unacked.find? (fun e => e.1 == 1) = none := by decide +kernel



/-! ### Witnesses: a full side log, what a trap takes back, and what drains -/

/-- A store of thread 0 to page 1, which is under fault, waits, and the side log of its core has no room. -/
def stuck (s : State) : State :=
  ((s.onThread 0 fun t => { t with wc := [⟨0x1000, 0x1000, [1], false, none⟩] }).onCtx 0 fun x =>
    { x with under := [⟨1, 0x1000, 0, 0, 0, 0, true⟩] }).onCore 0 fun k =>
      { k with log := (span 0 256).map fun n => ⟨0, 0, 0x1400, .cinc 1, 0, 0, false, none, n, none, []⟩ }

/-- R128, R137: strongly ordered accesses, starts and jobs of a thread whose waiting stores have room in the log, and of one whose
have none. -/
theorem witness_full_log :
    okXlat ((stuck (onPage 3 false [(2, 0xFF8)])).xlatThread 0xFF8 .read) (fun _ l t =>
      l.type == 3 && t.curView == 0 && !t.drainReady t.iss.cur) = true ∧
    okXlat ((stuck (onPage 3 false [(2, 0xFF8)])).xlatThread 0xFF8 .write) (fun k l t =>
      l.type == 3 && !t.queuesStore l && t.cellReady t.curCtx t.curView k && !t.drainReady t.iss.cur) = true ∧
    okXlat ((onPage 3 false [(2, 0xFF8)]).xlatThread 0xFF8 .write) (fun k l t =>
      l.type == 3 && t.drainReady t.iss.cur && (t.hbm k 8).isSome) = true ∧
    (stuck (starting 0 64)).drainReady 0 = false ∧ (starting 0 64).drainReady 0 = true ∧
    Ready (stuck (starting 0 64)) (pair 4 ++ pair 20 ++ pair 28) ∧ (stuck copyTeam).drainReady 0 = false ∧ copyTeam.drainReady 0 = true ∧
    jobStarts (stuck copyTeam) 0 0 (some 0xFF0) = true ∧ (stuck (run 0 [])).readyStores 0 = [] ∧ storing.readyStores 0 ≠ [] ∧
    (((stuck (run 0 [])).onCore 0 fun k => { k with log := [] }).readyStores 0).length = 1 := by decide +kernel

/-- Thread 0 in view 1 with a store that faults, and an entry of another lane of its bundle for the line at 0x300 or not. -/
def logged (shared : Bool) : State :=
  (((walked 0).onTeam 0 fun x => { x with view := 1 }).onCtx 0 fun x => { x with vpbase := 0x100000, vpsize := 64 }).onCore 0 fun k =>
    { k with log := if shared then [⟨0, 1, 0x33C, .cinc 1, 0, 0, true, none, 0, some (0, (walked 0).iss.word), []⟩] else [] }

/-- R128, R154, R166: a logged store of a view holds a cell for its line, and shares that of another lane. -/
theorem witness_shared_entry :
    heldAs ((logged false).xlatThread 0x300 .write) true = true ∧ (logged false).logRoom 1 [0x300] = true ∧
    (logged false).usedCells 0 < (logged false).poolCells 0 ∧ (logged false).iss.bundleId = 0 ∧
    after (exec (.st 63 2 0) (logged false)) (fun t => (t.view 0 1).reserved == 1 && (t.core 0).log.length == 1) = true ∧
    after (exec (.st 63 2 0) (logged true)) (fun t => (t.view 0 1).reserved == 0 && (t.core 0).log.length == 2 &&
      logEntries (t.core 0).log == 1) = true := by decide +kernel

/-- R128: the accesses of one word in two bundles do not share an entry. -/
theorem test_log_entries_of_two_bundles :
    logEntries ([1, 2].map fun n => ⟨0, 0, 0x33C, .cinc 1, 0, 0, false, none, n, some (n, 0x100), []⟩) = 2 := by decide

/-- R47, R444: a trap takes back an enqueue of the thread that has not left, and a thread whose enqueue has left stands behind it. -/
theorem witness_taken_back :
    let out : RemoteOut := ⟨0, 0, 0, none, ⟨[], [], 0, false, false, false, 0⟩, false, some 0⟩
    let s := ((run 0 []).setSession 0 7 { Session.reset with outs := [out, { out with sent := true }] }).onThread 0 fun t => { t with left := true }
    ((s.raiseAt 0 5 0 0).session 0 7).outs.map (fun o => o.sent) = [true] ∧ (s.thread 0).left = true ∧ (s.thread 0).chained = false ∧
    ((s.raiseAt 0 5 0 0).thread 0).tepc = 4 ∧ (s.sessions.find? 7).isSome = true := by decide +kernel

/-- R116, R137: an action on a page of each type, with a store of the thread that waits. -/
theorem witness_own_stores :
    let s (type : Nat) : State := (onPage type false []).onThread 0 fun t => { t with wc := [⟨0x300, 0x300, [9], false, none⟩] }
    (∀ type ∈ [0, 1, 2, 3], okRes ((s type).devPage 0 0x300 4 .read 0 0 false) (fun e _ => e.2.type == type) = true) ∧
    okRes ((s 1).whoLoad (s 1).who 0x300 4) (fun bs t => bs == [9, 0, 0, 0] && t.mem.isEmpty) = true ∧
    okRes ((s 3).whoLoad (s 3).who 0x300 4) (fun bs t => bs == [9, 0, 0, 0] && t.mem.length == 1) = true ∧
    okRes ((stuck (onPage 3 false [])).devPage 0 0x300 4 .read 0 0 false) (fun _ t => !t.drainReady 0) = true := by decide +kernel

/-- R275, R444: the traps of an enqueue's pages, of which a payload that crosses a boundary has two; R379: those of `fread`. -/
theorem witness_page_traps :
    let pages : List (W64 × Want) := (0x380, .read) :: State.payloadPages 0x300 64 ++ [(0x200, .write)]
    okRes ((starting 2 64).checkPages pages) (fun _ _ => true) = true ∧ (pages.findSome? fun p => (starting 2 64).pageTrap p.1 p.2) = none ∧
    State.payloadPages 0xFF0 64 = [(0xFF0, .read), (0x1000, .read)] ∧ (onPage 2 false []).pageTrap 0x300 .write = some (0x14, 0x300) ∧
    objects.pageTrap 0x200 .write = none ∧ objects.pageTrap 0x280 .write = none ∧
    okRes ((starting 2 64).checkAck (starting 2 64).who (some 0x200)) (fun _ s1 => s1.drainReady 0 &&
      okRes ((s1.drainWc 0).devLoad 0 0x380 64 0 0 true) fun _ s2 => okRes (s2.devSpan 0 0x300 64 0 0 true) fun _ _ => true) = true ∧
    okRes ((stuck (starting 2 64)).checkAck (starting 2 64).who (some 0x200)) (fun _ s1 => !s1.drainReady 0) = true := by decide +kernel

/-- R91, R155, R158: budget for the cell of an entry that is queued, and of one that runs. -/
theorem witness_cells :
    (queueing.memTurn 0 (physKey (queueing.ctxDies 0) (queueing.nextCell 0)) 128).isSome = true ∧
    (walking.memTurn 0 (physKey (walking.ctxDies 0) (walking.nextCell 0 - 128)) 128).any (fun s1 =>
      okRes (s1.runOp (walking.winner 0 ⟨1, 0, 0, false⟩) (.cinc 0x300 5)) fun _ _ => true) = true := by decide +kernel

/-- R248, R407: an open receive without quorum, from a station of no session. -/
theorem witness_wait_without_quorum :
    let s := (receiving false).onFSlot 0 0 fun x => { x with quorum := false }
    okRes (s.devLoad 0 0 4 4 0 false) (fun _ _ => true) = true ∧
    okFx (s.peersFailed 0 0 [0]) (fun bad t => !bad && t.iss == s.iss) = true := by decide +kernel

/-- R71, R72: a doorbell that moves TAIL back. -/
theorem witness_doorbell_back :
    ((103 : W32) - 100).toNat < ((105 : W32) - 100).toNat ∧
    after (exec (.wqDoorbell 2 9 103) (queue9 true false)) (fun t => (t.wq 9).err && (t.wq 9).tail == 105) = true := by decide

/-- R286: the courses of a team that is held at its arguments or awaits its image, and one that is to drain once it starts. -/
theorem witness_courses_before_the_start :
    let s (p : Phase) (n : Nat) : State := (estimated n false).onTeam 0 fun x => { x with phase := p }
    (((s .argsHeld 1000).preempt 0).team 0).drain = true ∧ (((s .argsHeld 5000).preempt 0).team 0).argsDue = true ∧
    (((s .copying 1000).preempt 0).team 0).drainUntil = (estimated 1000 false).cycle + 1250 ∧
    (((s .copying 5000).preempt 0).team 0).phase = .saving ∧
    after (exec (.cloneStart 0) ((s .copying 1000).preempt 0)) (fun t => (t.team 0).phase == .draining && !(t.team 0).drain) = true ∧
    (((s .argsHeld 1000).loadArgs 0).team 0).phase = .placed := by decide +kernel

/-- R69, R371: an end that a page of the successor block holds has given its stack slot back. -/
theorem test_end_frees_the_slot :
    let s := ((preceding 1).onTeam 0 fun x => { x with slot := some 3, phase := .ending }).onCtx 0 fun x =>
      { x with under := [⟨0, 0x200, 0, 0, 0, 0, true⟩] }
    ((s.finishEnd 0).team 0).phase = .ending ∧ ((s.finishEnd 0).team 0).slot = none := by decide +kernel

/-- R21, R140: the bytes that the host writes are read where their addresses stand. -/
theorem test_host_write : after (exec (.hostMemoryAccess 0 0xFFF (.write [7, 8])) own) (fun t =>
    t.mem.read (physKey (own.diesOf 0) 0xFFF) == 7 && t.mem.read (physKey (own.diesOf 0) 0x1000) == 8) = true := by decide +kernel

/-- R267, R382: a fold that is due at an address outside the global window, and one that is not. -/
theorem witness_bad_folds :
    let s (a : W64) : State := (runFx 0x2007000000000000 []).onFab 0 fun f => { f with retained := [⟨4, 0, none, a, .fp32, 0, 0, [], some false⟩] }
    (s (2 ^ 58)).foldsDue 0 0 = true ∧ ((s (2 ^ 58)).foldSlot 0 0).foldsBad 0 0 = true ∧ ((s 0x200).foldSlot 0 0).foldsBad 0 0 = false ∧
    (s 0x200).foldsDue 0 0 = true := by decide +kernel

/-- R40, R107: a thread that its team's compaction makes wait, and one that waits already. -/
theorem witness_pause :
    (0 : Nat) ∈ (run 0 []).liveOf 0 ∧ ((run 0 []).thread 0).wait = .ready ∧ ((run 0 []).thread 0).arrival = none ∧
    (((run 0 []).pauseTeam 0).thread 0).wait = .compaction ∧ ((((run 0 []).pauseTeam 0).pass_ 1).thread 0).wait = .ready ∧
    ((overdue.pauseTeam 0).thread 0).wait = .marker := by decide +kernel

/-- R289: a saved winner that went on as the forked team, and a clone that has not started. -/
theorem witness_saved_clone :
    let s (img : Option TeamImage) : State := (lined.onTeam 6 fun x => { x with image := img })
    ((s (some ⟨0, 1, 0⟩)).pushOrder 0 0).contains 6 = true ∧ ((s none).pushOrder 0 0).contains 6 = false := by decide +kernel

/-- R361, R285: a counter that a logged `cinc` wraps reports the sequence number of the team that issued it, which has ended. -/
theorem test_replayed_wrap_keeps_its_tag :
    let s := (holding (run 0 []) 0x300 (natLe 8 (2 ^ 64 - 1))).onCtx 0 fun x => { x with errq := 0x100007 }
    let t := s.replayOp 0 ⟨0, 0, 0x300, .cinc 1, 77, 0x1234, false, none, 0, none, []⟩ (physKey (s.ctxDies 0) 0x300) placedPage
    leNat (t.ctxRead 0 (0x100000 + 16) 4) = 0x1234 := by decide +kernel

/-! ### Witnesses: requests, matrix instructions, sends, starts, firings, sessions and jobs -/

/-- A core that awaits 256 values, all of one register. -/
def requesting : State :=
  ((onPage 0 false [(2, 0xFF8)]).onThread 0 fun t => { t with pending := [⟨[(9, 1)], []⟩] }).onCore 0 fun k =>
    { k with requests := List.replicate 256 (0, 9) }

/-- R17: room for a request, and none. -/
theorem witness_requests : RequestRoom idle ∧ ¬RequestRoom requesting ∧ Ready requesting (dataTouch 62 8 ++ pair 2) := by decide +kernel

/-- A page of context 0 is under fault. -/
def faultAt (s : State) (page : Nat) : State := s.onCtx 0 fun x => { x with under := [⟨page, 4096 * page, 0x40, 4, 0, 1, true⟩] }

/-- The shares of one kind of budget of context 0 are spent at a point. -/
def broke (s : State) (kind point : Nat) : State :=
  s.onCtx 0 fun x => { x with shares := (List.replicate 4 0xFFFFFFFF).set kind 1, spent := [(kind * 4096 + point, 1)] }

/-- An interval of another engine over the scratchpad from 0x80. -/
def engaged (s : State) : State := s.onCore 0 fun k => { k with ivals := [⟨.sp 0, 0x80, 0x100, .w, 5, 0⟩] }

/-- A whole group at a matrix instruction, with the D offset and the handle of lane 0, and bytes of its scratchpad from 0x80. -/
def atMatrix (op : Instr) (dof : W32) (h : Nat) (desc : List Byte) : State :=
  ((wholeGroup op).onThread 0 fun t => { t with
    regs := ((t.regs.set 8 dof).set 2 (BitVec.ofNat 32 h)).set 3 (BitVec.ofNat 32 (h / 2 ^ 32)) }).spPut 0 0x80 desc

/-- What the checks of the whole group come to: 0 where they pass, 1 where the group waits for the scoreboard, or the cause of the trap. -/
def matrixCheck (s : State) (op : Instr) (outlier : Bool) : Nat :=
  let u := standing s op
  match u.mmaChecks 0 outlier (u.mmaDof 0 8) (u.mmaHandle 0 2) with
  | .pass .. => 0
  | .stall => 1
  | .trap cause _ => cause.toNat

/-- A group at an `mma`, and at an `mmo` whose list stands at 16 n. -/
def atMma (dof : W32) (h : Nat) (desc : List Byte) : State := atMatrix (.mma 8 16 2 true) dof h desc
def atMmo (n : Nat) (list : List Byte) : State := atMatrix (.mmo 8 16 2 true) 0 (0x30 + n * 2 ^ 32) list

/-- A handle that fetches by the descriptor at 128 n, and the descriptor of a copy into reservation 0. -/
def fetching (n : Nat) : Nat := 0x230 + n * 2 ^ 49
def fetchDesc : List Byte := descBytes 0xA0 0 0 [32] [] [32]

/-- R211, R213, R216, R422: the checks of `mma` and `mmo`, each failing where the ones before it pass. -/
theorem witness_matrix_checks :
    [atMma 0 0x30 [], atMma 0 (fetching 1) fetchDesc, engaged (atMma 0 (fetching 1) fetchDesc), (atMma 0 (fetching 1) fetchDesc).spPut 0 0x87 [5],
     atMma 1 0x30 [], atMma 512 0x30 [], atMma 0 (fetching 32) [], atMma 0 0x31 [], atMma 0 (fetching 1) (descBytes 0x200A0 0 0 [32] [] [32]),
     atMma 0 (fetching 1) (descBytes 0x20 0 0 [32] [] [32]), atMma 0 0 []].map (fun s => matrixCheck s (.mma 8 16 2 true) false) =
      [0, 0, 1, 0x10, 0x11, 0x13, 0x13, 0x18, 0x18, 0x19, 0x1B] ∧
    [atMmo 8 [2], atMmo 256 [], engaged (atMmo 8 [2]), atMmo 8 [0xFF, 0xFF]].map (fun s => matrixCheck s (.mmo 8 16 2 true) true) = [0, 0x13, 1, 0x13] ∧
    Completes (atMma 0 (fetching 1) fetchDesc) (.mma 8 16 2 true) ∧ Completes (atMmo 8 [2]) (.mmo 8 16 2 true) := by decide +kernel

/-- R91, R131, R134, R214: what the acceptance of a fetch waits for, and that of the instruction. -/
theorem witness_matrix_waits :
    let s := standing (atMma 0 (fetching 1) fetchDesc) (.mma 8 16 2 true)
    let js (s : State) := (fetchJobsAt s 0 (fetching 1) (s.resvOn 0 0 0)).map (·.2)
    let out (s : State) : Nat := match s.mmaExec 0 false true 8 16 2 with
      | .done _ => 0 | .wait .scoreboard _ => 1 | .wait .sideLog _ => 2 | .wait .budget _ => 3 | _ => 4
    (js s).length = 1 ∧ out s = 0 ∧ out (s.onCore 0 fun k => { k with jobs := List.replicate 32 ((js s).headD (jobOfDesc s 0 0 0 0 0 none)) }) = 1 ∧
    out (stuck s) = 2 ∧ out (broke s 2 0) = 3 ∧
    out (s.onCore 0 fun k => { k with mms := List.replicate 4 ⟨9, 1, 16, false, 0, 0, 3, 0, 0, 0, 0, [], false, false⟩ }) = 1 := by decide +kernel

/-- What a slot's packet to a station comes to: 0 where it goes on, the status of an end, or 20 and 21 for a wait for memory or the budget. -/
def sent (s : State) : Nat :=
  match (s.fslot 0 0).map fun x => s.sendFrom 0 0 x (x.packet 0 []) none with
  | some (.ok ..) => 0 | some (.stop st _) => st | some (.wait .memory _) => 20 | some (.wait .budget _) => 21 | _ => 99

/-- A slot whose first waypoint is a station; station 0 stands for a session, station 1 for the module itself. -/
def toStation (n : Nat) (y : Session) : State :=
  ((holding (sending 1 [(3, 64)]) 0 stations).onFSlot 0 0 fun x => { x with wps := [(0, BitVec.ofNat 32 (n + 2 ^ 16))] }).setSession 0 7 y

/-- R233, R234, R244, R247, R248: a send over a session with a key, and of the module; without a station, with a reserved bit, by a page under fault,
outside the global window, over a session that cannot send, before there is a key, after the key is spent, without a budget. -/
theorem witness_sends :
    [toStation 0 keyed, toStation 1 keyed, toStation 2 keyed, toStation 3 keyed, faultAt (toStation 0 keyed) 0,
     (toStation 0 keyed).onCtx 0 fun x => { x with station := 0xFFFFFFFFFFFFF000 }, toStation 0 { keyed with failed := true }, toStation 0 .reset,
     toStation 0 { keyed with key := none }, toStation 0 { keyed with key := some spentKey },
     toStation 0 { keyed with key := some spentKey, next := some spentKey }, broke (toStation 0 keyed) 3 0,
     (toStation 0 keyed).onCtx 0 fun x => { x with ptroot := 0 }].map sent = [0, 0, 6, 6, 20, 8, 6, 6, 0, 6, 0, 21, 5] ∧
    (toStation 0 keyed).upPorts 0 7 = [0, 1, 2, 3] := by decide +kernel

/-- R225, R404: `fx.sig` on a counter, on a page that is not normal, on one under fault, past 2^64 − 1, and without a budget. -/
theorem witness_signals :
    let s (type n : Nat) : State := (holding (runFx 0 [(1, 0x300), (2, 5)]) 0x300 (natLe 8 n)).onCtx 0 fun x => { x with
      tlb := x.tlb.map (fun e => { e with type := type }), trigs := [(0, ⟨0x300, 0x300, 20, 0, 0, 0, 0, 1⟩)] }
    GlobalAt 0x300 8 ∧ ¬GlobalAt 0x304 8 ∧
    okXlat ((s 0 0).xlat 0 0x300 .write 4 0 0) (fun k l t => l.type == 0 && (t.memTurn 0 k 8).isSome) = true ∧
    okXlat ((s 2 0).xlat 0 0x300 .write 4 0 0) (fun _ l _ => l.type == 2) = true ∧
    heldAs ((faultAt (s 0 0) 0).xlat 0 0x300 .write 4 0 0) true = true ∧
    okXlat ((broke (s 0 0) 1 0).xlat 0 0x300 .write 4 0 0) (fun k _ t => (t.memTurn 0 k 8).isNone) = true ∧
    ((s 0 18).satisfied 0 0x300 18 23).map (·.1) = [0] ∧ 2 ^ 64 ≤ 2 ^ 64 - 1 + 5 := by decide +kernel

/-- What trying the first queued start of processor 1 comes to: 0 used up without a slot, 1 given one, 2 and 3 held, with and without a deferral,
4 without room. -/
def tried (s : State) : Nat :=
  match s.tryStart 1 ((s.fab 1).queue.headD ⟨0, 0, 0, 0, 0, 0, false, false, false, 0, 0⟩) with
  | .used t => if (t.fab 1).slots.length = (s.fab 1).slots.length then 0 else 1
  | .held true _ => 2
  | .held false _ => 3
  | .later _ => 4

/-- The same start with another record; and with images and slots of its processor. -/
def recordAt (a : W64) : State := startable.onFab 1 fun f => { f with queue := f.queue.map fun r => { r with comp := a } }
def imaged (ms : Tab Image) (slots : Tab FSlot) : State := startable.onFab 1 fun f => { f with images := ms, slots := slots }

/-- R218, R222, R223: a start that takes a slot, with its image resident, or after an idle one has made room; one whose context does not run, is not
served, or has no tables; one whose image header or record meets a fault; whose budget is spent; with a length out of range or a reserved
bit; without a free slot, and without room beside the image of a running slot. -/
theorem witness_starts_of_slots :
    let full : Image := ⟨0, 0x600, 0, 8191, [], 0, true⟩
    [startable, imaged [(3, ⟨0, 0x200, 0, 2, [], 0, true⟩)] [], imaged [(7, full)] [], startable.onCtx 0 fun x => { x with state := 0 },
     startable.onCtx 0 fun x => { x with bal := 0 }, startable.onCtx 0 fun x => { x with ptroot := 0 }, faultAt startable 0,
     faultAt (recordAt 0x1300) 1, broke startable 1 0, holding startable 0x200 (natLe 8 0), holding startable 0x200 (natLe 8 8192),
     holding startable 0x206 [1], imaged [] ((List.range 16).map fun i => (i, .start)),
     imaged [(7, full)] [(0, { FSlot.start with image := 7 })]].map tried = [1, 1, 1, 0, 0, 0, 2, 2, 3, 0, 0, 0, 4, 4] ∧
    (((imaged [(7, full)] []).usedImages 1).length = 0 ∧ State.oldestIdle [] [(7, full)] = some (7, full) ∧
      State.oldestIdle [7] [(7, full)] = none) := by decide +kernel

/-- What trying the first deferred firing comes to: 0 where it is released, or held by a page, a full queue or a budget. -/
def fires (s : State) : Nat :=
  match s.newRequest.fireTo ((s.ctx 0).deferred.headD ⟨0, 0, 0, 0, 0, 0, true, false, false, 0, 0⟩) with
  | .ok .. => 0 | .wait .translation _ => 1 | .wait .startQueue _ => 2 | .wait .budget _ => 3 | _ => 4

/-- The deferred firing with other values. -/
def refired (f : StartReq → StartReq) : State := deferring.onCtx 0 fun x => { x with deferred := x.deferred.map f }

/-- R91, R223, R229: a deferred firing that is released, is bad, names a bad processor or header; one whose argument, image or record meets a fault;
one that finds its queue full, or a budget spent; and one behind a firing that a budget holds, or behind a deferred one. -/
theorem witness_firings :
    [deferring, refired fun r => { r with bad := true }, holding deferring 0x342 [2], holding deferring 0x343 [1], faultAt deferring 0,
     faultAt (refired fun r => { r with img := 0x1300 }) 1, faultAt (refired fun r => { r with comp := 0x1300 }) 1,
     deferring.onFab 1 fun f => { f with queue := List.replicate 256 ⟨0, 0, 0, 0, 0, 0, true, false, false, 0, 0⟩ }, broke deferring 1 0].map fires =
      [0, 0, 0, 0, 1, 1, 1, 2, 3] ∧
    (deferring.onCtx 0 fun x => { x with starts := [⟨0, 0, 0, 0, 0, 0, true, false, true, 0, 0⟩] }).behindSpent
      ⟨0, 0x200, 0x340, 0x300, 0, 0, true, false, false, 0, 3⟩ = true ∧
    deferring.behindDeferred ⟨0, 0x200, 0x340, 0x300, 0, 0, true, false, false, 0, 3⟩ = true ∧
    deferring.behindSpent ⟨0, 0x200, 0x340, 0x300, 0, 0, true, false, false, 0, 0⟩ = false := by decide +kernel

/-- R246: whichever key of two is the lower, and of equal ones none is. -/
theorem witness_first_offer (x : Session) : State.keyLess State.ownKey (State.peerKey x) = true ∨
    State.keyLess State.ownKey (State.peerKey x) = false := by cases State.keyLess State.ownKey (State.peerKey x) <;> simp

/-- R246: keys are compared as unsigned bytes from byte 0. -/
theorem test_key_order : State.keyLess ([1, 0x80] ++ List.replicate 30 0) ([1, 0xFF] ++ List.replicate 30 0) = true ∧
    State.keyLess (List.replicate 32 7) (List.replicate 32 7) = false := by decide

/-- R241, R267: a send of processor 0 whose fold comes between two instructions, and inside one. -/
theorem witness_folds :
    let r : Retained := ⟨4, 0, none, 0x400, .fp32, 0, 0, List.replicate 128 0, none⟩
    let s (n : Nat) : State := (runFx 0 []).onFSlot 0 0 fun x => { x with prog := n }
    ((s 0).fslot 0 r.slot).any (fun z => z.prog == 0) = true ∧ ((s 2).fslot 0 r.slot).any (fun z => z.prog != 0 && z.ending.isNone) = true ∧
    (decodePayload r.code r.scale r.payload).length = 32 ∧
    okFx ((s 0).newRequest.fabSpan 0 0 0x400 128 4 .write) (fun _ _ => true) = true := by decide +kernel

def okMoved {α : Type} (m : Moved α) : Bool := match m with | .ok _ _ => true | _ => false
def heldMoved {α : Type} (m : Moved α) : Bool := match m with | .hold _ => true | _ => false
def stopOf {α : Type} (m : Moved α) : Nat := match m with | .stop c _ _ => c | _ => 0

/-- A gath that core 0 has accepted, the same with its list read, and one that stops at an index out of range. -/
def gathJob : State := nextOf (execGath 2 24 30 false gathTeam)
def gathRead : State := nextOf (execJobSector 0 0 0 gathJob)
def gathOut : State :=
  nextOf (execJobSector 0 0 0 (nextOf (execGath 2 24 30 false (holding (engineTeam (descBytes 0x521 0 0 [32, 8] [32] [8, 2])) 0x300 (natLe 4 9)))))

/-- R199, R202, R203, R409: the index list of a gath, its rows, and an index out of range. -/
theorem witness_gath :
    (gathJob.jobOf 0 0).any (fun j => gathJob.jobReady j && j.idx.length == 0 && okMoved (gathJob.readSector j true 0x300) &&
      heldMoved ((faultAt gathJob 0).readSector j true 0x300) &&
      stopOf ((gathJob.onCtx 0 fun x => { x with ptroot := 0 }).readSector j true 0x300) == 3) = true ∧
    (gathRead.jobOf 0 0).any (fun j => gathRead.jobReady j && j.idx.length == 2 && !j.desc.ooberr && (j.gathRow 0).length == 1 &&
      (gathRead.piecesOf j)[0]?.any fun p => !gathRead.unitBlocked j p && okMoved (gathRead.movePiece j p) &&
        heldMoved ((faultAt gathRead 0).movePiece j p)) = true ∧
    (gathOut.jobOf 0 0).any (fun j => gathOut.jobReady j && j.desc.ooberr && j.desc.boundAt 1 == 8 && j.idx == [9, 0]) = true := by decide +kernel

/-- A fork of three rivals, and a placed clone whose job copies a part of its image. -/
def forkedTeam : State := match forking.forkExec 0 3 2 with | .done t => t | _ => forking
def imaging (part : ClonePart) (phase : Phase) : State :=
  (((forkedTeam.onTeam 2 fun x => { x with phase := phase, slot := some 1, core := 0 }).onTeam 0 fun x =>
    { x with resv := [(0, resvRecord 0x6003 0x008000C0 0 0 0 1)] }).onCore 0 fun k => { k with
      jobs := k.jobs.map fun (j : Job) => if j.serial = 4 then { j with cloneOf := some (2, part) } else j }).onCtx 0 fun x =>
        { x with stack := 0x10000, tlb := x.tlb.map fun e => { e with size := 2 ^ 21 } }

/-- R131, R147, R149: the parts of an image, a clone that is not yet placed, an older interval, and a sector of the stack. -/
theorem witness_images :
    ([ClonePart.scratch, .resv 0, .stack].all fun p => ((imaging p .copying).jobOf 0 4).any fun j =>
      (imaging p .copying).jobReady j && !(imaging p .copying).imageBlocked j) = true ∧
    ((imaging .scratch .placed).jobOf 0 4).any (fun j => !(imaging .scratch .placed).jobReady j) = true ∧
    (let s := (imaging .scratch .copying).onCore 0 fun k => { k with ivals := ⟨.sp 0, 0, 64, .w, 1, 0⟩ :: k.ivals }
     (s.jobOf 0 4).any fun j => s.jobReady j && s.imageBlocked j) = true ∧
    after (execJobSector 0 4 0 (imaging .stack .copying)) (fun t => (t.jobOf 0 4).any fun j => j.idx == [1]) = true ∧
    ([ClonePart.scratch, .resv 0].all fun p => after (execJobSector 0 4 0 (imaging p .copying)) fun t => (t.jobOf 0 4).isNone) = true := by
  decide +kernel

/-- R149: a job counted on a barrier after a `fork` leaves the barrier of the image as the `fork` found it. -/
theorem test_image_keeps_its_barrier :
    let s := ((imaging .scratch .copying).putBarrier 0 0xFF0 ⟨3, 1, 1, 0, false, false, 0⟩).keepBarrier 0 0xFF0
    after (execJobSector 0 4 0 (s.putBarrier 0 0xFF0 ⟨3, 1, 1, 9, true, false, 0⟩)) (fun t =>
      (t.barrier 2 0xFF0).sectors == 0 && (t.barrier 0 0xFF0).sectors == 9) = true := by decide +kernel

/-- R132: the R interval of a job that has made its reads retires, and that of one that has not does not. -/
theorem witness_early_retirement :
    let out (moved : List Nat) : State := (nextOf (execCopy 2 24 30 false (engineTeam (descBytes 0x60 0 0 [32] [] [32])))).onCore 0 fun k =>
      { k with jobs := k.jobs.map fun (j : Job) => { j with moved := moved } }
    (∀ n ∈ [0, 4], ((out (List.range n)).core 0).ivals.map (fun iv => (iv.cls, iv.owner)) = [(.r, 0)]) ∧
    ((out (List.range 4)).core 0).jobs.all (fun j => j.serial == 0 && j.cloneOf.isNone && (out (List.range 4)).readsDone j) = true ∧
    ((out []).core 0).jobs.all (fun j => !(out []).readsDone j) = true := by decide +kernel

/-- R340: of a chain whose first word would trap with another cause, the illegal word is reported. -/
theorem test_chain_reports_the_illegal_word :
    traps (chained [(linkH, .lds 2 4 0), (Header.plain, .rfe)]) 0x401 0 = true := by decide +kernel

/-- R38, R313: a throttled core issues in odd cycles, and not in even ones. -/
theorem test_throttled_issue :
    let s (n : Nat) : State := let u := run 0x1C8861FF [(3, 0)]; { u with cycle := n, hub := { u.hub with temps := [(0, 100)] } }
    (s 1).throttled 0 = true ∧ leaves (s 1) 3 0xFFFFFFFF = true ∧ leaves (s 2) 3 0 = true := by decide +kernel

/-- R193: the value of a code at the largest agreed scale is exact, so that an infinite element leaves an infinity. -/
theorem test_q8_exact : (qValue 254 0x7E).mul (.fin false 1 0) = qValue 254 0x7E ∧ diffRne (valueOf 0x7F800000) (qValue 254 0x7E) = 0x7F800000 := by
  decide +kernel

/-- R97, R99: private accesses that are misaligned or pass the limit, in both forms. -/
theorem witness_private_traps :
    Ready (withStack [(4, 254)]) (regs [63, 4]) ∧ (254 : Nat) % 4 ≠ 0 ∧ (withStack [(4, 256)]).opnd.stklim.toNat < 256 + 4 ∧
    (withStack [(4, 0xFF), (5, 0xFD000000)]).vd 4 + (0 : BitVec 7).signExtend 64 * BitVec.ofNat 64 2 = BitVec.ofNat 64 (0xFD * 2 ^ 56 + 0xFF) ∧
    Ready (withStack [(4, 0xFF), (5, 0xFD000000)]) (dataTouch 62 2 ++ pair 4) ∧ LinesFit (withStack []) [0x40, 0x80] := by decide +kernel

/-- R350 to R353: barrier instructions at an offset that is misaligned, out of bounds, under an interval; a reserved bit; a count and sectors
out of range; and no arrival pending. -/
theorem witness_barrier_traps :
    let s := barred ⟨0, 0, 1, 2 ^ 32 - 1, true, false, 0⟩ [(2, 0xFF0), (3, 1048576), (4, 0), (6, 0xFF1), (7, 0x1000)]
    Ready s (regs [2, 3, 4, 6, 7]) ∧ (s.v 6).toNat % 16 ≠ 0 ∧ s.scratchSize s.curTeam < (s.v 7).toNat + 16 ∧ (s.v 7).toNat % 16 = 0 ∧
    SpanOpen s 0xFF0 16 .w ∧ (s.barrier 0 0xFF0).resvd = 0 ∧ 1048575 < (s.v 3).toNat ∧ (s.v 4).toNat = 0 ∧
    2 ^ 32 ≤ (s.barrier 0 0xFF0).sectors + (s.v 3).toNat ∧ (s.barrier 0 0xFF0).pending = 0 ∧
    ((barred ⟨0, 1, 1, 0, false, false, 1⟩ []).barrier 0 0xFF0).resvd ≠ 0 ∧ (engaged s).spBlocked 0 0x80 16 .r = true := by decide +kernel

end Sys2Proof.Tests
end

section
/-! SUPPORT. Numbers and spans, the addresses of a partition, and the rules of the hub's registers: who may write one, what a whole write
brings, what a read answers and clears. Then the clauses of `OwnershipAndRegisters`, an event each. -/

namespace Sys2Proof.Machine

theorem span_eq_range' (lo n : Nat) : span lo n = List.range' lo n := by
  induction n generalizing lo with
  | zero => rfl
  | succ n ih => rw [span, ih, List.range'_succ]

theorem bitsAt_zero_of_lt {x w : Nat} (h : x < 2 ^ w) : bitsAt x 0 w = x := by
  rw [bitsAt_eq, Nat.pow_zero, Nat.div_one, Nat.mod_eq_of_lt h]

theorem b2n_mul (b : Bool) (n : Nat) : b2n b * n = if b then n else 0 := by cases b <;> simp [b2n]

/-! ## Where the bytes of a partition stand (R21, R22) -/

theorem diesOf_nodup (s : State) (lead : Nat) : (s.diesOf lead).Nodup := by
  rw [State.diesOf, span_eq_range']; exact (List.nodup_range' ..).filter _

/-- A partition's address below the reserved range lies in the 2 ^ 24 pages of a die. -/
theorem dieUnit_lt {dies : List Nat} {pa : Nat} (h : pa < reservedStart dies) : pa / 4096 / dies.length < 2 ^ 24 := by
  refine Nat.div_lt_of_lt_mul (Nat.div_lt_of_lt_mul ?_)
  unfold reservedStart at h; omega

/-- Two addresses of a partition below its reserved range never share a place in memory (R21). -/
theorem physKey_injective {dies : List Nat} {a b : Nat} (hd : dies.Nodup) (ha : a < reservedStart dies) (hb : b < reservedStart dies)
    (h : physKey dies a = physKey dies b) : a = b := by
  have hn : 0 < dies.length := by
    refine Nat.pos_of_ne_zero fun e => ?_
    rw [reservedStart, e, Nat.zero_mul] at ha; omega
  have hqa := dieUnit_lt ha
  have hqb := dieUnit_lt hb
  have hia := Nat.mod_lt (a / 4096) hn
  have hib := Nat.mod_lt (b / 4096) hn
  simp only [physKey, Nat.max_eq_right hn] at h
  have hdie : dies.getD (a / 4096 % dies.length) 0 = dies.getD (b / 4096 % dies.length) 0 := by omega
  have hunit : a / 4096 / dies.length = b / 4096 / dies.length := by omega
  have hindex : a / 4096 % dies.length = b / 4096 % dies.length := (List.getD_inj hia hib hd).mp hdie
  have hpage : a / 4096 = b / 4096 := by
    rw [← Nat.div_add_mod (a / 4096) dies.length, hunit, hindex, Nat.div_add_mod]
  omega

namespace Memory

/-- Writes bytes at the keys of rising addresses. -/
def writesVia (key : Nat → Nat) : Memory → Nat → List Byte → Memory
  | m, _, [] => m
  | m, pa, b :: bs => writesVia key (m.write (key pa) b) (pa + 1) bs

/-- A key that no address is sent to reads as before. -/
theorem read_writesVia_other {key : Nat → Nat} {m : Memory} {pa k : Nat} {bs : List Byte} (h : ∀ j < bs.length, k ≠ key (pa + j)) :
    (writesVia key m pa bs).read k = m.read k := by
  induction bs generalizing m pa with
  | nil => rfl
  | cons b bs ih =>
    have hhead : k ≠ key pa := h 0 (by simp)
    have htail : ∀ j < bs.length, k ≠ key (pa + 1 + j) := fun j hj => by
      have := h (j + 1) (by simpa using hj)
      rwa [show pa + (j + 1) = pa + 1 + j by omega] at this
    rw [writesVia, ih htail, read_write, if_neg hhead]

/-- Where no two of the addresses share a key, each byte is read back at its own. -/
theorem read_writesVia_same {key : Nat → Nat} {m : Memory} {pa j : Nat} {bs : List Byte}
    (hinj : ∀ i j, i < bs.length → j < bs.length → key (pa + i) = key (pa + j) → i = j) (hj : j < bs.length) :
    (writesVia key m pa bs).read (key (pa + j)) = bs.getD j 0 := by
  induction bs generalizing m pa j with
  | nil => simp at hj
  | cons b bs ih =>
    rw [writesVia]
    cases j with
    | zero =>
      have hother : ∀ i < bs.length, key pa ≠ key (pa + 1 + i) := fun i hi e => by
        have := hinj 0 (i + 1) (by simp) (by simpa using hi) (by simpa [show pa + (i + 1) = pa + 1 + i by omega] using e)
        omega
      exact (read_writesVia_other hother).trans ((read_write ..).trans (if_pos rfl))
    | succ j =>
      have hinj' : ∀ i j, i < bs.length → j < bs.length → key (pa + 1 + i) = key (pa + 1 + j) → i = j := fun i j hi hj e => by
        have := hinj (i + 1) (j + 1) (by simpa using hi) (by simpa using hj)
          (by simpa only [Nat.add_assoc, Nat.add_comm 1] using e)
        omega
      rw [show pa + (j + 1) = pa + 1 + j by omega, ih hinj' (by simpa using hj), List.getD_cons_succ]

end Memory

/-! ## The parts of a write (R484) -/

/-- A write of all 64 bits leaves nothing of the old value. -/
theorem onto_allBits (v old : Nat) : (⟨v, mask 0 63⟩ : Put).onto old = v := by
  simp [Put.onto, mask]

/-- A whole write of 64 bits names them all. -/
theorem whole_word (v : W64) : Put.whole 64 v.toNat = ⟨v.toNat, mask 0 63⟩ := by
  simp [Put.whole, mask, Nat.mod_eq_of_lt v.isLt]

/-- A number that is a multiple of 64 has no bit in the lowest six. -/
theorem and_lowSix {v : Nat} (h : v % 64 = 0) : v &&& mask 0 5 = 0 := by
  rw [show mask 0 5 = 2 ^ 6 - 1 by rfl, Nat.and_two_pow_sub_one_eq_mod, h]

theorem regAt_own : regAt 0x100008 = .own := by decide

theorem regAt_above_own : regAt 0x10000C = .none := by decide

theorem regAt_wqBase {q : Nat} (h : q < 8192) : regAt (0x200000 + 32 * q) = .wqBase q := by
  simp only [regAt, wqRegAt]
  rw [if_neg (by omega), if_pos (by omega), show (0x200000 + 32 * q) % 32 / 4 = 0 by omega,
    show (0x200000 + 32 * q - 0x200000) / 32 = q by omega]
  rfl

/-- The bytes of HUB_CTXSTAT. -/
theorem regAt_ctxstat {c o : Nat} (h : c < 1024) (hlo : 0x4000C8 + 256 * c ≤ o) (hhi : o < 0x4000D0 + 256 * c) :
    regAt o = .ctxstat c := by
  have hc : (o - 0x400000) / 256 = c := by omega
  have hat : 0xC8 ≤ o % 256 ∧ o % 256 < 0xD0 := by omega
  simp only [regAt, ctxRegAt]
  rw [if_neg (by omega), if_neg (by omega), if_pos (by omega), hc, if_neg (by omega), if_neg (by omega), if_neg (by omega),
    if_neg (by omega), if_pos hat]

namespace State

/-- HUB_OWN is a 32-bit register (R74). -/
theorem ownWord_lt (h : Hub) : ownWord h < 2 ^ 32 := by
  have := h.owner.isLt
  have := h.denied.isLt
  simp only [ownWord, b2n_mul]
  split <;> omega

/-- HUB_CTXSTAT has no field above bit 31 (R303). -/
theorem ctxStat_lt (x : Ctx) : ctxStat x < 2 ^ 32 := by
  have := x.state.isLt
  have := x.cause.isLt
  have := x.errdrop.isLt
  have := x.kslot.isLt
  simp only [ctxStat]
  omega

/-! ## Who may write (R74, R310) -/

/-- The owner's write takes effect. -/
theorem gated_owner {s : State} {agent : Nat} {always : Bool} (hp : s.powered = true) (hr : (s.hub.ready || always) = true)
    (ho : s.isOwner agent = true) (f : State → State) : s.gated agent always f = f s := by
  simp [gated, hp, hr, ho]

/-- Any other agent's write is denied. -/
theorem gated_stranger {s : State} {agent : Nat} {always : Bool} (hp : s.powered = true) (hr : (s.hub.ready || always) = true)
    (ho : s.isOwner agent = false) (f : State → State) : s.gated agent always f = s.deny := by
  simp [gated, hp, hr, ho]

/-- An aligned write of 8 bytes at a wide register is a write of all its bits. -/
theorem writeBy_wide {s : State} {agent off v : Nat} (ha : off % 8 = 0) (hw : (regAt off).wide = true) :
    s.writeBy agent off 8 v = s.writePart agent (regAt off, ⟨v, mask 0 63⟩) := by
  have ho : off / 4 * 4 = off := by omega
  have hok : accessOk off 8 = true := by simp [accessOk, ha]
  have hparts : parts off 8 v = [(regAt off, ⟨v, mask 0 63⟩)] := by simp [parts, ho, hw]
  simp [writeBy, hok, hparts]

theorem exec_registerWrite (s : State) (agent off size : Nat) (value : W64) :
    exec (.registerWrite agent off size value) s = .next (s.writeBy agent off size value.toNat) := rfl

/-- Every register but a claim window is governed by ownership. -/
theorem writePart_gated {s : State} {agent : Nat} {r : HubReg} {p : Put} (hr : ∀ a o, r ≠ .claim a o) :
    s.writePart agent (r, p) = s.gated agent r.always fun s => s.writeReg r p := by
  cases r with
  | claim a o => exact absurd rfl (hr a o)
  | _ => rfl

/-- The owner's misaligned write is an error (R6, R484). -/
theorem writeBy_misaligned {s : State} {agent off size : Nat} (v : Nat) (hown : Owned s agent) (h : off % size ≠ 0) :
    s.writeBy agent off size v = s.regError := by
  obtain ⟨hp, hr, ho⟩ := hown
  have hok : accessOk off size = false := by simp [accessOk, h]
  rw [writeBy, hok, if_pos (by rfl), gated_owner hp (by simp [hr]) ho]

/-- Another agent's write of a wide register that is no claim window is denied once (R74). -/
theorem writeBy_stranger {s : State} {agent off : Nat} (v : Nat) (hp : s.powered = true) (hr : s.hub.ready = true)
    (ho : s.isOwner agent = false) (hreg : ∀ a o, regAt off ≠ .claim a o) (ha : off % 8 = 0) (hw : (regAt off).wide = true) :
    s.writeBy agent off 8 v = s.deny := by
  rw [writeBy_wide ha hw, writePart_gated hreg, gated_stranger hp (by simp [hr]) ho]

/-! ## Changes of the hub (R298, R300) -/

/-- An interrupt changes at most the pending vectors of the hub. -/
theorem interrupt_hub (s : State) (v : Nat) : ∃ vs, (s.interrupt v).hub = { s.hub with pendingVectors := vs } := by
  unfold interrupt; split <;> exact ⟨_, rfl⟩

/-- A change of the hub is made, and at most the pending vectors change with it. -/
theorem onHub_hub (s : State) (f : Hub → Hub) : ∃ vs, (s.onHub f).hub = { f s.hub with pendingVectors := vs } := by
  simp only [onHub]; split
  · exact ⟨_, rfl⟩
  · exact interrupt_hub { s with hub := f s.hub } 2048

/-! ## Claims and release (R74 to R77) -/

theorem sendPending_none {s : State} (h : s.hub.pendingVectors = []) : s.sendPending = s := by
  simp only [sendPending, h, List.filter_nil, List.foldl_nil]
  rw [← h]

/-- A claim is refused while somebody owns the module, or where it does not verify. -/
theorem submitClaim_refused {s : State} {a : Nat} (h : s.hub.held = true ∨ s.claimVerifies a = false) : s.submitClaim a = s := by
  rcases h with h | h <;> simp [submitClaim, h]

/-- A claim that verifies while nobody owns the module makes its agent the owner, with a fresh nonce. -/
theorem submitClaim_granted {s : State} {a : Nat} (hh : s.hub.held = false) (hv : s.claimVerifies a = true)
    (hp : s.hub.pendingVectors = []) :
    s.submitClaim a = { s with
      free := s.free + 1,
      hub := { s.hub with owner := BitVec.ofNat 2 a, held := true, nonce := Config.randomWord s.free } } := by
  simp only [submitClaim, hh, hv, Bool.not_true, Bool.or_self, Bool.false_eq_true, if_false]
  exact sendPending_none hp

/-- The write of byte 71 of an open window submits the claim (R75). -/
theorem exec_claim_open {s : State} {agent w : Nat} (byte : Byte) (hw : w < 4) (h : s.claimOpen agent w = true) :
    exec (.claim agent w byte) s = .next ((s.putClaim w 71 byte).submitClaim w) := by
  change execClaim agent w byte s = _
  simp [execClaim, Nat.not_le.mpr hw, h]

/-- The owner gives the module up at any time that the hub has power (R77). -/
theorem exec_release_owner {s : State} {agent : Nat} (hp : s.powered = true) (ho : s.isOwner agent = true) :
    exec (.release agent) s = .next s.giveUp := by
  change execRelease agent s = _
  rw [execRelease, gated_owner hp (by simp) ho]

/-- The end of the owner's link gives the module up (R77). -/
theorem exec_ownerLinkDown_held {s : State} (h : s.hub.held = true) : exec .ownerLinkDown s = .next s.giveUp := by
  change execOwnerLinkDown s = _
  rw [execOwnerLinkDown, if_pos h]

/-! ## HUB_PARTCFG (R301) -/

/-- A valid value takes the place of the old one where no partition has a context that is not free. -/
theorem writePartcfg_valid {s : State} {v : W64} (hv : partcfgValid v.toNat = true) (hb : ∀ d < 16, s.boundIn (s.leadOf d) = []) :
    s.writePartcfg ⟨v.toNat, mask 0 63⟩ = { s with hub := { s.hub with partcfg := v } } := by
  have hidle : ((span 0 16).any fun d => leadIn v.toNat d != s.leadOf d && !(s.boundIn (s.leadOf d)).isEmpty) = false := by
    rw [List.any_eq_false, span_eq_range']
    intro d hd
    simp [hb d (by simpa using hd)]
  simp only [writePartcfg, onto_allBits, hv, hidle, Bool.not_false, Bool.and_self, if_true, BitVec.ofNat_toNat, BitVec.setWidth_eq]

/-- A value that is not valid is recorded as an error, and the old one stays. -/
theorem writePartcfg_invalid {s : State} {v : W64} (hv : partcfgValid v.toNat = false) :
    (s.writePartcfg ⟨v.toNat, mask 0 63⟩).hub.parterr = true ∧
      (s.writePartcfg ⟨v.toNat, mask 0 63⟩).hub.partcfg = s.hub.partcfg := by
  have hw : s.writePartcfg ⟨v.toNat, mask 0 63⟩ = s.onHub fun h => { h with parterr := true } := by
    simp only [writePartcfg, onto_allBits, hv, Bool.false_and, Bool.false_eq_true, if_false]
  rw [hw]
  obtain ⟨vs, hhub⟩ := onHub_hub s fun h => { h with parterr := true }
  rw [hhub]
  exact ⟨rfl, rfl⟩

theorem exec_partcfgWrite_owned {s : State} {agent : Nat} (value : W64) (h : Owned s agent) :
    exec (.partcfgWrite agent value) s = .next (s.writePartcfg ⟨value.toNat, mask 0 63⟩) := by
  obtain ⟨hp, hr, ho⟩ := h
  change execPartcfgWrite agent value s = _
  rw [execPartcfgWrite, gated_owner hp (by simp [hr]) ho, whole_word]

/-- The base of a queue that is not enabled takes a value without reserved bits (R70, R72). -/
theorem writeWqBase_disabled {s : State} {q : Nat} {v : W64} (he : (s.wq q).en = false) (hv : v.toNat % 64 = 0) :
    s.writeWqBase q ⟨v.toNat, mask 0 63⟩ = s.setWq q { s.wq q with base := v } := by
  simp only [writeWqBase, unreserved, and_lowSix hv, if_true, onWq, he, Bool.false_eq_true, if_false, onto_allBits,
    BitVec.ofNat_toNat, BitVec.setWidth_eq]

/-- The owner's whole write of WQ_BASE. -/
theorem writeBy_wqBase {s : State} {agent q : Nat} (v : Nat) (hown : Owned s agent) (hq : q < 8192) :
    s.writeBy agent (0x200000 + 32 * q) 8 v = s.writeWqBase q ⟨v, mask 0 63⟩ := by
  obtain ⟨hp, hr, ho⟩ := hown
  have hreg := regAt_wqBase hq
  rw [writeBy_wide (by omega) (by rw [hreg]; rfl), hreg, writePart_gated (by simp), gated_owner hp (by simp [hr]) ho]
  rfl

/-! ## Registers that a read clears (R74, R303) -/

/-- A read by an agent whose link is up sends the value and then clears what its bytes clear. -/
theorem readBy_linked {s : State} {agent off size : Nat} (hp : s.powered = true) (ha : agent < 4) (hl : agent ∉ s.hub.linkDown)
    (hok : accessOk off size = true) :
    s.readBy agent off size = (span off size).foldl (fun t o => t.clearRead o) (s.emit (.registerData agent off (s.readValue off size))) := by
  simp [readBy, hp, hok, Nat.not_le.mpr ha, hl]

/-- A read of HUB_OWN answers the whole register, which responds even while the firmware has failed its check. -/
theorem readValue_own (s : State) : s.readValue 0x100008 4 = BitVec.ofNat 64 (ownWord s.hub) := by
  have hlow : s.readUnit 0x100008 = ownWord s.hub := by
    simp [readUnit, regAt_own, HubReg.always, HubReg.wide, readReg, bitsAt_zero_of_lt (ownWord_lt s.hub)]
  have hhigh : s.readUnit 0x10000C = 0 := by
    simp [readUnit, regAt_above_own, readReg, bitsAt]
  simp [readValue, accessOk, hlow, hhigh, bitsAt_zero_of_lt (ownWord_lt s.hub)]

/-- Of the bytes of HUB_OWN, the read of that which holds DENIED clears it. -/
theorem clearRead_own (s : State) :
    (span 0x100008 4).foldl (fun t o => t.clearRead o) s = { s with hub := { s.hub with denied := 0 } } := by
  simp [span, clearRead, regAt_own]

/-- A read of a wide register whose upper half is zero answers its value, once the firmware has passed its check. -/
theorem readValue_wide {s : State} {r : HubReg} {off : Nat} (hr : s.hub.ready = true) (hw : r.wide = true) (ha : off % 8 = 0)
    (hlow : regAt off = r) (hhigh : regAt (off + 4) = r) (hlt : s.readReg r < 2 ^ 32) :
    s.readValue off 8 = BitVec.ofNat 64 (s.readReg r) := by
  have ho : off / 4 * 4 = off := by omega
  have hok : accessOk off 8 = true := by simp [accessOk, ha]
  have hlowUnit : s.readUnit off = s.readReg r := by
    have hpos : off % 8 ≠ 4 := by omega
    simp [readUnit, hlow, hr, hpos, bitsAt_zero_of_lt hlt]
  have hhighUnit : s.readUnit (off + 4) = 0 := by
    have hpos : (off + 4) % 8 = 4 := by omega
    have hzero : bitsAt (s.readReg r) 32 32 = 0 := by rw [bitsAt_eq, Nat.div_eq_of_lt hlt, Nat.zero_mod]
    simp [readUnit, hhigh, hr, hpos, hw, hzero]
  simp [readValue, hok, ho, hlowUnit, hhighUnit, bitsAt_zero_of_lt (show s.readReg r < 2 ^ 64 by omega)]

/-- `DENIED_READ` answers HUB_OWN and clears DENIED (R74). -/
theorem exec_deniedRead_linked {s : State} {agent : Nat} (hp : s.powered = true) (ha : agent < 4) (hl : agent ∉ s.hub.linkDown) :
    exec (.deniedRead agent) s = .next { s.emit (.registerData agent 0x100008 (BitVec.ofNat 64 (ownWord s.hub))) with
      hub := { s.hub with denied := 0 } } := by
  change execDeniedRead agent s = _
  rw [execDeniedRead, readBy_linked hp ha hl (by decide), readValue_own, clearRead_own, emit_hub]

/-- A byte of HUB_CTXSTAT: the read of the third clears ERRDROP, that of another nothing. -/
theorem clearRead_ctxstat {s : State} {c o : Nat} (hr : s.hub.ready = true) (hc : c < 1024) (ho : o < 8) :
    s.clearRead (0x4000C8 + 256 * c + o) = if o = 2 then s.onCtx c fun x => { x with errdrop := 0 } else s := by
  have hreg : regAt ((0x4000C8 + 256 * c + o) / 4 * 4) = .ctxstat c := regAt_ctxstat hc (by omega) (by omega)
  have hpos : (0x4000C8 + 256 * c + o) % 8 = o := by omega
  simp only [clearRead, hreg, hpos, hr, and_true]

/-- The read of all of HUB_CTXSTAT clears ERRDROP. -/
theorem clearRead_ctxstat_whole {s : State} {c : Nat} (hr : s.hub.ready = true) (hc : c < 1024) :
    (span (0x4000C8 + 256 * c) 8).foldl (fun t o => t.clearRead o) s = s.onCtx c fun x => { x with errdrop := 0 } := by
  have hspan : span (0x4000C8 + 256 * c) 8 = [0, 1, 2, 3, 4, 5, 6, 7].map (0x4000C8 + 256 * c + ·) := rfl
  simp only [hspan, List.foldl_map, List.foldl_cons, List.foldl_nil, clearRead_ctxstat, hr, hc, onCtx_hub, Nat.reduceLT,
    Nat.reduceEqDiff, show ¬(0 : Nat) = 2 by decide, if_true, if_false]

/-- `ERRDROP_READ` answers HUB_CTXSTAT and clears ERRDROP (R303). -/
theorem exec_errdropRead_linked {s : State} {agent c : Nat} (hp : s.powered = true) (ha : agent < 4) (hl : agent ∉ s.hub.linkDown)
    (hr : s.hub.ready = true) (hc : c < 1024) :
    exec (.errdropRead agent c) s = .next ((s.emit (.registerData agent (0x4000C8 + 256 * c) (BitVec.ofNat 64 (ctxStat (s.ctx c))))).onCtx c
      fun x => { x with errdrop := 0 }) := by
  have ha8 : (0x4000C8 + 256 * c) % 8 = 0 := by omega
  have hok : accessOk (0x4000C8 + 256 * c) 8 = true := by simp only [accessOk, ha8]; decide
  have hvalue : s.readValue (0x4000C8 + 256 * c) 8 = BitVec.ofNat 64 (ctxStat (s.ctx c)) :=
    readValue_wide hr (r := .ctxstat c) rfl ha8 (regAt_ctxstat hc (by omega) (by omega)) (regAt_ctxstat hc (by omega) (by omega))
      (ctxStat_lt _)
  change execErrdropRead agent c s = _
  rw [execErrdropRead, if_neg (by omega), readBy_linked hp ha hl hok, hvalue, clearRead_ctxstat_whole (by rwa [emit_hub]) hc]

/-! ## The host's accesses to a partition (R22, R140) -/

/-- While no granule is tagged and no block enciphered, a byte is written where its key stands (R16, R307). -/
theorem physWrite_clear {s : State} (who : Option Nat) (key : Nat) (b : Byte) (ht : s.hub.tags = []) (he : s.hub.enciphered = []) :
    s.physWrite who key [b] = { s with mem := s.mem.write key b } := by
  have hopen : s.granuleOpen who key = true := by simp [granuleOpen, ht]
  have hcast : ∀ bs : List Nat, bs.foldl (fun s b => s.recastBlock none b) s = s := fun bs => by
    induction bs with
    | nil => rfl
    | cons b bs ih => rwa [List.foldl_cons, show s.recastBlock none b = s by simp [recastBlock, he]]
  simp [physWrite, writeAs, hopen, recastSpan, hcast, Memory.writes]

/-- The host's byte goes to its place, below the reserved range of a partition without contexts. -/
theorem hostPut_unbound {s : State} {lead pa : Nat} (b : Byte) (hb : s.boundIn lead = []) (hpa : pa < reservedStart (s.diesOf lead))
    (ht : s.hub.tags = []) (he : s.hub.enciphered = []) :
    s.hostPut lead pa b = { s with mem := s.mem.write (physKey (s.diesOf lead) pa) b } := by
  simp [hostPut, hb, Nat.not_le.mpr hpa, physWrite_clear none _ b ht he]

/-- The bytes of a host's write go to their places, one by one. -/
theorem hostPuts_unbound {s : State} {lead pa : Nat} {bs : List Byte} (hb : s.boundIn lead = [])
    (hpa : pa + bs.length ≤ reservedStart (s.diesOf lead)) (ht : s.hub.tags = []) (he : s.hub.enciphered = []) :
    ((span pa bs.length).zip bs).foldl (fun s e => s.hostPut lead e.1 e.2) s =
      { s with mem := s.mem.writesVia (physKey (s.diesOf lead)) pa bs } := by
  induction bs generalizing s pa with
  | nil => rfl
  | cons b bs ih =>
    rw [List.length_cons] at hpa
    rw [List.length_cons, span, List.zip_cons_cons, List.foldl_cons, hostPut_unbound b hb (by omega) ht he]
    exact ih (s := { s with mem := s.mem.write (physKey (s.diesOf lead) pa) b }) hb
      (show pa + 1 + bs.length ≤ reservedStart (s.diesOf lead) by omega) ht he

/-- The host writes below the reserved range of a partition without contexts. -/
theorem exec_hostMemoryAccess_write {s : State} {lead pa : Nat} {bs : List Byte} (hp : s.powered = true) (hl : s.leadOf lead = lead)
    (h16 : lead < 16) (hb : s.boundIn lead = []) (hpa : pa + bs.length ≤ reservedStart (s.diesOf lead)) (ht : s.hub.tags = [])
    (he : s.hub.enciphered = []) :
    exec (.hostMemoryAccess lead pa (.write bs)) s =
      .next { s with mem := s.mem.writesVia (physKey (s.diesOf lead)) pa bs } := by
  have hafter (m : Memory) : ({ s with mem := m } : State).boundIn lead = [] := hb
  change execHostMemoryAccess lead pa (.write bs) s = _
  simp [execHostMemoryAccess, hp, hl, Nat.not_le.mpr h16, hostPuts_unbound hb hpa ht he, hafter]

/-- The host reads the bytes of its window one by one. -/
theorem exec_hostMemoryAccess_read {s : State} {lead : Nat} (pa n : Nat) (hp : s.powered = true) (hl : s.leadOf lead = lead)
    (h16 : lead < 16) : exec (.hostMemoryAccess lead pa (.read n)) s =
      .next (s.draw.emit (.memoryData lead pa ((List.range n).map fun k => s.hostByte lead (pa + k)))) := by
  change execHostMemoryAccess lead pa (.read n) s = _
  simp [execHostMemoryAccess, hp, hl, Nat.not_le.mpr h16, span_eq_range', List.range'_eq_map_range, Function.comp_def]

end State

open State

/-- Settles O51: an event that the owner or an open window allows comes to one of the rules above, and the host's bytes stand apart
because `physKey` sends no two addresses of a partition to one place. That a release keeps OWNER, that HUB_OWN is read as 32 bits and that
a write is denied once are the model's deductions (log 39). -/
theorem ownershipAndRegisters : Obligations.OwnershipAndRegisters := by
  unfold Obligations.OwnershipAndRegisters
  intro s agent w off size lead pa n c byte value bs
  refine ⟨fun hw hopen => ⟨fun hheld hver hpend => ?claimGranted, fun hno => ?claimRefused⟩, fun hp ho => ?release,
    fun hheld => ?ownerLinkDown, fun hp ha hl => ⟨?deniedRead, fun hr hc => ?errdropRead⟩,
    fun hown => ⟨fun hvalid _ hidle => ?partcfgValid, fun hbad => ?partcfgInvalid⟩,
    fun hp hr ho hreg ha hwide => ?strangersWrite, fun hown hmis _ => ?misalignedWrite,
    fun hown q hq hen hval => ?queueBase, fun hp hlead h16 => ⟨?hostRead, fun hb hpa ht he => ?hostWrite⟩⟩
  case claimGranted => rw [exec_claim_open byte hw hopen, submitClaim_granted (s := s.putClaim w 71 byte) hheld hver hpend]; rfl
  case claimRefused => rw [exec_claim_open byte hw hopen, submitClaim_refused (s := s.putClaim w 71 byte) hno]; rfl
  case release => exact exec_release_owner hp ho
  case ownerLinkDown => exact exec_ownerLinkDown_held hheld
  case deniedRead =>
    rw [exec_deniedRead_linked hp ha hl, ownWord, b2n_mul, Nat.mul_comm s.hub.denied.toNat]
  case errdropRead => exact exec_errdropRead_linked hp ha hl hr hc
  case partcfgValid => rw [exec_partcfgWrite_owned value hown, writePartcfg_valid hvalid hidle]
  case partcfgInvalid => exact ⟨_, exec_partcfgWrite_owned value hown, writePartcfg_invalid hbad⟩
  case strangersWrite => rw [exec_registerWrite, writeBy_stranger _ hp hr ho hreg ha hwide]
  case misalignedWrite => rw [exec_registerWrite, writeBy_misaligned _ hown hmis]
  case queueBase => rw [exec_registerWrite, writeBy_wqBase _ hown hq, writeWqBase_disabled hen hval]
  case hostRead => exact exec_hostMemoryAccess_read pa n hp hlead h16
  case hostWrite =>
    refine ⟨_, exec_hostMemoryAccess_write hp hlead h16 hb hpa ht he, rfl, fun j hj => ?_, fun k hk => Memory.read_writesVia_other hk⟩
    refine Memory.read_writesVia_same (fun i j hi hj e => ?_) hj
    have := physKey_injective (diesOf_nodup s lead) (by omega) (by omega) e
    omega

end Sys2Proof.Machine
end

section
/-! SUPPORT. What waits in an outbox: the checks of a global address pass, the operation is queued with its operands, and each operation on
the outside comes to that in a world. Then the clauses of `QueuedOperations`, an instruction each. -/

namespace Sys2Proof.Machine

@[simp] theorem length_natLe (n x : Nat) : (natLe n x).length = n := by
  induction n generalizing x with
  | zero => rfl
  | succ n ih => rw [natLe, List.length_cons, ih]

/-- An address below 2 ^ 57 is in the global window (R94). -/
theorem window_global {a : W64} (h : a.toNat < 2 ^ 57) : window a = .global a.toNat := by
  rw [window, if_pos]
  rw [bitsAt_eq]; omega

/-- A ready thread whose instruction's own checks and effect complete goes on from the state that they leave. -/
theorem issue_completes {s t : State} {ts : List Touch} {k : State → Res Unit} (hr : Ready s ts) (hk : k s = .ok () t) :
    issue s ts k = .next t := by
  rw [issue_ready hr, hk]; rfl

namespace State

/-- An aligned global address passes its checks (R347, R379, R444, R451). -/
theorem checkGlobal_passes (s : State) {a : W64} {n : Nat} (h : GlobalAt a n) : s.checkGlobal a n = .ok () s := by
  simp [checkGlobal, require, Res.andThen, (isGlobal_iff a).mpr h.1, h.2]

/-- Aligned global addresses pass every check of `cstart` (R367). -/
theorem startCause_none {img arg comp : W64} (hi : GlobalAt img 8) (ha : GlobalAt arg 64) (hc : GlobalAt comp 256) :
    startCause img arg comp = none := by
  simp [startCause, (isGlobal_iff img).mpr hi.1, (isGlobal_iff arg).mpr ha.1, (isGlobal_iff comp).mpr hc.1, hi.2, ha.2, hc.2]

/-- The checks of a remote enqueue pass on global addresses with the record and the ack word aligned (R444). -/
theorem checkEnqueue_passes (s : State) {globals : List W64} {rec_ : W64} {ack : Option W64} (hg : ∀ a ∈ globals, a.toNat < 2 ^ 57)
    (hr : rec_.toNat % 64 = 0) (hack : ∀ a ∈ ack, GlobalAt a 8) : s.checkEnqueue globals rec_ ack = .ok () s := by
  have hfind : (globals ++ ack.toList).find? (fun a => !isGlobal a) = none := by
    rw [List.find?_eq_none]
    intro a ha
    rcases List.mem_append.mp ha with ha | ha
    · simpa [isGlobal_iff] using hg a ha
    · simpa [isGlobal_iff] using (hack a (by simpa using ha)).1
  have hfilter : (ack.filter fun a => a.toNat % 8 != 0) = none := by
    rw [Option.filter_eq_none_iff]
    intro a ha
    simp [(hack a ha).2]
  simp [checkEnqueue, hfind, hr, hfilter]

/-- The ack word of a remote enqueue, where it names one, is the pair that its word names. -/
theorem ackOf_global {s : State} {d : Reg} {m : Bool} (h : m = true → GlobalAt (s.vd d) 8) : ∀ a ∈ s.ackOf d m, GlobalAt a 8 := by
  cases m with
  | false => simp [ackOf]
  | true => rintro a ⟨⟩; exact h rfl

/-! ## Queueing (R155, R166) -/

/-- Where the outbox and the pool have room and the cell's controller gives its turn, the operation joins the outbox. -/
theorem outboxPush_queues {s t : State} {op : OutOp} (a : W64) (h : Queues s op t) : s.outboxPush op a = .ok () t := by
  obtain ⟨hroom, hpool, u, hturn, ht⟩ := h
  simp only [outboxPush, Nat.not_le.mpr hroom, Nat.not_le.mpr hpool, decide_false, Bool.or_self, Bool.false_eq_true, if_false, hturn, ht]

theorem queueOp_queues {s t : State} {op : OutOp} (a : W64) (h : Queues s.markExternal op t) : s.queueOp op a = .ok () t :=
  outboxPush_queues a h

/-- A store of a world to a page that is not normal, or is shared by the world, waits (R155). -/
theorem storeGlobal_queues {s s' t : State} {va key : Nat} {bs : List Byte} {leaf : TlbEntry}
    (hx : s.xlatThread va .write = (.ok key leaf, s')) (hview : s'.curView ≠ 0) (hpage : leaf.type ≠ 0 ∨ leaf.wshared = true)
    (hq : Queues s' (.store (BitVec.ofNat 64 va) bs) t) : s.storeGlobal va bs = .ok () t := by
  have hqueues : s'.queuesStore leaf = true := by simpa [queuesStore, hview] using hpage
  simp only [storeGlobal, hx, hqueues, if_true, outboxPush_queues _ hq]

/-! ## The operations on the outside, in a world (R155, R156) -/

section
variable {s t : State} (hview : s.curView ≠ 0)
include hview

theorem cinc_queues {a : W64} {x : W32} (ha : GlobalAt a 8) (hq : Queues s.markExternal (.cinc a x) t) : s.cinc a x = .ok () t := by
  simp [cinc, checkGlobal_passes s ha, Res.andThen, hview, queueOp_queues _ hq]

theorem cstart_queues {img arg comp : W64} (hi : GlobalAt img 8) (ha : GlobalAt arg 64) (hc : GlobalAt comp 256)
    (hq : Queues s.markExternal (.cstart img arg comp) t) : s.cstart img arg comp = .ok () t := by
  simp [cstart, startCause_none hi ha hc, hview, queueOp_queues _ hq]

theorem spawn_queues {a : W64} (ha : GlobalAt a 64) (hq : Queues s.markExternal (.spawn a) t) : s.spawn a = .ok () t := by
  simp [spawn, checkGlobal_passes s ha, Res.andThen, hview, queueOp_queues _ hq]

/-- A queued `arm` reads as armed, with an id of all ones. -/
theorem arm_queues {ctr x act : W64} (hc : GlobalAt ctr 8) (ha : GlobalAt act 32) (hq : Queues s.markExternal (.arm ctr x act) t) :
    s.arm ctr x act = .ok (0xFFFFFFFF, true) t := by
  simp [arm, require, (isGlobal_iff ctr).mpr hc.1, (isGlobal_iff act).mpr ha.1, hc.2, ha.2, Res.andThen, hview, queueOp_queues _ hq]

/-- A queued `disarm` reads as done. -/
theorem disarm_queues {id : Nat} (hq : Queues s.markExternal (.disarm id) t) : s.disarm id = .ok true t := by
  simp [disarm, Res.andThen, hview, queueOp_queues _ hq]

/-- The page of a queued `fwrite` is checked as it is queued: one that the world shares traps (R379; log 34). -/
theorem fwrite_traps_wshared {s' : State} {f x : W64} {pf : Nat × TlbEntry} (hf : GlobalAt f 8)
    (hp : s.normalPage f .write = .ok pf s') (hw : pf.2.wshared = true) : s.fwrite f x = .trap 0x15 f 0 s' := by
  simp [fwrite, checkGlobal_passes s hf, hp, Res.andThen, hview, hw]

/-- A queued `fwrite` reads as having filled its future. -/
theorem fwrite_queues {s' : State} {f x : W64} {pf : Nat × TlbEntry} (hf : GlobalAt f 8)
    (hp : s.normalPage f .write = .ok pf s') (hw : pf.2.wshared = false) (hq : Queues s' (.fwrite f x) t) :
    s.fwrite f x = .ok true t := by
  simp [fwrite, checkGlobal_passes s hf, hp, Res.andThen, hview, hw, outboxPush_queues _ hq]

theorem renq_queues {r : W64} {st : W32} {ack : Option W64} (hr : GlobalAt r 64) (hack : ∀ a ∈ ack, GlobalAt a 8)
    (hst : st.toNat < 2 ^ 16) (hq : Queues s.markExternal (.renq r st.toNat ack) t) : s.renq r st ack = .ok () t := by
  have hcheck : s.checkEnqueue [r] r ack = .ok () s := checkEnqueue_passes s (by simpa using hr.1) hr.2 hack
  have hok : ¬ st.toNat ≥ 2 ^ 16 := by omega
  simp only [renq, hcheck, Res.andThen, bne_iff_ne, ne_eq, hview, not_false_eq_true, if_true, hok, if_false, queueOp_queues _ hq]

theorem wenq_queues {pay target r : W64} {len st : W32} {ack : Option W64} (hp : GlobalAt pay 1) (ht : GlobalAt target 1)
    (hr : GlobalAt r 64) (hack : ∀ a ∈ ack, GlobalAt a 8) (hlen : 1 ≤ len.toNat) (hmax : len.toNat ≤ 4096) (hst : st.toNat < 2 ^ 16)
    (hq : Queues s.markExternal (.wenq pay target r len.toNat st.toNat ack) t) : s.wenq pay target r len st ack = .ok () t := by
  have hcheck : s.checkEnqueue [pay, target, r] r ack = .ok () s :=
    checkEnqueue_passes s (by simpa using ⟨hp.1, ht.1, hr.1⟩) hr.2 hack
  have hok : (len.toNat = 0 || 4096 < len.toNat || st.toNat ≥ 2 ^ 16 : Bool) = false := by
    simp only [Bool.or_eq_false_iff, decide_eq_false_iff_not]; omega
  simp only [wenq, hcheck, Res.andThen, bne_iff_ne, ne_eq, hview, not_false_eq_true, if_true, hok, Bool.false_eq_true, if_false,
    queueOp_queues _ hq]

end

end State

/-- A store of n bytes through a global address stores the low bytes of its data. -/
theorem storeAt_global {s t : State} {d a : Reg} {imm : BitVec 7} {n : Nat} (hr : Ready s (dataTouch d n ++ pair a))
    (hg : (memAddr (s.vd a) imm n).toNat < 2 ^ 57) (hn : (memAddr (s.vd a) imm n).toNat % n = 0)
    (ht : s.storeGlobal (memAddr (s.vd a) imm n).toNat (storeData s d n) = .ok () t) : storeAt d a imm n s = .next t := by
  have hdata : s.stored d n = storeData s d n := by
    unfold State.stored storeData
    split
    · next h => rw [h]
    · rfl
  have hlen : (storeData s d n).length = n := length_natLe ..
  refine issue_completes hr ?_
  simp [State.storeGeneric, window_global hg, hdata, hlen, hn, ht]

open State

/-- Settles O34: where there is room, each operation's checks pass and `outboxPush` queues it. What a queued cell is and what its die is
charged are the model's choices (logs 19 and 16), and that `fwrite` checks its page as it is queued is its reading (log 34). -/
theorem queuedOperations : Obligations.QueuedOperations := by
  unfold Obligations.QueuedOperations
  refine ⟨fun s d a imm c hc hready hg hn key leaf s' hx hview hpage t hq => ?store, fun s d a b m hview t =>
    ⟨fun hr ha hq => ?cinc, fun hr hd ha hb hq => ?cstart, fun hr ha hq => ?spawn, fun hr hc ha hq => ?arm, fun hr hq => ?disarm,
      fun hr hf pf s' hp => ⟨fun hw => ?fwriteShared, fun hw hq => ?fwrite⟩,
      fun hack => ⟨fun hr ha hst hq => ?renq, fun hr hp ht ha hlen hmax hst hq => ?wenq⟩⟩⟩
  case store =>
    have hstore : storeAt d a imm c.1 s = .next t := storeAt_global hready hg hn (storeGlobal_queues hx hview hpage hq)
    simp only [List.mem_cons, List.not_mem_nil, or_false] at hc
    rcases hc with rfl | rfl | rfl | rfl <;> exact hstore
  case cinc => exact issue_completes hr (cinc_queues hview ha hq)
  case cstart => exact issue_completes hr (cstart_queues hview hd ha hb hq)
  case spawn => exact issue_completes hr (spawn_queues hview ha hq)
  case arm => exact issue_completes hr (by rw [arm_queues hview hc ha hq]; rfl)
  case disarm => exact issue_completes hr (by rw [disarm_queues hview hq]; rfl)
  case fwriteShared =>
    change execFwrite d a b m s = _
    rw [execFwrite, issue_ready hr, fwrite_traps_wshared hview hf hp hw]; rfl
  case fwrite => exact issue_completes hr (by rw [fwrite_queues hview hf hp hw hq]; rfl)
  case renq => exact issue_completes hr (renq_queues hview ha (ackOf_global hack) hst hq)
  case wenq => exact issue_completes hr (wenq_queues hview hp ht ha (ackOf_global hack) hlen hmax hst hq)

end Sys2Proof.Machine
end

section
/-! SUPPORT. Pre-emption: the course that a team takes, what a switch-in makes of each team of its context, and the frames of the steps that
take a team off its cores. Then the clauses of `PreemptionEvents`, an event each. -/

namespace Sys2Proof.Tab

/-- What is found in a table stands in it. -/
theorem mem_of_find? {α : Type} {t : Tab α} {k : Nat} {v : α} (h : t.find? k = some v) : (k, v) ∈ t := by
  induction t with
  | nil => simp at h
  | cons e t ih =>
    obtain ⟨k', v'⟩ := e
    rw [find?] at h
    split at h
    · cases h; subst k'; exact List.mem_cons_self
    · exact List.mem_cons_of_mem _ (ih h)

end Sys2Proof.Tab

namespace Sys2Proof.Machine

namespace State

/-! ## Courses of pre-emption (R286, R287) -/

/-- The phases from which a team is pre-empted: on its cores, at its arguments or awaiting its image. -/
abbrev Preemptible (s : State) (t : Nat) : Prop :=
  (s.team t).phase = .placed ∨ (s.team t).phase = .argsHeld ∨ (s.team t).phase = .copying

/-- The conditions of a flush, for a team whose estimate is e (R286). -/
abbrev Flushable (s : State) (t e : Nat) : Prop :=
  (s.ctx (s.team t).ctx).preempt.toNat / 2 ^ 16 % 2 = 0 ∧ (s.team t).record.idem = true ∧ (s.team t).view = 0 ∧
    (s.team t).external = false ∧ 4 * s.runTime t < e

theorem drainLimit_eq (s : State) (c : Nat) : s.drainLimit c = (s.ctx c).preempt.toNat % 2 ^ 16 * 1250 := by
  rw [drainLimit, bitsAt_eq, Nat.pow_zero, Nat.div_one]

/-- A team without an estimate is saved. -/
theorem course_unknown {s : State} {t : Nat} (h : s.estimate t = none) : s.course t = .save := by
  simp only [course, h]

/-- With an estimate, the first course that applies is taken, in the order flush, drain, save. -/
theorem course_known {s : State} {t e : Nat} (h : s.estimate t = some e) :
    s.course t = if s.Flushable t e then .flush else if e - s.runTime t < s.drainLimit (s.team t).ctx then .drain else .save := by
  simp [course, Flushable, h, bitAt, Nat.testBit_eq_decide_div_mod_eq, and_assoc]

theorem course_drain {s : State} {t e : Nat} (h : s.estimate t = some e) (hf : ¬s.Flushable t e)
    (hl : e - s.runTime t < (s.ctx (s.team t).ctx).preempt.toNat % 2 ^ 16 * 1250) : s.course t = .drain := by
  rw [course_known h, if_neg hf, drainLimit_eq, if_pos hl]

theorem course_save {s : State} {t e : Nat} (h : s.estimate t = some e) (hf : ¬s.Flushable t e)
    (hl : (s.ctx (s.team t).ctx).preempt.toNat % 2 ^ 16 * 1250 ≤ e - s.runTime t) : s.course t = .save := by
  rw [course_known h, if_neg hf, drainLimit_eq, if_neg (Nat.not_lt.mpr hl)]

/-- A team on one of the courses. -/
def takeCourse (s : State) (t : Nat) : Course → State
  | .flush => s.flush t
  | .drain => s.beginDrain t
  | .save => s.beginSave t

/-- A pre-emption uses the team's estimate and takes its course. -/
theorem preempt_takes {s : State} {t : Nat} {way : Course} (h : s.Preemptible t) (hc : s.course t = way) :
    s.preempt t = (s.useEstimate t).takeCourse t way := by
  subst hc
  rcases h with h | h | h <;> simp only [preempt, h] <;> cases s.course t <;> rfl

/-- The use of an estimate changes nothing but the order of its queue engine's pairs. -/
theorem useEstimate_frame (s : State) (t : Nat) : { s.useEstimate t with engines := s.engines } = s := rfl

/-- The pair of the estimate comes to stand first (log 47). -/
theorem useEstimate_head (s : State) (t : Nat) {e : Estimate}
    (h : (s.engine ((s.team t).core / 96)).ests.find? (fun e => e.ctx == (s.team t).ctx && e.entry == (s.team t).record.entry) = some e) :
    ((s.useEstimate t).engine ((s.team t).core / 96)).ests.head? = some e := by
  simp [useEstimate, List.head?_append, h]

/-- A drain of a team whose threads have started is its phase; of another it is noted (R286). -/
theorem beginDrain_useEstimate (s : State) (t : Nat) :
    let limit := s.cycle + (s.ctx (s.team t).ctx).preempt.toNat % 2 ^ 16 * 1250
    (s.useEstimate t).beginDrain t = (s.useEstimate t).onTeam t fun x =>
      if x.phase = .placed then { x with phase := .draining, drainUntil := limit } else { x with drain := true, drainUntil := limit } := by
  intro limit
  have hteam : (s.useEstimate t).team t = s.team t := rfl
  have huntil : (s.useEstimate t).cycle + (s.useEstimate t).drainLimit (s.team t).ctx = limit :=
    congrArg (s.cycle + ·) (drainLimit_eq s _)
  simp only [beginDrain, onTeam, hteam, huntil]

/-! ## Switching in (R249, R286, R289) -/

/-- A team that stands in an image, as it waits again at the die of that image. -/
def unsaved (x : Team) : Team :=
  match x.image with
  | none => x
  | some img => if x.phase = .saved ∨ x.phase = .waiting then { x with phase := .waiting, die := img.core / 96, transit := false } else x

theorem unsaved_none {x : Team} (h : x.image = none) : unsaved x = x := by
  simp only [unsaved, h]

theorem unsaved_elsewhere {x : Team} (h : ¬(x.phase = .saved ∨ x.phase = .waiting)) : unsaved x = x := by
  unfold unsaved; split
  · rfl
  · exact if_neg h

/-- A team whose context is resident again drains no longer, unless a debugger has halted it. -/
def runsOn (x : Team) : Team :=
  if x.halted then x else { x with phase := if x.phase = .draining then .placed else x.phase, drain := false }

/-- What a switch-in does with one team. -/
def rejoin (s : State) (t : Nat) : State := (s.unsave t).onTeam t runsOn

/-- A context that is switched out, or switching out, becomes resident as its teams rejoin (R304). -/
theorem switchInCtx_resident {s : State} {c : Nat} (h : (s.ctx c).state = 2 ∨ (s.ctx c).state = 3) :
    s.switchInCtx c = ((((s.teamsOf c).foldl rejoin (s.onCtx c fun x => { x with state := 1 })).wakeSlots c .switchedOut).feedAll c) := by
  have hguard : ((s.ctx c).state != 2 && (s.ctx c).state != 3) = false := by rcases h with h | h <;> simp [h]
  simp only [switchInCtx, hguard, Bool.false_eq_true, if_false]
  rfl

theorem unsave_ctxs (s : State) (t : Nat) : (s.unsave t).ctxs = s.ctxs := by
  unfold unsave; split <;> rfl

theorem unsave_team (s : State) (t n : Nat) : (s.unsave t).team n = if n = t then unsaved (s.team t) else s.team n := by
  cases hi : (s.team t).image with
  | none =>
    have hstays : s.unsave t = s := by simp only [unsave, hi]
    rw [hstays, unsaved_none hi]
    split
    · next h => rw [h]
    · rfl
  | some img => simp only [unsave, unsaved, hi, onTeam_get]

theorem rejoin_team (s : State) (t n : Nat) : (s.rejoin t).team n = if n = t then runsOn (unsaved (s.team t)) else s.team n := by
  by_cases h : n = t <;> simp [rejoin, unsave_team, h]

theorem runsOn_idem (x : Team) : runsOn (runsOn x) = runsOn x := by
  cases hh : x.halted with
  | true => simp [runsOn, hh]
  | false => by_cases hp : x.phase = .draining <;> simp [runsOn, hh, hp]

/-- A team that has rejoined is not saved, and where it waits in an image it does so at that image's die. -/
theorem unsaved_rejoined (x : Team) : unsaved (runsOn (unsaved x)) = runsOn (unsaved x) := by
  cases hi : x.image with
  | none =>
    have himage : (runsOn x).image = none := by unfold runsOn; split <;> exact hi
    rw [unsaved_none hi, unsaved_none himage]
  | some img =>
    by_cases hp : x.phase = .saved ∨ x.phase = .waiting
    · cases hh : x.halted <;> simp [unsaved, hi, hp, runsOn, hh]
    · have hruns : ¬((runsOn x).phase = .saved ∨ (runsOn x).phase = .waiting) := by
        by_cases hd : x.phase = .draining
        · cases hh : x.halted <;> simp [runsOn, hh, hd]
        · cases hh : x.halted <;> simpa [runsOn, hh, hd] using hp
      rw [unsaved_elsewhere hp, unsaved_elsewhere hruns]

/-- A team that has rejoined stays as it is when it rejoins again. -/
theorem rejoined_idem (x : Team) : runsOn (unsaved (runsOn (unsaved x))) = runsOn (unsaved x) := by
  rw [unsaved_rejoined, runsOn_idem]

theorem foldl_rejoin_ctxs (ts : List Nat) (s : State) : (ts.foldl rejoin s).ctxs = s.ctxs := by
  induction ts generalizing s with
  | nil => rfl
  | cons t ts ih => rw [List.foldl_cons, ih]; exact unsave_ctxs s t

/-- Every team named rejoins, however often it is named. -/
theorem foldl_rejoin_team (ts : List Nat) (s : State) (n : Nat) :
    (ts.foldl rejoin s).team n = if n ∈ ts then runsOn (unsaved (s.team n)) else s.team n := by
  induction ts generalizing s with
  | nil => rfl
  | cons t ts ih =>
    rw [List.foldl_cons, ih, rejoin_team]
    by_cases hn : n = t
    · subst hn; simp [rejoined_idem]
    · simp [hn]

/-- A number that is no team of its context is no team at all. -/
theorem mem_teamsOf_or_queued (s : State) (n : Nat) : n ∈ s.teamsOf (s.team n).ctx ∨ s.team n = .queued := by
  cases h : s.teams.find? n with
  | none => right; simp [team, Tab.get, h]
  | some x =>
    left
    have hx : s.team n = x := by simp [team, Tab.get, h]
    exact List.mem_map.mpr ⟨(n, x), List.mem_filter.mpr ⟨Tab.mem_of_find? h, by simp [hx]⟩, rfl⟩

/-- A switch-in has each team of its context rejoin. -/
theorem rejoined_team {s : State} {c n : Nat} (h : (s.team n).ctx = c) :
    ((s.teamsOf c).foldl rejoin (s.onCtx c fun x => { x with state := 1 })).team n = runsOn (unsaved (s.team n)) := by
  rw [foldl_rejoin_team, onCtx_get_team]
  split
  · rfl
  · next hn => rw [((mem_teamsOf_or_queued s n).resolve_left (h ▸ hn))]; rfl

theorem rejoined_draining {x : Team} (hp : x.phase = .draining) (hi : x.image = none) :
    (runsOn (unsaved x)).phase = if x.halted then .draining else .placed := by
  simp only [unsaved, hi, runsOn, hp]; split <;> simp [*]

theorem rejoined_drain {x : Team} (h : x.halted = false) : (runsOn (unsaved x)).drain = false := by
  have hu : (unsaved x).halted = false := by
    unfold unsaved; split
    · exact h
    · split <;> exact h
  simp [runsOn, hu]

theorem rejoined_saved {x : Team} {img : TeamImage} (hi : x.image = some img) (hp : x.phase = .saved) :
    (runsOn (unsaved x)).phase = .waiting ∧ (runsOn (unsaved x)).die = img.core / 96 ∧ (runsOn (unsaved x)).image = some img := by
  simp only [unsaved, hi, hp, true_or, if_true, runsOn]
  split <;> exact ⟨rfl, rfl, rfl⟩

theorem rejoined_other {x : Team} (hi : x.image = none) (hp : x.phase ≠ .draining) :
    runsOn (unsaved x) = if x.halted then x else { x with drain := false } := by
  simp [unsaved, hi, runsOn, hp]

/-! ## Saving a team (R288) -/

/-- A state with the teams, the contexts and the threads of another. -/
def SameTeams (s u : State) : Prop := u.teams = s.teams ∧ u.ctxs = s.ctxs ∧ u.threads = s.threads

theorem clearSlots_sameTeams (s : State) (t : Nat) : s.SameTeams (s.clearSlots t) :=
  List.foldlRecOn (motive := s.SameTeams) _ _ ⟨rfl, rfl, rfl⟩ fun _ h _ _ => h

/-- A team comes off its cores with its image after changes of cores, groups and session slots alone. -/
theorem unseat_eq (s : State) (t : Nat) (img : TeamImage) : ∃ u : State, s.SameTeams u ∧
    s.unseat t img = u.onTeam t fun y => { y with
      phase := if (u.ctx (s.team t).ctx).state = 1 then .waiting else .saved, die := (s.team t).core / 96, core := noCore,
      image := some img, resv := y.resv.mapVals fun _ r => { r with core := noCore + (r.core - (s.team t).core) } } := by
  refine ⟨_, ?_, rfl⟩
  exact List.foldlRecOn (motive := s.SameTeams) _ _ (clearSlots_sameTeams s t) fun _ h _ _ => h

/-- The team that has come off its cores stands in its image, and no thread has changed (R288, R289). -/
theorem unseat_result (s : State) (t : Nat) (img : TeamImage) :
    ((s.unseat t img).team t).phase = (if (s.ctx (s.team t).ctx).state = 1 then .waiting else .saved) ∧
      ((s.unseat t img).team t).image = some img ∧ ((s.unseat t img).team t).sp = (s.team t).sp ∧
      ((s.unseat t img).team t).die = (s.team t).core / 96 ∧ (s.unseat t img).threads = s.threads := by
  obtain ⟨u, ⟨hteams, hctxs, hthreads⟩, hu⟩ := unseat_eq s t img
  have hctx : u.ctx = s.ctx := by funext c; rw [ctx, ctx, hctxs]
  have hteam : u.team = s.team := by funext n; rw [team, team, hteams]
  simp [hu, hctx, hteam, hthreads]

/-- The image goes to the shadow store and the save area where it fits there, and else the context ends (R288). -/
theorem saveImage_eq (s : State) (t : Nat) :
    let x := s.team t
    let units := Config.imageUnits s.free
    let shadow := min units (16384 - (s.core x.core).shadow)
    let spill := units - shadow
    s.saveImage t = if s.savedUnits x.ctx + spill ≤ (s.ctx x.ctx).savesz.toNat % 2 ^ 24 * 64 then
        (((s.draw.chargeRegion x.ctx (s.draw.saveArea x.ctx) spill).tagRegion x.ctx (s.draw.saveArea x.ctx) spill).onCtx x.ctx fun y =>
          { y with savestatBytes := y.savestatBytes + BitVec.ofNat 32 units,
                   savestatOver := y.savestatOver + BitVec.ofNat 32 spill }).unseat t ⟨x.core, shadow, spill⟩
      else s.draw.beginTeardown x.ctx 0x51 := by
  intro x units shadow spill
  have hsize : bitsAt (s.draw.ctx x.ctx).savesz.toNat 0 24 = (s.ctx x.ctx).savesz.toNat % 2 ^ 24 := by
    rw [bitsAt_eq, Nat.pow_zero, Nat.div_one]; rfl
  rw [saveImage, hsize]
  by_cases hfit : s.savedUnits x.ctx + spill ≤ (s.ctx x.ctx).savesz.toNat % 2 ^ 24 * 64
  · rw [if_pos hfit]
    exact if_neg (Nat.not_lt.mpr hfit)
  · rw [if_neg hfit]
    exact if_pos (Nat.not_le.mp hfit)

/-! ## The events -/

theorem exec_switchOut_owned {s : State} {agent c : Nat} (h : Owned s agent) (hc : c < 1024) (hs : (s.ctx c).state ≠ 0) :
    exec (.switchOut agent c) s = .next ((s.onCtx c fun x => { x with swout := true }).switchOutCtx c) := by
  obtain ⟨hp, hr, ho⟩ := h
  change execSwitchOut agent c s = _
  rw [execSwitchOut, if_neg (by simpa [Nat.not_le.mpr hc] using hs), gated_owner hp (by simp [hr]) ho]

theorem exec_switchIn_owned {s : State} {agent c : Nat} (h : Owned s agent) (hc : c < 1024) (hs : (s.ctx c).state ≠ 0) :
    exec (.switchIn agent c) s = .next ((s.onCtx c fun x => { x with swout := false }).switchInCtx c) := by
  obtain ⟨hp, hr, ho⟩ := h
  change execSwitchIn agent c s = _
  rw [execSwitchIn, if_neg (by simpa [Nat.not_le.mpr hc] using hs), gated_owner hp (by simp [hr]) ho]

/-- The swap of a partition switches each of its contexts (R290). -/
theorem exec_partitionSwap_owned {s : State} {agent : Nat} (lead : Nat) (out : Bool) (h : Owned s agent) :
    exec (.partitionSwap agent lead out) s =
      .next ((s.boundIn lead).foldl (fun s c => if out then s.switchOutCtx c else s.switchInCtx c) s) := by
  obtain ⟨hp, hr, ho⟩ := h
  change execPartitionSwap agent lead out s = _
  rw [execPartitionSwap, gated_owner hp (by simp [hr]) ho]

/-- A running context without teams is at once switching out. -/
theorem switchOutCtx_teamless {s : State} {c : Nat} (hs : (s.ctx c).state = 1) (ht : s.teamsOf c = []) :
    ((s.switchOutCtx c).ctx c).state = 3 := by
  have hkeeps : ((s.onCtx c fun x => { x with state := 3 }).beginCount c).teamsOf c = [] := ht
  have hslots (u : State) (f : Nat → Nat → FSlot → FSlot) : (u.onSlots f).ctx = u.ctx := rfl
  simp only [switchOutCtx, hs, bne_self_eq_false, Bool.false_eq_true, if_false, hkeeps, List.foldl_nil, hslots]
  simp [beginCount]

theorem exec_drainLimit_over {s : State} {t : Nat} (hd : (s.team t).phase = .draining ∨ (s.team t).drain = true)
    (hu : (s.team t).drainUntil ≤ s.cycle) : exec (.drainLimit t) s = .next (s.beginSave t) := by
  change execDrainLimit t s = _
  rw [execDrainLimit, if_pos ⟨hd, hu⟩]

theorem exec_teamSaveComplete_ready {s : State} {t : Nat} (hp : (s.team t).phase = .saving)
    (hr : (s.writeBackTeam t).saveReady t = true) : exec (.teamSaveComplete t) s = .next ((s.writeBackTeam t).saveImage t) := by
  change execTeamSaveComplete t s = _
  simp only [execTeamSaveComplete, hp, bne_self_eq_false, Bool.false_eq_true, if_false, hr, if_true]

theorem exec_switchOutComplete_unseated {s : State} {c : Nat} (hs : (s.ctx c).state = 3)
    (ht : (s.teamsOf c).all (fun t => !s.seated t) = true) :
    exec (.switchOutComplete c) s = .next (s.onCtx c fun x => { x with state := 2 }) := by
  change execSwitchOutComplete c s = _
  rw [execSwitchOutComplete, if_pos (by rw [hs, ht]; rfl)]

/-- A debugger's halt pre-empts a team on its cores, at its arguments or awaiting its image. -/
theorem exec_debuggerHalt_preempts {s : State} {t : Nat} (h : s.Preemptible t) : exec (.debuggerHalt t) s =
    .next (((s.beginCount (s.team t).ctx).onTeam t fun x => { x with halted := true }).preempt t) := by
  change execDebuggerHalt t s = _
  rcases h with h | h | h <;> simp only [execDebuggerHalt, h]

/-- A debugger's halt holds a team that is being pre-empted, or waits (log 20). -/
theorem exec_debuggerHalt_holds {s : State} {t : Nat} (ht : (s.teams.find? t).isSome = true)
    (h : (s.team t).phase = .draining ∨ (s.team t).phase = .saving ∨ (s.team t).phase = .saved ∨ (s.team t).phase = .waiting) :
    exec (.debuggerHalt t) s = .next (s.onTeam t fun x => { x with halted := true }) := by
  change execDebuggerHalt t s = _
  rcases h with h | h | h | h <;> simp only [execDebuggerHalt, h, ht, if_true]

end State

open State

/-- Settles O47: a pre-empted team takes the first course that applies, and a switch-in has every team of its context rejoin once, for one
that rejoins twice stays the same; each of the other clauses is the rule of its event. That a used estimate becomes the latest is the
model's reading (log 47); the courses of a team that is not on its cores yet, the halt in every phase and the swap of a partition are its
choices (log 20), and so is the place of an image in the save area (log 16). -/
theorem preemptionEvents : Obligations.PreemptionEvents := by
  unfold Obligations.PreemptionEvents
  intro s agent c t lead
  refine ⟨fun h hc hs => ⟨exec_switchOut_owned h hc hs, exec_switchIn_owned h hc hs⟩, switchOutCtx_teamless,
    fun n h hb => ⟨?swapOut, ?swapIn⟩,
    ⟨fun hp => ⟨fun he => ?unknown, fun e he => ⟨fun hagain => ?flush, fun hagain hlimit => ?drain, fun hagain hlimit => ?save⟩⟩,
      exec_drainLimit_over, ⟨useEstimate_frame s t, fun e => useEstimate_head s t⟩, rfl⟩,
    fun hs => ⟨_, switchInCtx_resident hs, ?resident, fun n hn => ?rejoined⟩,
    exec_teamSaveComplete_ready, saveImage_eq s t, unseat_result s t, exec_switchOutComplete_unseated, exec_debuggerHalt_preempts,
    exec_debuggerHalt_holds⟩
  case swapOut => rw [exec_partitionSwap_owned lead true h, hb]; rfl
  case swapIn => rw [exec_partitionSwap_owned lead false h, hb]; rfl
  case unknown => exact preempt_takes (way := .save) hp (course_unknown he)
  case flush => exact preempt_takes (way := .flush) hp ((course_known he).trans (if_pos hagain))
  case drain => exact (preempt_takes (way := .drain) hp (course_drain he hagain hlimit)).trans (beginDrain_useEstimate s t)
  case save => exact preempt_takes (way := .save) hp (course_save he hagain hlimit)
  case resident =>
    rw [ctx, foldl_rejoin_ctxs]
    exact congrArg Ctx.state (Tab.get_set_same ..)
  case rejoined =>
    rw [rejoined_team hn]
    exact ⟨rejoined_draining, rejoined_drain, fun img => rejoined_saved, rejoined_other⟩

end Sys2Proof.Machine
end

section
/-! SUPPORT. The number formats of chapter 07: which codes are NaN, what NaN operands give, and the range of a rounded code. Then the forms of
one ready thread over two registers, the packed forms lane by lane (R174, R413), and the NaN rules of the FP32 forms (R172, R173). -/

namespace Sys2Proof.Machine

/-! ## The codes of a format (R170) -/

/-- The magnitude codes that a format names lie below its sign bit (R170, R175). -/
def Fmt.Fits (f : Fmt) : Prop :=
  f.maxCode < 2 ^ f.sign ∧ (∀ m ∈ f.inf, m < 2 ^ f.sign) ∧ ∀ m ∈ f.nan, m < 2 ^ f.sign

theorem halfFmt_fits (m : Bool) : (halfFmt m).Fits := by
  cases m <;> simp [halfFmt, Fmt.Fits, fp16, bf16]

@[simp] theorem halfFmt_sign (m : Bool) : (halfFmt m).sign = 15 := by cases m <;> rfl

/-- A code is NaN where its magnitude is above every finite one and is not infinity's (R170). -/
theorem Fmt.decode_eq_nan_iff (f : Fmt) (x : Nat) :
    f.decode x = .nan ↔ f.maxCode < x % 2 ^ f.sign ∧ f.inf ≠ some (x % 2 ^ f.sign) := by
  simp only [Fmt.decode, ← Nat.not_le]
  split
  · simp [*]; split <;> simp
  · split <;> simp [*]

/-- The NaN codes of FP32 by their fields are those that decode to NaN (R170). -/
theorem decode_fp32_eq_nan_iff (x : W32) : fp32.decode x.toNat = .nan ↔ nanBits x = true := by
  have hexp : x.extractLsb' 23 8 = 0xFF ↔ x.toNat / 2 ^ 23 % 2 ^ 8 = 255 := by
    simp [← BitVec.toNat_inj, Nat.shiftRight_eq_div_pow]
  have hfrac : x.extractLsb' 0 23 = 0 ↔ x.toNat % 2 ^ 23 = 0 := by simp [← BitVec.toNat_inj]
  simp only [Fmt.decode_eq_nan_iff, nanBits, Bool.and_eq_true, beq_iff_eq, bne_iff_ne, ne_eq, hexp, hfrac, fp32, Option.some.injEq]
  omega

/-! ## NaN operands (R172, R373, R376) -/

@[simp] theorem Num.nan_add (rnd : Rnd) (x : Num) : Num.add rnd .nan x = .nan := rfl
@[simp] theorem Num.add_nan (rnd : Rnd) (x : Num) : Num.add rnd x .nan = .nan := by cases x <;> rfl
@[simp] theorem Num.nan_mul (x : Num) : Num.mul .nan x = .nan := rfl
@[simp] theorem Num.mul_nan (x : Num) : Num.mul x .nan = .nan := by cases x <;> rfl
@[simp] theorem Num.nan_lt (x : Num) : Num.lt .nan x = false := rfl
@[simp] theorem Num.lt_nan (x : Num) : Num.lt x .nan = false := by cases x <;> rfl
@[simp] theorem Num.nan_eqv (x : Num) : Num.eqv .nan x = false := rfl
@[simp] theorem Num.eqv_nan (x : Num) : Num.eqv x .nan = false := by cases x <;> rfl

@[simp] theorem roundNum_nan (f : Fmt) (sat : Bool) (rnd : Rnd) : roundNum f sat rnd .nan = f.nanCode := rfl

section
variable {f : Fmt} {a b : Nat} (h : f.decode a = .nan ∨ f.decode b = .nan)
include h

theorem fAdd_nan (rnd : Rnd) : fAdd f rnd a b = f.nanCode := by
  rcases h with h | h <;> simp [fAdd, h]

theorem fMul_nan (rnd : Rnd) : fMul f rnd a b = f.nanCode := by
  rcases h with h | h <;> simp [fMul, h]

theorem fFma_nan (rnd : Rnd) (c : Nat) : fFma f rnd a b c = f.nanCode := by
  rcases h with h | h <;> simp [fFma, h]

theorem fMinMax_nan (wantMax : Bool) : fMinMax f wantMax a b = f.nanCode := by
  rcases h with h | h <;> simp [fMinMax, h, Num.isNan]

end

theorem fFma_nan_addend {f : Fmt} {c : Nat} (h : f.decode c = .nan) (rnd : Rnd) (a b : Nat) : fFma f rnd a b c = f.nanCode := by
  simp [fFma, h]

section
variable {x y : W32} (h : fp32.decode x.toNat = .nan ∨ fp32.decode y.toNat = .nan)
include h

theorem fcLt_nan : fcLt x y = false := by
  rcases h with h | h <;> simp [fcLt, h]

theorem fcEq_nan : fcEq x y = false := by
  rcases h with h | h <;> simp [fcEq, h]

theorem fcLe_nan : fcLe x y = false := by
  simp [fcLe, fcLt_nan h, fcEq_nan h]

theorem fcUn_nan : fcUn x y = true := by
  rcases h with h | h <;> simp [fcUn, isNanF, h, Num.isNan]

end

/-! ## The range of a rounded code (R171, R177) -/

theorem Fmt.signed_lt {f : Fmt} {mag : Nat} (h : mag < 2 ^ f.sign) (neg : Bool) : f.signed neg mag < 2 ^ (f.sign + 1) := by
  unfold Fmt.signed
  split <;> omega

theorem getD_lt {o : Option Nat} {d n : Nat} (h : ∀ m ∈ o, m < n) (hd : d < n) : o.getD d < n := by
  cases o with
  | none => exact hd
  | some m => exact h m rfl

namespace Fmt.Fits

variable {f : Fmt} (hf : f.Fits)
include hf

theorem nanCode_lt : f.nanCode < 2 ^ (f.sign + 1) := by
  have h : f.nanCode < 2 ^ f.sign := getD_lt hf.2.2 (Nat.two_pow_pos _)
  omega

theorem overflowMag_lt (sat : Bool) (rnd : Rnd) (neg : Bool) : overflowMag f sat rnd neg < 2 ^ f.sign := by
  obtain ⟨hmax, hinf, hnan⟩ := hf
  unfold overflowMag
  split
  · exact hmax
  · refine getD_lt (fun m hm => ?_) hmax
    cases h : f.inf with
    | none => exact hnan m (by simpa [h] using hm)
    | some i => exact hinf m (by simpa [h] using hm)

theorem overflowCode_lt (sat : Bool) (rnd : Rnd) (neg : Bool) : overflowCode f sat rnd neg < 2 ^ (f.sign + 1) := by
  have h := hf.overflowMag_lt sat rnd neg
  simp only [overflowCode]
  split
  · omega
  · exact signed_lt h neg

theorem roundRat_lt (sat : Bool) (rnd : Rnd) (neg : Bool) (num den : Nat) (e : Int) :
    roundRat f sat rnd neg num den e < 2 ^ (f.sign + 1) := by
  simp only [roundRat]
  split
  · next h => exact signed_lt (Nat.lt_of_le_of_lt h hf.1) neg
  · exact hf.overflowCode_lt sat rnd neg

/-- A rounded code has the width of its format. -/
theorem roundNum_lt (sat : Bool) (rnd : Rnd) (x : Num) : roundNum f sat rnd x < 2 ^ (f.sign + 1) := by
  cases x with
  | nan => exact hf.nanCode_lt
  | inf neg => exact hf.overflowCode_lt sat .rne neg
  | fin neg m e => exact hf.roundRat_lt sat rnd neg m 1 e

theorem fMinMax_lt {a b : Nat} (wantMax : Bool) (ha : a < 2 ^ (f.sign + 1)) (hb : b < 2 ^ (f.sign + 1)) :
    fMinMax f wantMax a b < 2 ^ (f.sign + 1) := by
  simp only [fMinMax]
  split
  · exact hf.nanCode_lt
  · split <;> assumption

end Fmt.Fits

/-! ## The forms over registers of a ready thread (R344, R364, R372) -/

theorem alu_ready {s : State} {d a b : Reg} (h : Ready s (regs [d, a, b])) (f : W32 → W32 → W32) :
    alu d a b f s = .next (s.setV d (f (s.v a) (s.v b))) := issueTo_ready h _

theorem compare_ready {s : State} {d a b : Reg} {m : Bool} (h : Ready s (preds [d] m ++ regs [a, b])) (f : W32 → W32 → Bool) :
    compare d a b m f s = .next (s.setP (predNum d m) (f (s.v a) (s.v b))) := issueTo_ready h _

section
variable {s : State} {d a b : Reg} (h : Ready s (regs [d, a, b]))
include h

theorem exec_fadd_ready (rnd : Rnd) :
    exec (.fadd rnd d a b) s = .next (s.setV d (f32 (fAdd fp32 rnd (s.v a).toNat (s.v b).toNat))) := issueTo_ready h _

theorem exec_fmul_ready (rnd : Rnd) :
    exec (.fmul rnd d a b) s = .next (s.setV d (f32 (fMul fp32 rnd (s.v a).toNat (s.v b).toNat))) := issueTo_ready h _

theorem exec_fma_ready (rnd : Rnd) :
    exec (.fma rnd d a b) s = .next (s.setV d (f32 (fFma fp32 rnd (s.v a).toNat (s.v b).toNat (s.v d).toNat))) := issueTo_ready h _

theorem exec_fmin_ready :
    exec (.fmin d a b) s = .next (s.setV d (f32 (fMinMax fp32 false (s.v a).toNat (s.v b).toNat))) := issueTo_ready h _

theorem exec_fmax_ready :
    exec (.fmax d a b) s = .next (s.setV d (f32 (fMinMax fp32 true (s.v a).toNat (s.v b).toNat))) := issueTo_ready h _

end

/-! ## Packed half precision (R174, R413) -/

theorem halfAt_eq (x : W32) (e : Nat) : halfAt x e = x.toNat / 2 ^ (16 * e) % 2 ^ 16 := bitsAt_eq ..

theorem halfAt_lt (x : W32) (e : Nat) : halfAt x e < 2 ^ 16 := Nat.mod_lt _ (Nat.two_pow_pos _)

/-- Two elements joined in a word are found at their places. -/
theorem halfAt_joined (g : Nat → Nat) (hg : ∀ e, g e < 2 ^ 16) : ∀ e < 2, halfAt (f32 (g 0 + 65536 * g 1)) e = g e := by
  have h0 := hg 0
  have h1 := hg 1
  intro e he
  rw [halfAt_eq, f32, BitVec.toNat_ofNat]
  match e with
  | 0 => omega
  | 1 => omega

/-- A packed form writes one word, whose two elements are each the function of the operands' elements at its place. -/
theorem packed_ready {s : State} {d a b : Reg} (h : Ready s (regs [d, a, b])) {f : Nat → Nat → Nat}
    (hf : ∀ e, f (halfAt (s.v a) e) (halfAt (s.v b) e) < 2 ^ 16) :
    ∃ x : W32, alu d a b (packed f) s = .next (s.setV d x) ∧ ∀ e < 2, halfAt x e = f (halfAt (s.v a) e) (halfAt (s.v b) e) :=
  ⟨_, alu_ready h _, halfAt_joined (fun e => f (halfAt (s.v a) e) (halfAt (s.v b) e)) hf⟩

/-- A rounded half-precision code has 16 bits. -/
theorem roundNum_half_lt (m sat : Bool) (rnd : Rnd) (x : Num) : roundNum (halfFmt m) sat rnd x < 2 ^ 16 := by
  simpa using (halfFmt_fits m).roundNum_lt sat rnd x

theorem fMinMax_half_lt (m wantMax : Bool) (x y : W32) (e : Nat) : fMinMax (halfFmt m) wantMax (halfAt x e) (halfAt y e) < 2 ^ 16 := by
  simpa using (halfFmt_fits m).fMinMax_lt wantMax (by simpa using halfAt_lt x e) (by simpa using halfAt_lt y e)

/-- Settles O7: a rounded code of either format has 16 bits, so neither element reaches into the other. -/
theorem packedHalfPrecision : Obligations.PackedHalfPrecision := by
  unfold Obligations.PackedHalfPrecision
  intro s d a b m h
  simp only [List.forall_mem_cons, List.not_mem_nil, false_implies, implies_true, and_true, ← halfAt_eq]
  refine ⟨?hadd2, ?hmul2, ?hfma2, ?hmin2, ?hmax2⟩
  case hadd2 => exact packed_ready h fun e => roundNum_half_lt ..
  case hmul2 => exact packed_ready h fun e => roundNum_half_lt ..
  case hfma2 =>
    exact ⟨_, issueTo_ready h _, halfAt_joined
      (fun e => fFma (halfFmt m) .rne (halfAt (s.v a) e) (halfAt (s.v b) e) (halfAt (s.v d) e)) fun e => roundNum_half_lt ..⟩
  case hmin2 => exact packed_ready h fun e => fMinMax_half_lt ..
  case hmax2 => exact packed_ready h fun e => fMinMax_half_lt ..

/-! ## NaN and the special inputs (R172, R173) -/

/-- Settles O8: a NaN operand makes the exact result NaN, of which rounding makes the canonical code, and no compare but `fcmp.un` holds of
it. The special inputs are evaluated. -/
theorem nanAndSpecialInputs : Obligations.NanAndSpecialInputs := by
  unfold Obligations.NanAndSpecialInputs
  simp only [List.forall_mem_cons, List.not_mem_nil, false_implies, implies_true, and_true, ← decode_fp32_eq_nan_iff]
  refine ⟨fun s rnd d a b m h => ⟨fun hr => ⟨?fadd, ?fmul, ?fma, ?fmin, ?fmax⟩, fun hr => ⟨⟨?fcmpEq, ?fcmpLt, ?fcmpLe⟩, ?fcmpUn⟩⟩,
    fun s rnd d a b h hr => ?addend, ?frcp, ?frsq, ?fsqrt, ?fexp2, ?flog2⟩
  case fadd => rw [exec_fadd_ready hr, fAdd_nan h]; rfl
  case fmul => rw [exec_fmul_ready hr, fMul_nan h]; rfl
  case fma => rw [exec_fma_ready hr, fFma_nan h]; rfl
  case fmin => rw [exec_fmin_ready hr, fMinMax_nan h]; rfl
  case fmax => rw [exec_fmax_ready hr, fMinMax_nan h]; rfl
  case fcmpEq => exact (compare_ready hr fcEq).trans (by rw [fcEq_nan h]; rfl)
  case fcmpLt => exact (compare_ready hr fcLt).trans (by rw [fcLt_nan h]; rfl)
  case fcmpLe => exact (compare_ready hr fcLe).trans (by rw [fcLe_nan h]; rfl)
  case fcmpUn => exact (compare_ready hr fcUn).trans (by rw [fcUn_nan h]; rfl)
  case addend => rw [exec_fma_ready hr, fFma_nan_addend h]; rfl
  case frcp => decide
  case frsq => decide
  case fsqrt => decide
  case fexp2 => decide
  case flog2 => decide

end Sys2Proof.Machine
end

section
/-! SUPPORT. The array instructions of a ready slot (R396, R400, R406): their checks pass on aligned operands, and one unit of work goes on
with the spans that it has translated. -/

namespace Sys2Proof.Machine

@[simp] theorem FRes.ok_andThen {α β : Type} (a : α) (s : State) (k : α → State → FRes β) : (FRes.ok a s).andThen k = k a s := rfl

/-- A ready slot whose instruction's checks and effect complete is done with that unit of work. -/
theorem fxIssue_completes {s t : State} {x : FSlot} {last : Bool} {k : FSlot → State → FRes Bool} (h : SlotReady s x)
    (hk : k x s = .ok last t) : fxIssue s k = unitDone last t := by
  rw [fxIssue_ready h, hk, unitDone]

theorem fxCount_of_whole {v : W64} (hm : v.toNat % 32 = 0) (hlo : 32 ≤ v.toNat) (hhi : v.toNat ≤ 2 ^ 30) : fxCount v = some v.toNat :=
  if_pos ⟨hm, hlo, hhi⟩

/-- Two aligned addresses pass the check of their alignments. -/
theorem aligned_both {u v m n : Nat} (hu : u % m = 0) (hv : v % n = 0) : (u % m != 0 || v % n != 0) = false := by
  simp [hu, hv]

/-- The last block of n elements is the one that reaches them all. -/
theorem lastBlock_iff {n k : Nat} (h : n % 32 = 0) : n / 32 ≤ k + 1 ↔ n ≤ 32 * (k + 1) := by omega

/-- Settles O39: the operands pass each instruction's checks, and what it then does with its spans is the unit of work. That each invalid
block of `fx.unpack` leaves one record is the model's choice (log 33). -/
theorem akporArrays : Obligations.AkporArrays := by
  unfold Obligations.AkporArrays
  dsimp only
  refine ⟨fun s x d a b hs => ?pack, fun s x code nh d a b hs => ⟨fun n hn hpos hm ha hd pi s1 po s2 hi ho => ?unpack,
    fun n hn hpos hmax ha hb pa s1 pb s2 hpa hpb => ?red⟩⟩
  case pack =>
    intro c hc base hbase hm hlo hhi ha hd pg s1 pr s2 pi s3 hg hr hi
    have hexec : exec c.1 s = fxIssue s (packBlock c.2 d a b) := by
      simp only [List.mem_cons, List.not_mem_nil, or_false] at hc
      rcases hc with rfl | rfl | rfl <;> rfl
    refine hexec.trans (fxIssue_completes hs ?_)
    simp only [packBlock, fxCount_of_whole hm hlo hhi, hbase, aligned_both ha hd, Bool.false_eq_true, if_false, hg, hr, hi,
      FRes.ok_andThen, lastBlock_iff hm, Bool.and_eq_true, beq_iff_eq, addRne]
  case unpack =>
    subst hn
    have hwhole : ((x.f b).toNat % 32 != 0) = false := by simp [hm]
    change execFxUnpack code d a b s = _
    refine fxIssue_completes hs ?_
    simp only [hwhole, aligned_both ha hd, Nat.ne_of_gt hpos, Bool.false_eq_true, if_false, hi, ho, FRes.ok_andThen, lastBlock_iff hm]
  case red =>
    subst hn
    have hcount : ((x.f d).toNat = 0 || 2 ^ 30 < (x.f d).toNat : Bool) = false := by
      simp only [Bool.or_eq_false_iff, decide_eq_false_iff_not]; omega
    change execFxRed nh d a b s = _
    refine fxIssue_completes hs ?_
    simp only [hcount, aligned_both ha hb, Bool.false_eq_true, if_false, hpa, hpb, FRes.ok_andThen, addRne]

end Sys2Proof.Machine
end

section
/-! SUPPORT. An access of the scratchpad and of a transaction barrier in it: its checks in their order, and what each leaves of the
instruction (R103, R131, R205). Then what each barrier instruction does on a barrier that it may access, and the clauses of `Barriers`. -/

namespace Sys2Proof.Machine

/-- The generic address of a scratchpad offset lies in the window 0xFE (R94). -/
theorem scratchAddr_eq (off : Nat) : scratchAddr off = BitVec.ofNat 64 (0xFE * 2 ^ 56 + off) := rfl

namespace State

/-! ## The checks of a scratchpad access, in their order (R103, R131, R415) -/

section
variable {s : State} {off n align : Nat} {cls : IClass}

theorem spCheck_misaligned (ha : off % align ≠ 0) : s.spCheck off n align cls = .trap 0x11 (scratchAddr off) 0 s := by
  simp [spCheck, ha]

theorem spCheck_outside (ha : off % align = 0) (hb : s.scratchSize s.curTeam < off + n) :
    s.spCheck off n align cls = .trap 0x13 (scratchAddr off) 0 s := by
  simp [spCheck, ha, hb]

theorem spCheck_blocked (ha : off % align = 0) (hb : off + n ≤ s.scratchSize s.curTeam)
    (hw : s.spBlocked s.curTeam off n cls = true) : s.spCheck off n align cls = .wait .scoreboard s := by
  simp [spCheck, ha, Nat.not_lt.mpr hb, hw]

theorem spCheck_open (h : SpanOpen s off n cls) : s.spCheck off n n cls = .ok () s := by
  obtain ⟨ha, hb, hw⟩ := h
  simp [spCheck, ha, Nat.not_lt.mpr hb, hw]

/-! ## The access of a barrier instruction (R205, R350 to R353) -/

theorem barAccess_reserved (h : SpanOpen s off 16 cls) (hz : (s.barrier s.curTeam off).resvd ≠ 0) :
    s.barAccess off cls = .trap 0x1A (scratchAddr off) 0 s := by
  simp [barAccess, spCheck_open h, Res.andThen, hz]

theorem barAccess_open (h : SpanOpen s off 16 cls) (hz : (s.barrier s.curTeam off).resvd = 0) :
    s.barAccess off cls = .ok (s.barrier s.curTeam off) s := by
  simp [barAccess, spCheck_open h, Res.andThen, hz]

/-- An instruction that begins with an access of a barrier takes the trap, or the wait, that the access meets, whatever it would do next. -/
theorem barAccess_stops {i : Instr} {k : Barrier → State → Res Unit}
    (hexec : exec i s = .next ((s.barAccess off cls).andThen k).settle) :
    (off % 16 ≠ 0 → exec i s = .next (s.raise 0x11 (scratchAddr off) 0)) ∧
    (off % 16 = 0 → s.scratchSize s.curTeam < off + 16 → exec i s = .next (s.raise 0x13 (scratchAddr off) 0)) ∧
    (off % 16 = 0 → off + 16 ≤ s.scratchSize s.curTeam → s.spBlocked s.curTeam off 16 cls = true →
      exec i s = .next (s.park .scoreboard)) ∧
    (SpanOpen s off 16 cls → (s.barrier s.curTeam off).resvd ≠ 0 → exec i s = .next (s.raise 0x1A (scratchAddr off) 0)) := by
  rw [hexec]
  refine ⟨fun ha => ?misaligned, fun ha hb => ?outside, fun ha hb hw => ?blocked, fun ho hz => ?reserved⟩
  case misaligned => rw [barAccess, spCheck_misaligned ha]; rfl
  case outside => rw [barAccess, spCheck_outside ha hb]; rfl
  case blocked => rw [barAccess, spCheck_blocked ha hb hw]; rfl
  case reserved => rw [barAccess_reserved ho hz]; rfl

end

/-! ## The instructions on a barrier that they may access (R206, R350 to R353) -/

section
variable {s : State} {d a b : Reg} {m : Bool}

theorem exec_barInit_open (hr : Ready s (regs [d, a])) (ho : SpanOpen s (s.v d).toNat 16 .w)
    (hz : (s.barrier s.curTeam (s.v d).toNat).resvd = 0) :
    exec (.barInit d a) s = .next (Res.settle
      (if (s.v a).toNat = 0 ∨ 1048575 < (s.v a).toNat then .trap 0x1A (scratchAddr (s.v d).toNat) 0 s
      else .ok () (s.putBarrier s.curTeam (s.v d).toNat ⟨0, (s.v a).toNat, (s.v a).toNat, 0, false, false, 0⟩))) := by
  change execBarInit d a s = _
  simp only [execBarInit, issue_ready hr, barAccess_open ho hz, Res.andThen, Bool.or_eq_true, decide_eq_true_eq]

theorem exec_barExpect_open (hr : Ready s (regs [d, a])) (ho : SpanOpen s (s.v d).toNat 16 .w)
    (hz : (s.barrier s.curTeam (s.v d).toNat).resvd = 0) :
    let x := s.barrier s.curTeam (s.v d).toNat
    exec (.barExpect d a) s = .next (Res.settle
      (if 2 ^ 32 - 1 < x.sectors + (s.v a).toNat then .trap 0x1A (scratchAddr (s.v d).toNat) 0 s
      else .ok () (s.putBarrier s.curTeam (s.v d).toNat { x with sectors := x.sectors + (s.v a).toNat, armed := true }.advance))) := by
  change execBarExpect d a s = _
  simp only [execBarExpect, issue_ready hr, barAccess_open ho hz, Res.andThen]

theorem exec_barArrive_open (hr : Ready s (regs [d, a])) (ho : SpanOpen s (s.v a).toNat 16 .w)
    (hz : (s.barrier s.curTeam (s.v a).toNat).resvd = 0) :
    let x := s.barrier s.curTeam (s.v a).toNat
    exec (.barArrive d a) s = .next (Res.settle
      (if x.pending = 0 then .trap 0x1A (scratchAddr (s.v a).toNat) 0 s
      else .ok () ((s.putBarrier s.curTeam (s.v a).toNat { x with pending := x.pending - 1 }.advance).setV d
        (BitVec.ofNat 32 x.phase)))) := by
  change execBarArrive d a s = _
  simp only [execBarArrive, issue_ready hr, barAccess_open ho hz, Res.andThen]

/-- The phase that a wait names is the low four bits of its register (R352). -/
theorem phaseNumber_eq (x : W32) : bitsAt x.toNat 0 4 = x.toNat % 16 := by
  have h := bitsAt_eq x.toNat 0 4
  omega

theorem exec_barWait_open (hr : Ready s (preds [d] m ++ regs [a, b])) (ho : SpanOpen s (s.v a).toNat 16 .r)
    (hz : (s.barrier s.curTeam (s.v a).toNat).resvd = 0) :
    let x := s.barrier s.curTeam (s.v a).toNat
    exec (.barWait d a b m) s = .next (Res.settle
      (if x.phase = (s.v b).toNat % 16 then .wait .barrier (s.onThr fun t => { t with barAt := some (s.v a).toNat })
      else .ok () ((s.onThr fun t => { t with barAt := none }).setP (predNum d m) x.error))) := by
  change execBarWait d a b m s = _
  simp only [execBarWait, issue_ready hr, barAccess_open ho hz, Res.andThen, phaseNumber_eq]

theorem exec_barTry_open (hr : Ready s (preds [d] m ++ regs [a, b])) (ho : SpanOpen s (s.v a).toNat 16 .r)
    (hz : (s.barrier s.curTeam (s.v a).toNat).resvd = 0) :
    exec (.barTry d a b m) s = .next
      (s.setP (predNum d m) (decide ((s.barrier s.curTeam (s.v a).toNat).phase ≠ (s.v b).toNat % 16))) := by
  change execBarTry d a b m s = _
  simp only [execBarTry, issue_ready hr, barAccess_open ho hz, Res.andThen, phaseNumber_eq, decide_not]
  rfl

end

end State

open State

/-- Settles O26: every form begins with the access of its barrier, whose checks stop it. Past them `bar.try` reads the phase, and each other
form has one condition, of which one side traps, or for `bar.wait` waits, and the other is its effect. -/
theorem barriers : Obligations.Barriers := by
  unfold Obligations.Barriers
  dsimp only
  simp only [List.forall_mem_cons, List.not_mem_nil, false_implies, implies_true, and_true, ← scratchAddr_eq]
  intro s d a b m
  refine ⟨⟨fun hr => ?initStops, fun hr => ?expectStops, fun hr => ?arriveStops, fun hr => ?waitStops, fun hr => ?tryStops⟩,
    fun hr => ⟨fun ho hz => ⟨fun hn => ?initCount, fun hn => ?expectCount⟩, fun ho hz hp => ?arriveNone⟩,
    fun hr => ⟨fun ho hz => ⟨fun hlo hhi => ?init, fun hn => ?expect⟩, fun ho hz hp => ?arrive⟩,
    fun hr ho hz => ⟨fun hphase => ?waitOver, fun hphase => ?waitParks, ?try_⟩⟩
  case initStops => exact barAccess_stops (issue_ready hr _)
  case expectStops => exact barAccess_stops (issue_ready hr _)
  case arriveStops => exact barAccess_stops (issue_ready hr _)
  case waitStops => exact barAccess_stops (issue_ready hr _)
  case tryStops => exact barAccess_stops (issue_ready hr _)
  case initCount => rw [exec_barInit_open hr ho hz, if_pos hn]; rfl
  case expectCount => rw [exec_barExpect_open hr ho hz, if_pos (by omega)]; rfl
  case arriveNone => rw [exec_barArrive_open hr ho hz, if_pos hp]; rfl
  case init => rw [exec_barInit_open hr ho hz, if_neg (by omega)]; rfl
  case expect => rw [exec_barExpect_open hr ho hz, if_neg (by omega)]; rfl
  case arrive => rw [exec_barArrive_open hr ho hz, if_neg hp]; rfl
  case waitOver => rw [exec_barWait_open hr ho hz, if_neg hphase]; rfl
  case waitParks => rw [exec_barWait_open hr ho hz, if_pos hphase]; rfl
  case try_ => exact exec_barTry_open hr ho hz

end Sys2Proof.Machine
end
